-- ==== Sys2Proof/Word.lean ====
section
/-!
DEFINITION. The words of the Nimkar and the plain data types that commands carry as operands.
Multi-byte fields are little-endian (R6); quantities that the manual counts or numbers are Nat.
-/
namespace Sys2Proof

/-- One byte of any store, packet or record. -/
abbrev Byte := BitVec 8

/-- A run of bytes, lowest offset first (R6). -/
abbrev Bytes := List Byte

/-- A 32-bit word: an F32, an I32 or a register of 4 bytes. -/
abbrev W32 := BitVec 32

/-- A 64-bit word: a register of 8 bytes, an F64 or a random generator's state. -/
abbrev W64 := BitVec 64

/-- The three variants (R2, R12). -/
inductive Variant where
  | nk2
  | nk4
  | nk8
  deriving DecidableEq, Repr

/-- A queue: the admin queue of a host port, or I/O queue `q` (chapter *Host interface and queues*). -/
inductive QId where
  | admin (port : Nat)
  | io (q : Nat)
  deriving DecidableEq, Repr

/-- A PCIe function: the physical function of a port, or virtual function `n` of a port (R478). -/
inductive Fn where
  | pf (port : Nat)
  | vf (port n : Nat)
  deriving DecidableEq, Repr

/-- The name of a command between its fetch and its completion: its queue and its tag (R494). -/
structure CmdId where
  queue : QId
  tag : Nat
  deriving DecidableEq, Repr

/-- LOAD_WEIGHTS fields of the *Step word layouts* table (R197). -/
structure LoadArgs where
  shape : Nat
  halfB : Bool
  w : Nat
  tileK : Nat
  tileN : Nat
  deriving DecidableEq, Repr

/-- STREAM_MM and MV fields of the *Step word layouts* table (R197). -/
structure MatArgs where
  engine : Nat
  shape : Nat
  accumulate : Bool
  final : Bool
  halfB : Bool
  round : Nat
  act : Nat
  ieeeOvf : Bool
  a : Nat
  w : Nat
  out : Nat
  bias : Nat
  m : Nat
  n : Nat
  k : Nat
  accBase : Nat
  accLog2W : Nat
  outFormat : Nat
  sregBase : Nat
  kOff : Nat
  nOff : Nat
  mOff : Nat
  deriving DecidableEq, Repr

/-- VEC fields of the *Step word layouts* table (R197); `bUse` and `cUse` are bits 13:12 of B and C. -/
structure VecArgs where
  vop : Nat
  round : Nat
  conforming : Bool
  dequant : Bool
  ieeeOvf : Bool
  ascending : Bool
  mode : Nat
  a : Nat
  b : Nat
  bUse : Nat
  c : Nat
  cUse : Nat
  out : Nat
  outFormat : Nat
  pred : Nat
  topkK : Nat
  param : W32
  rowOff : Nat
  rows : Nat
  deriving DecidableEq, Repr

/-- QSCAN fields (R197); a QCONVERT adds `seg`, `round` and `out`. -/
structure QuantArgs where
  asym : Bool
  merge : Bool
  axis : Nat
  src : Nat
  group : Nat
  target : Nat
  seg : Nat
  round : Nat
  out : Nat
  deriving DecidableEq, Repr

/-- COLLECTIVE fields of the *Step word layouts* table (R197). -/
structure CollArgs where
  cop : Nat
  ring : Nat
  src : Nat
  dst : Nat
  headroom : Nat
  deriving DecidableEq, Repr

/-- One decoded step word with its SYNC bit (R197). -/
inductive StepKind where
  | loadWeights (a : LoadArgs)
  | swap (halfB : Bool)
  | streamMm (a : MatArgs)
  | mv (a : MatArgs)
  | vec (a : VecArgs)
  | qscan (a : QuantArgs)
  | qconvert (a : QuantArgs)
  | copy (stream : Bool) (src dst : Nat)
  | fill (width offset length value : Nat)
  | tpCopy (srcOff dstOff length : Nat)
  | wait (event count : Nat)
  | signal (event cluster increment : Nat)
  | layerMark (layer : Nat)
  | collective (a : CollArgs)
  | commit
  deriving DecidableEq, Repr

/-- A step of a step list: its kind and its COMMON.SYNC bit. -/
structure StepWord where
  kind : StepKind
  sync : Bool
  deriving DecidableEq, Repr

/-- An LB32 block (R455): 32 signed elements, the shared exponent, the two flags and the residue. -/
structure Lb32 where
  e : List Int
  exp : Nat
  rescaled : Bool
  raw : Bool
  residue : Nat
  deriving DecidableEq, Repr

/-- The payload of a CONTROL packet (R454). -/
structure Ctl where
  kind : Nat
  members : Nat
  op : Nat
  cop : Nat
  headroom : Nat
  status : Nat
  origin : Nat
  units : Nat
  planes : Nat
  deriving DecidableEq, Repr

/-- A Longshore packet (R430) as it is sent or as it arrives. -/
structure LsPkt where
  type : Nat
  retransmit : Bool
  ceSeen : Bool
  ring : Nat
  epoch : Nat
  src : Nat
  dst : Nat
  stripe : Nat
  plane : Nat
  seq : Nat
  ackSeq : Nat
  credit : Nat
  chunk : Nat
  block : Nat
  blocks : List Lb32
  sack : Nat
  ctl : Option Ctl
  deriving DecidableEq, Repr

/-- What a checker finds when it reads a word, row or sector (R217). -/
inductive Ecc where
  | clean
  | corrected
  | uncorrectable
  deriving DecidableEq, Repr

/-- The stores that are scrubbed (R227), by their tier in the health log (R630). -/
inductive Store where
  | tidepool
  | accumulator
  | dieCache
  | path
  | nearMemory
  | flash
  deriving DecidableEq, Repr

/-- The step of `read_codeword` (R335) that recovers one copy of a codeword: hard decoding, with the bits that it corrected; a read retry level;
the other members of the row. -/
inductive CwStep where
  | hard (corrected : Nat)
  | retry (level : Nat)
  | parity
  deriving DecidableEq, Repr

/-- How one codeword is recovered (R303, R335): the step of `read_codeword` that succeeds, on the first copy or, where every step on it fails, on
the second; or none. -/
inductive CwOutcome where
  | hard (corrected : Nat)
  | retry (level : Nat)
  | parity
  | mirror (copy : CwStep)
  | lost
  deriving DecidableEq, Repr

/-- The reference clocks of the *Reference clocks* table (R594). -/
inductive RefClock where
  | pclk0
  | pclk1
  | fclk
  | sclk
  | aclk
  deriving DecidableEq, Repr

/-- What a checker answers at start-up to the clean, the single-error and the double-error pattern (R238): its finding and its data. The unit
is the one of the *Checker units* table (R239): a tidepool bank, a core, a die, a cluster (`path`) or a stack. -/
structure SelfTest where
  store : Store
  unit : Nat
  answers : List (Ecc × Nat)
  deriving DecidableEq, Repr

/-- What the board fits on a channel group (R309, R311): for each of its 16 channels the LUNs, each with the ID bytes and the model that it answers. -/
structure GroupFit where
  channels : List (List (Nat × List (BitVec 8)))
  deriving DecidableEq, Repr

/-- LUNs on each channel of a group. -/
def GroupFit.luns (f : GroupFit) : Nat := (f.channels.headD []).length

/-- What the board and the start-up tests bring to an event that can start the package up: reference clocks that run again (R594), the
codes of the units that fail their tests (R682), the checkers that do not answer as the *Self-test patterns* table requires (R238), the NAND fitted
from now on, where it is not what it was (R309), and whether the stored tunables cannot be read (R346). -/
structure Board where
  back : List RefClock
  failing : List Nat
  checks : List SelfTest := []
  nand : List GroupFit := []
  tunablesLost : Bool := false
  keysLost : List Nat := []
  deriving DecidableEq, Repr

/-- The limit at which a flush stops (R357), coded as PLP_END (R539). -/
inductive FlushLimit where
  | time
  | energy
  | power
  deriving DecidableEq, Repr

/-- The shared paths with regulators (R386). -/
inductive RegPath where
  | nm
  | d2d
  | flash
  | fabric
  | pcie
  deriving DecidableEq, Repr

/-- The two paths that carry SPDM (R579). -/
inductive SpdmPath where
  | doe (port : Nat)
  | mctp
  deriving DecidableEq, Repr

end Sys2Proof
end

