-- ==== Sys2Proof/Syntax.lean ====
section
/-!
DEFINITION. The commands and events of the Nimkar: one constructor for each row of the opcode table.
A packet command is named by its queue and tag and carries its command fields (*Command reference*).
A step row names the core whose sequencer issues it and carries its step word fields (R197).
Values that only the outside world knows (measured power, a checker's finding, an arriving packet) are operands.
-/
namespace Sys2Proof

/-- One constructor for each row of the opcode table, in the table's order. -/
inductive Instr where
  -- Admin and partitions (0x0, 0x1)
  | nop (id : CmdId)
  | cfgRead (id : CmdId)
  | cfgWrite (id : CmdId)
  | setOpp (id : CmdId) (opp : Nat)
  | storeTune (id : CmdId) (tunable value : Nat)
  | partCreate (id : CmdId) (p : Nat)
  | partModify (id : CmdId) (p : Nat)
  | partDestroy (id : CmdId) (p : Nat)
  | ctxCreate (id : CmdId) (p priority : Nat)
  | ctxDestroy (id : CmdId) (p c : Nat)
  | ctxModify (id : CmdId) (p c priority : Nat)
  | ctxStatus (id : CmdId) (p c : Nat)
  | ctxFlagsClear (id : CmdId) (p c mask : Nat)
  -- Storage (0x2)
  | blockRead (id : CmdId) (ns lba count : Nat)
  | blockWrite (id : CmdId) (ns lba count : Nat)
  | blockTrim (id : CmdId) (ns lba count : Nat)
  | storeFlush (id : CmdId)
  | nsCreate (id : CmdId) (ns type op encrypt capacity objects : Nat)
  | nsDestroy (id : CmdId) (ns : Nat)
  | objCreate (id : CmdId) (ns flags obj length : Nat)
  | objWrite (id : CmdId) (ns obj offset : Nat)
  | objRead (id : CmdId) (ns obj offset length : Nat)
  | objDelete (id : CmdId) (ns obj : Nat)
  -- Tensors and quantisation (0x3, 0x5)
  | tensorCreate (id : CmdId) (home : Nat)
  | tensorDestroy (id : CmdId) (h : Nat)
  | tensorWrite (id : CmdId) (h region offset : Nat)
  | tensorRead (id : CmdId) (h region offset length : Nat)
  | tensorCopy (id : CmdId) (src dst : Nat)
  | tensorStage (id : CmdId) (h : Nat)
  | tensorSync (id : CmdId) (h : Nat)
  | tensorEvict (id : CmdId) (h : Nat)
  | tensorRepair (id : CmdId) (h source : Nat)
  | tensorInfo (id : CmdId) (h : Nat)
  | qstats (id : CmdId) (h first count : Nat)
  -- Programs and semaphores (0x4)
  | progLoad (id : CmdId)
  | progRun (id : CmdId) (prog : Nat) (seed : W64)
  | progUnload (id : CmdId) (prog : Nat)
  | semCreate (id : CmdId)
  | semAcquire (id : CmdId) (sem donateMax timeout : Nat)
  | semRelease (id : CmdId) (sem : Nat)
  | semDestroy (id : CmdId) (sem : Nat)
  -- Search (0x6)
  | idxCreate (id : CmdId) (ns : Nat)
  | idxQuery (id : CmdId) (ns prune count l k beam maxReads : Nat)
  | idxInsert (id : CmdId) (ns : Nat)
  | idxDelete (id : CmdId) (ns node : Nat)
  | idxMerge (id : CmdId) (ns flags : Nat)
  | idxInfo (id : CmdId) (ns : Nat)
  | idxDestroy (id : CmdId) (ns : Nat)
  -- Accords (0x7)
  | accordLoad (id : CmdId) (ctx defLen : Nat)
  | accordRun (id : CmdId) (acc startStage : Nat) (seed : W64)
  | accordUnload (id : CmdId) (acc : Nat)
  | modelBind (id : CmdId) (prog count : Nat)
  | modelUnbind (id : CmdId) (model : Nat)
  -- Collectives and fabric (0x8)
  | ringForm (id : CmdId) (ringId epoch members index planes timeout : Nat)
  | ringDissolve (id : CmdId) (ring : Nat)
  | ringInfo (id : CmdId) (ring : Nat)
  | fabPortSet (id : CmdId) (lport : Nat)
  | fabPortInfo (id : CmdId) (lport : Nat)
  -- Configuration flash, security and test (0x9, 0xA, 0xC)
  | cflRead (id : CmdId) (addr length : Nat)
  | cflProgram (id : CmdId) (addr : Nat)
  | cflErase (id : CmdId) (sector : Nat)
  | cflSuspend (id : CmdId)
  | cflResume (id : CmdId)
  | cflProtect (id : CmdId) (level : Nat)
  | attest (id : CmdId) (nonce : Nat)
  | identityRead (id : CmdId)
  | romxUpdate (id : CmdId)
  | errInject (id : CmdId) (p kind addr : Nat)
  | linkTest (id : CmdId) (kind pattern index mode lun laneMask durationMs : Nat)
  | linkMargin (id : CmdId) (kind index laneMask target : Nat)
  | memBist (id : CmdId) (target algorithm index : Nat)
  -- Health, telemetry and results (0xB)
  | healthLog (id : CmdId)
  | eventWait (id : CmdId)
  | acctRead (id : CmdId) (scope p c : Nat)
  | acctClear (id : CmdId) (scope p c mask : Nat)
  | memInfo (id : CmdId)
  | storeInfo (id : CmdId)
  | resultRead (id : CmdId) (handle flags tag offset : Nat)
  | resultRelease (id : CmdId) (handle flags tag : Nat)
  -- Steps of a core's list and the commit of a command
  | loadWeights (core : Nat) (a : LoadArgs)
  | swap (core : Nat) (halfB : Bool)
  | swapTakesEffect (core : Nat) (halfB : Bool)
  | streamMm (core : Nat) (a : MatArgs)
  | mv (core : Nat) (a : MatArgs)
  | vec (core : Nat) (a : VecArgs)
  | qscan (core : Nat) (a : QuantArgs)
  | qconvert (core : Nat) (a : QuantArgs)
  | copy (core : Nat) (stream : Bool) (src dst : Nat)
  | fill (core width offset length value : Nat)
  | tpCopy (core srcOff dstOff length : Nat)
  | wait (core event count : Nat)
  | signal (core event cluster increment : Nat)
  | layerMark (core layer : Nat)
  | collective (core : Nat) (a : CollArgs)
  | commit (core : Nat)
  | prefetchIssue (core entry : Nat)
  | commandCommit (id : CmdId)
  -- Accord stages
  | tokensIn (id : CmdId)
  | embed (id : CmdId)
  | search (id : CmdId)
  | filter (id : CmdId)
  | rerank (id : CmdId)
  | gather (id : CmdId)
  | out (id : CmdId)
  | store (id : CmdId)
  | insert (id : CmdId)
  | loader (id : CmdId)
  | modelStage (id : CmdId)
  | collectiveStage (id : CmdId)
  | optimiser (id : CmdId)
  -- Walkers
  | querySlotStart (id : CmdId) (qi walker : Nat)
  | recordArrival (id : CmdId) (qi slot : Nat)
  | driftlineEntryScan (walker ns entry : Nat)
  | mergeRound (ns : Nat)
  | driftlineReclaim (ns : Nat)
  -- Flash store
  | slotProgram (slot : Nat)
  | nandProgramDone (slot : Nat)
  | nandProgramFail (slot : Nat)
  | readCodeword (ns lblock : Nat) (outcome : CwOutcome)
  | nandEraseDone (group sb : Nat)
  | gcCollect (group : Nat)
  | readCountThreshold (group sb member : Nat)
  | retentionScan (group sb : Nat) (worst : CwOutcome)
  | superblockRefresh (group sb : Nat)
  | wearLevel (group : Nat)
  | journalPieceWrite (die : Nat)
  | mapCheckpoint (ns segment : Nat)
  | channelRecalibrate (channel : Nat)
  | lunFailure (channel : Nat) (lun : Option Nat)
  -- Tensor background work
  | tensorWriteBack (h : Nat)
  | stageTransfer (h : Nat)
  -- Integrity
  | scrubStep (st : Store) (addr : Nat) (found : Ecc)
  | outOfTurnScrub (st : Store) (addr : Nat)
  | remapTableWrite
  -- Scheduling and accounting
  | sliceEnd (p : Nat)
  | handover (p : Nat)
  | runBoundExpiry (id : CmdId)
  | semTimeout (id : CmdId)
  | regulatorAdmit (p : Nat) (path : RegPath) (unit bytes : Nat)
  | energySample (energyMj : List Nat) (activity : List (Nat × Nat × List Nat))
  -- Power, temperature and health
  | capStep (otherW measuredW : Nat)
  | tempSample (temps : List (Nat × Int))
  | healthLogSave
  -- Faults
  | unitFaultDetected (unit : Nat)
  | deviceClassFault (unit : Nat)
  | watchdogExpiry (proc : Nat) (cmds : List CmdId)
  | clockLoss (clk : RefClock)
  -- Power and reset
  | powerOn (board : Board)
  | pwrgdFall
  | plpNFall
  | flushLimitReached (limit : FlushLimit)
  | powerRemoved
  | replayStart
  | pkgReset (f : Fn) (value : W32) (board : Board)
  | packageReset (board : Board)
  | perstAssert (port : Nat) (board : Board)
  | perstRelease (port : Nat)
  | functionLevelReset (f : Fn)
  | d3hotEntry (f : Fn)
  | vfEnable (port numVfs : Nat) (enable : Bool)
  | configRequest (f : Fn) (offset : Nat)
  | pcieLinkUp (port : Nat)
  | pcieLinkDown (port : Nat)
  -- Doorbells and registers
  | sqTail (f : Fn) (q : QId) (value : W32)
  | commandFetch (q : QId)
  | cqHead (f : Fn) (q : QId) (value : W32)
  | queueEnable (f : Fn) (q : QId) (value : W32)
  | queueDisable (f : Fn) (q : QId) (value : W32)
  | qConfigUpdate (f : Fn) (q : QId) (value : W32)
  | cflWait (f : Fn) (value : W32)
  | registerWrite (f : Fn) (offset size : Nat) (value : W64)
  | bar2WindowRead (port addr length : Nat)
  | cflOperationDone
  | irqDelayTimeout (q : QId)
  | resultTimeout (handle : Nat)
  -- Fabric ports
  | fibreUnplug (oe : Nat)
  | fibrePlug (oe : Nat)
  | laserPowerLow (port : Nat) (power : Int)
  | laserPowerRestored (port : Nat) (power : Int)
  | fabricPortStateChange (lport : Nat) (up : Bool)
  -- Longshore and rings
  | dataReceived (lport : Nat) (pkt : LsPkt) (checksumOk : Bool)
  | linkAdderHop (ring stripe seq : Nat)
  | ackReceived (lport : Nat) (pkt : LsPkt) (checksumOk : Bool)
  | ackTimer (ring stripe : Nat)
  | retransmitTimeout (ring stripe seq : Nat)
  | planeFailTimeout (ring plane : Nat) (succ : Bool)
  | probeTimer (ring plane : Nat) (succ : Bool)
  | probeReceived (lport : Nat) (pkt : LsPkt) (checksumOk : Bool)
  | controlRepeat (ring : Nat)
  | hello (lport : Nat) (pkt : LsPkt) (checksumOk : Bool)
  | start (lport : Nat) (pkt : LsPkt) (checksumOk : Bool)
  | abort (lport : Nat) (pkt : LsPkt) (checksumOk : Bool)
  | broken (lport : Nat) (pkt : LsPkt) (checksumOk : Bool)
  | formTimeout (id : CmdId)
  | neighborSolicitation (lport target : Nat)
  | echoRequest (lport dest : Nat) (data : Bytes)
  | frameDiscard (lport bytes : Nat)
  -- Security and management
  | ideIntegrityFailure (f : Fn) (cmd : Option CmdId)
  | getVersion (path : SpdmPath)
  | getCapabilities (path : SpdmPath)
  | negotiateAlgorithms (path : SpdmPath) (offersSlhDsa offersSha256 : Bool)
  | getDigests (path : SpdmPath)
  | getCertificate (path : SpdmPath) (slot offset length : Nat)
  | challenge (path : SpdmPath) (nonce : Bytes)
  | getMeasurements (path : SpdmPath) (index nonce : Nat)
  | keyExchange (path : SpdmPath) (exchangeData : Bytes)
  | finish (path : SpdmPath) (verifyData : Bytes)
  | keyUpdate (path : SpdmPath)
  | endSession (path : SpdmPath)
  | ideKm (f : Fn) (inSession : Bool) (keys : Bytes)
  | mctpControl (setEid : Option Nat)
  | getState
  | getHealth (offset length : Nat)
  | getTelemetry (watts : List Nat)
  | getEvent
  | i3cAddressAssignment (addr : Nat)
  | alertResponse
  -- Boundary scan and debug
  | testLogicReset
  | extest
  | idcode
  | samplePreload (preload : List Bool)
  | clamp
  | highz
  | extestPulse
  | extestTrain
  | stack1500 (stack : Nat)
  | bypass
  | debugChainOpen
  -- Completions of engines and tests
  | engineStepComplete (core stepIdx : Nat)
  | testDurationEnd (kind index : Nat) (bits errors : List Nat)
  | memBistDone (faults : List (Nat × Nat × Nat))
  | checkerLock (kind index lane : Nat)
  deriving DecidableEq, Repr

end Sys2Proof
end

