-- ==== Sys2Proof/Decode.lean ====
section
/-!
DEFINITION. The command that a word of the opcode table spells. No row of the table gives bits, so no word spells one;
packets and step words are read by `Sys2Proof.Machine.Packet` and `Sys2Proof.Machine.StepWord`.
-/
namespace Sys2Proof

/-- No row of the table gives bits (the reader's counts: 232 rows unread): every word is refused. -/
def decodeTableWord (_nbits _w : Nat) : Option Instr := none

end Sys2Proof
end

