-- ==== Sys2Proof/Config.lean ====
section
/-!
DEFINITION. What one package or its standards fix and the manual does not state: free values.
Every constant here has no body, so nothing can be proved of its value.
-/
namespace Sys2Proof.Config

open Sys2Proof

/-- A fresh value of 64 bits for a place where the manual leaves a result open: the argument is `State.freeCount`. -/
opaque freeWord : Nat → W64

/-- Bytes that the manual leaves undefined, by the counter and the address (R559, R562). -/
opaque freeByte : Nat → Nat → Byte

/-- Seeds and keys drawn from the entropy source (R125, R582): the argument counts the draws. -/
opaque entropy : Nat → W64

/-- What the tables of R115 deliver for a finite argument (F64 or not, the VOP code, sign, mantissa and exponent of the argument): m, e of the
value m × 2^e. The model takes it only where it keeps the bound of the *Function accuracy* table. -/
opaque tableValue : Bool → Nat → Bool → Nat → Int → Int × Int

/-- What they deliver for an infinity where R115 states no result: a kind (0 finite, 1 and 2 the infinities, 3 NaN) and m, e. -/
opaque tableAtInf : Bool → Nat → Bool → Nat × Int × Int

/-- RAND_N's value for the 32 bits drawn (R126): m, e of m × 2^e, taken only where it keeps the bound. -/
opaque randN : W32 → Int × Int

/-- AES-256-XTS of a 4 KiB block under a namespace, its key generation and the tweak (R320): a permutation of the blocks. -/
opaque xts : Nat → Nat → Nat → Equiv.Perm (BitVec 32768)

/-- FUSE_ID_SEED (R568): SK.seed, SK.prf and PK.seed of the device identity key, 72 bytes of it. -/
opaque idSeed : Bytes

/-- FUSE_KWK (R568): the key-wrapping key, 32 bytes of it. No effect that a row has depends on its value: what it wraps is never returned (R583). -/
opaque keyWrapKey : Bytes

/-- The public key of an SLH-DSA-SHA2-192s key pair, from its seed (R569). -/
opaque identityPublic : Bytes → Bytes

/-- SLH-DSA-SHA2-192s signature by the private key of a seed (R569, R577): seed and message. -/
opaque identitySign : Bytes → Bytes → Bytes

/-- Verification of an SLH-DSA-SHA2-192s signature under a public key (R565, R572): key, message, signature. -/
opaque slhVerify : Bytes → Bytes → Bytes → Bool

/-- SHA-256 of the vendor signing key, fused at manufacture (R568). -/
opaque vendorKeyHash : Bytes

/-- The ROMX image that a package leaves manufacture with (log entry 2). -/
opaque factoryImage : Bytes

/-- The vendor key that protection releases verify against (R565). -/
opaque vendorKey : Bytes

/-- The DER certificate chain of slot 0 (R570). -/
opaque certChain : Bytes

/-- The bodies of SPDM responses whose layout the SPDM standard gives (R579): request code and a counter. -/
opaque spdmBody : Nat → Nat → Bytes

/-- Whether an SPDM FINISH carries the verification data that the session key requires (R579). -/
opaque spdmFinishOk : Nat → Bytes → Bool

/-- Configuration-space content that the PCI Express standard and not the manual fixes (R476): function kind and offset. -/
opaque pcieConfig : Bool → Nat → Nat

/-- Where the SR-IOV capability stands in a PF's configuration space (R476): the manual gives no offset. -/
opaque sriovAt : Nat

/-- Where a function's configuration space holds the capability structure of the PCI Express standard with an identifier: whether it is a VF, and
0x10 the PCI Express capability, 0x11 MSI-X, 0x101 Advanced Error Reporting (log entry 64). -/
opaque capAt : Bool → Nat → Nat

/-- How the LOWERING byte of the protection state names a target level (R545, R566). -/
opaque loweringCode : Nat → Byte

/-- What a window read returns when WAIT is too short (R547): address and a counter. -/
opaque shortWaitByte : Nat → Nat → Byte

/-- Margin figures of an eye (R666): link kind, index, lane, eye, and a counter. -/
opaque eyeMargin : Nat → Nat → Nat → Nat → Nat → Nat

/-- Live per-lane counters that a MISSION test reads (R660): kind, index, lane and a counter; bits and errors. -/
opaque laneCounter : Nat → Nat → Nat → Nat → Nat × Nat

/-- Boundary register cells as sampled from the lands (R671, R674). -/
opaque landLevel : Nat → Nat → Bool

end Sys2Proof.Config
end

