-- ==== Sys2Proof/Machine/State.lean ====
section
/-!
DEFINITION. The state of the block: every register, queue, buffer, counter, mode and pin that the manual gives it,
as plain data, with the queue of commands that wait. Stores of bytes are `Mem`; tables keyed by a number are
association lists. `State.reset` is the package held in reset, before the start-up steps of R615.
-/
namespace Sys2Proof.Machine

open Sys2Proof

/-- A sparse store of bytes: addresses strictly rising, no entry equal to the store's default byte. -/
abbrev Mem := List Host.Cell

/-- The status codes of R540, by name. -/
inductive Status where
  | ok
  | okEmptyReduction
  | okItemsRejected
  | packetMalformed
  | opcodeInvalid
  | paramInvalid
  | configMalformed
  | modeConflict
  | programInvalid
  | tensorInvalid
  | indexOutOfRange
  | indexParamInvalid
  | nsParamInvalid
  | accordInvalid
  | idInUse
  | notFound
  | rangeExceeded
  | semNotHolder
  | resourceAbsent
  | resourceBusy
  | resourceExhausted
  | notReady
  | modelUnbound
  | namespaceTypeMismatch
  | powerCapInfeasible
  | ceilingUncovered
  | driftlineFull
  | dataPoisoned
  | resultPoisoned
  | weightsUnreadable
  | reductionCheck
  | mediaReadOnly
  | ringMismatch
  | ringBroken
  | ringAborted
  | ringState
  | protectionDenied
  | signatureInvalid
  | runBoundExceeded
  | semTimeout
  | semHeldPreempted
  | dependencyFailed
  | deviceNotReady
  | cflWaitTooLow
  | deviceFault
  | unitFault
  deriving DecidableEq, Repr

/-! ### Configuration -/

/-- One 48-byte partition entry of the record (R26). -/
structure PEntry where
  clusterMask : Nat := 0
  nmQuota : Nat := 0
  tpBankMask : Nat := 0
  nsMask : Nat := 0
  fabMask : Nat := 0
  wayMask : Nat := 0
  powerCap : Nat := 0
  ctxMax : Nat := 0
  prioCeil : Nat := 0
  rateNm : Nat := 0
  rateD2d : Nat := 0
  rateFlash : Nat := 0
  rateFabric : Nat := 0
  ratePcie : Nat := 0
  slice : Nat := 0
  ageing : Nat := 0
  valid : Nat := 0
  deriving DecidableEq, Repr

/-- The configuration record (R25), less its reserved bytes and its CRC. -/
structure Rec where
  format : Nat
  length : Nat
  generation : Nat
  isolation : Nat
  defaultOpp : Nat
  cflWaitBoot : Nat
  pkgPowerCap : Nat
  holdupEnergy : Nat
  dirtyCeiling : Nat
  fabricModes : Nat
  partCount : Nat
  parts : List PEntry
  deriving DecidableEq, Repr

/-- The reset-effective settings in force (R28), apart from the partition entries. -/
structure InForce where
  isolation : Nat
  fabricModes : Nat
  holdupEnergy : Nat
  defaultOpp : Nat
  cflWaitBoot : Nat
  parts : List PEntry
  deriving DecidableEq, Repr

/-- The configuration side of the package: the two stored copies (R37), which one is newer, and what is in force. -/
structure CfgSt where
  recA : Option Rec
  recB : Option Rec
  inForce : InForce
  defaulted : Bool
  /-- A CFG_WRITE that waits for dirty data to fall under a lowered ceiling (R33), or for a cap step (R604). -/
  waitingCeiling : List CmdId
  waitingCap : List CmdId
  /-- Store tunables (R346): READ_REFRESH (0: the profile value), SCAN_DAYS, GC_BIAS in 1/256, AGE_REF, WL_DELTA. -/
  tunables : List Nat
  /-- Their stored copy (R346, R544), and whether it cannot be read. -/
  tunablesSaved : List Nat
  tunablesLost : Bool
  deriving DecidableEq, Repr

/-! ### Host interface -/

/-- HWIN[p] (R483). -/
structure Hwin where
  base : Nat
  port : Nat
  enable : Bool
  deriving DecidableEq, Repr

/-- A host port (R477, R478): its link, its PERST_N history and its SR-IOV settings. -/
structure Port where
  linkUp : Bool
  perstN : Bool
  /-- When PERST_N was released, on the clock of `now` (R611). -/
  releasedAt : Nat
  numVfs : Nat
  vfEnable : Bool
  deriving DecidableEq, Repr

/-- A completion entry (R499) before it is laid out as 32 bytes. -/
structure Cpl where
  tag : Nat
  repeated : Bool
  held : Bool
  event : Bool
  takenOver : Bool
  status : Status
  resultLen : Nat
  handle : Nat
  detail : Nat
  engineNs : Nat
  energyMj : Nat
  movedMib : Nat
  noIrq : Bool
  deriving DecidableEq, Repr

/-- A queue block (R483 to R495) with the device's own pointers. -/
structure Queue where
  sqBase : Nat
  cqBase : Nat
  vector : Nat
  irqEn : Bool
  enabled : Bool
  orphaned : Bool
  owner : Option Fn
  delay : Nat
  count : Nat
  resultTmo : Nat
  sqTail : Nat
  sqHead : Nat
  /-- For each entry not yet fetched: the number of the doorbell that announced it, and CFL_WAIT at that doorbell (R39, R40). -/
  rung : List (Nat × Nat)
  cqTail : Nat
  cqHead : Nat
  phase : Bool
  eventLost : Bool
  configError : Bool
  fetchError : Bool
  tagError : Bool
  dbError : Bool
  /-- Entries written since the last message, NO_IRQ entries left out (R505, R506). -/
  unreported : Nat
  /-- Undelivered events in arrival order, each with its DETAIL (R508). -/
  events : List (Nat × Nat)
  /-- Completions held while ORPHANED, in completion order (R517). -/
  heldCpls : List Cpl
  deriving DecidableEq, Repr

/-- Where a fetched command stands. -/
inductive CmdPhase where
  | waiting
  | running
  | posted
  deriving DecidableEq, Repr

/-- A fetched command (R494): it holds its tag until CQ_HEAD has passed its completion entry. -/
structure Outst where
  id : CmdId
  cmd : Instr
  ordered : Bool
  hold : Bool
  noIrq : Bool
  ibuf : Nat
  ibufLen : Nat
  rbuf : Nat
  rbufLen : Nat
  serial : Nat
  /-- Its doorbell's number and CFL_WAIT at that doorbell (R39, R40). -/
  rung : Nat × Nat
  /-- The commands still to complete with success (R503), by serial with their tags. -/
  deps : List (Nat × Nat)
  /-- The tag of a command that failed (R504). -/
  depFailed : Option Nat
  phase : CmdPhase
  /-- Completed with a status outside the success class. -/
  failed : Bool
  /-- Ring index of its completion entry, once written. -/
  cplIndex : Nat
  /-- Kills at slice ends (R401), by faults (R623), and the tiers of the integrity errors that killed it (R223). -/
  sliceKills : Nat
  faultKills : Nat
  poisonKills : List Nat
  /-- Time (µs) at which it became ready (R397). -/
  readyAt : Nat
  /-- Its place in the order in which the commands became ready (R396): later ones have larger numbers. -/
  readySeq : Nat := 0
  engineNs : Nat
  energyMj : Nat
  movedBytes : Nat
  /-- A RESULT_READ of a held result that has been read before (REPEAT, R513). -/
  again : Bool
  /-- Charges made so far, by counter: they reach the accounts together when the command or its run ends (R414, R417). -/
  charges : List (Nat × Nat)
  /-- Fetched by an admin queue's owner whose port went down since: it finishes, and its completion and result are discarded (R519). -/
  discarded : Bool := false
  /-- Re-runs after integrity errors that have already been counted as RECOVERED (R241). -/
  recovered : Nat := 0
  /-- Result data of the command has been found to hold poison while it waited to be posted (R225). -/
  resultBad : Bool := false
  deriving DecidableEq, Repr

/-- A held result (R512 to R514). -/
structure Held where
  handle : Nat
  id : CmdId
  serial : Nat
  bytes : Bytes
  isDone : Bool
  readBefore : Bool
  part : Nat
  room : Nat
  /-- Its command is still the latest HOLD_RESULT command fetched with its tag (R513). -/
  byTag : Bool := true
  deriving DecidableEq, Repr

/-- The host interface: ports, registers, queues, commands, results and the host memory that the device reaches by DMA. -/
structure HostSt where
  splitStrap : Bool
  splitSampled : Bool
  /-- No PERST_N has been released yet since the package reset: the next release samples PCIE_SPLIT (R609). -/
  splitPending : Bool
  ports : List Port
  fnD3 : List Fn
  hwin : List Hwin
  cflWait : Nat
  /-- MSI-X table bytes that software has written, per function (BAR0 0x2_0000), and the pending bits. -/
  msixTable : List (Fn × Mem)
  /-- Pending bits of masked vectors (BAR0 0x2_4000). -/
  msixPba : List (Fn × Nat)
  queues : List (QId × Queue)
  outst : List Outst
  nextSerial : Nat
  /-- Doorbells of submission queues so far (R39). -/
  doorbells : Nat
  held : List Held
  mem : Mem
  /-- Host bytes whose read returns an error or a poisoned TLP (R226, Q_STATUS FETCH_ERROR). -/
  memBad : List Nat
  deriving DecidableEq, Repr

/-! ### Partitions, contexts, semaphores -/

/-- The 27 accounting counters of R537 with their SATURATED flags (R418). -/
structure Acct where
  counters : List Nat
  saturated : Nat
  deriving DecidableEq, Repr

/-- A context (R391), with its flags (R58, R123), its debt (R402) and its save area (R185 to R189). -/
structure Ctx where
  part : Nat
  num : Nat
  base : Nat
  flags : Nat
  debtUs : Nat
  lastSliceEnd : Nat
  acct : Acct
  /-- Saved tidepool bytes by declared core × 2^23 + offset. -/
  saveArea : Mem
  /-- Sectors of 32 bytes of the save area that hold poison (R222, R620), by declared core × 2^18 + sector. -/
  savePoison : List Nat
  /-- Engine time of OPTIMISER stages (R285): no command reads it (log entry 78). -/
  optimiserNs : Nat
  deriving DecidableEq, Repr

/-- A waiting SEM_ACQUIRE (R406). -/
structure Waiter where
  id : CmdId
  ctx : Nat
  donateMax : Nat
  donations : Nat
  /-- TIMEOUT in µs; 0 means none (R406). -/
  timeout : Nat := 0
  deriving DecidableEq, Repr

/-- A semaphore (R405). -/
structure Sem where
  handle : Nat
  part : Nat
  holder : Option Nat
  abandoned : Bool
  waiters : List Waiter
  deriving DecidableEq, Repr

/-- A token-bucket regulator (R387): tokens may be negative. -/
structure Regulator where
  tokens : Int
  last : Nat
  deriving DecidableEq, Repr

/-- The arbiter of one shared path at one place (R389): the requests that wait, oldest first, as partition and bytes, and the partition that it
served last. -/
structure Arbiter where
  waiting : List (Nat × Nat)
  last : Nat
  deriving DecidableEq, Repr

/-- What a partition holds at run time beside its entry: its slice and its clocks. -/
structure PartRt where
  holder : Option Nat
  lastHolder : Nat
  sliceStart : Nat
  sliceLen : Nat
  overrun : Bool
  thermalPoint : Nat
  clockPoint : Nat
  regs : List ((RegPath × Nat) × Regulator)
  acct : Acct
  deriving DecidableEq, Repr

/-! ### Memory, tensors, programs -/

/-- A near-memory allocation (R161). -/
structure Alloc where
  base : Nat
  size : Nat
  part : Nat
  deriving DecidableEq, Repr

/-- A tensor descriptor (R168), field by field. -/
structure Desc where
  handle : Nat := 0
  state : Nat := 0
  tier : Nat := 0
  format : Nat := 0
  rank : Nat := 0
  flags : Nat := 0
  part : Nat := 0
  channelAxis : Nat := 0
  sumSeg : Nat := 0
  channels : Nat := 0
  base : Nat := 0
  extent : List Nat := []
  blockDim : Nat := 0
  stride : List Nat := []
  expBase : Nat := 0
  scaleBase : Nat := 0
  sumsBase : Nat := 0
  statsBase : Nat := 0
  generation : Nat := 0
  backing : Nat := 0
  dirtyMap : Nat := 0
  bytes : Nat := 0
  deriving DecidableEq, Repr

/-- A tensor of the descriptor tables: its descriptor, its home die, its dirty pages by part and page, staging state, and the context whose
command has written it last, to which its write-back is charged (R413). -/
structure Tensor where
  desc : Desc
  home : Nat
  /-- Dirty pages (R180): part 0 element array, 1 exponent plane, 2 scale data, 3 sums, 4 statistics; page; commit sequence. -/
  dirty : List (Nat × Nat × Nat)
  staged : Bool
  /-- Order of the latest binding (R183). -/
  lastBound : Nat
  ctx : Nat := 0
  deriving DecidableEq, Repr

/-- A prefetch entry (R203). -/
structure Prefetch where
  layer : Nat
  core : Nat
  src : Nat
  dst : Nat
  srcTier : Nat
  dstTier : Nat
  after : Option Nat
  deriving DecidableEq, Repr

/-- A parsed program image (R190, R191). -/
structure Image where
  cores : Nat
  events : Nat
  tpBytes : Nat
  accRows : Nat
  lookahead : Nat
  atomicRun : Bool
  hasCollective : Bool
  runBound : Nat
  carry : Nat
  rings : Nat
  tensors : List Desc
  slots : List (Nat × Nat)
  steps : List (List StepWord)
  prefetch : List Prefetch
  commits : List (Nat × Bool)
  deriving DecidableEq, Repr

/-- A loaded program (R192). -/
structure Prog where
  handle : Nat
  part : Nat
  alloc : Nat
  len : Nat
  img : Image
  deriving DecidableEq, Repr

/-- A shadow allocation of a written tensor (R174): per part its base, and which 16 KiB pages the run has written. -/
structure Shadow where
  tensor : Nat
  bases : List Nat
  written : List (Nat × Nat)
  /-- FLAGS bits SCALES, SUMS, STATS that the run has written. -/
  setFlags : Nat
  /-- The bytes that the run has written: part, first byte and length (R172). -/
  wrote : List (Nat × Nat × Nat) := []
  deriving DecidableEq, Repr

/-- A line that a die's cache holds (R163 to R165): its near-memory address, its way, whether it is dirty, and whether it is pinned. -/
structure CLine where
  addr : Nat
  way : Nat
  dirty : Bool
  pinned : Bool
  deriving DecidableEq, Repr

/-- What a command has bound (R173): tensor handles with the descriptor of the generation that was current. -/
structure Binding where
  id : CmdId
  inputs : List Desc
  shadows : List Shadow
  deriving DecidableEq, Repr

/-- The progress of one declared core in a run (R194, R200, R203). -/
structure CoreRun where
  flat : Nat
  pc : Nat
  /-- The steps in flight by index, and the prefetch entries in the copy engine's queue, entry e as 65536 + e, in order of entry (R200). -/
  inflight : List Nat
  layer : Nat
  pfIssued : List Nat
  pfDone : List Nat
  atCommit : Bool
  /-- A SWAP issued and not yet in effect, per half (R83). -/
  pendingSwap : List Bool
  /-- What the steps in flight have written outside shadows, by step: the bytes that stood there before, in the order of writing (R210). -/
  undo : List (Nat × List (Nat × Bytes)) := []
  deriving DecidableEq, Repr

/-- A run of a program (R193): PROG_RUN, or a model-running stage of an invocation. -/
structure Run where
  id : CmdId
  part : Nat
  ctx : Nat
  img : Image
  slotT : List Nat
  rings : List Nat
  seed : W64
  started : Nat
  cores : List CoreRun
  flags : Nat
  saturations : Nat
  nanConv : Nat
  rescales : Nat
  emptySteps : Nat
  /-- Carried regions written in this run (R186, R187), by declared core × 2048 + region. -/
  carryWritten : List Nat
  /-- FLAGS bits SCALES, SUMS, STATS of program-local tensors, by flat core and tensor index. -/
  localFlags : List ((Nat × Nat) × Nat)
  failed : Option (Status × Nat)
  /-- Busy time of the completed steps in picoseconds, by engine kind: ME, MV, VE, CE, SQ (R414). -/
  busy : List Nat := [0, 0, 0, 0, 0]
  deriving DecidableEq, Repr

/-- One weight set of the ME (R75, R81): the codes of each column in reduction order with the E8 of each code's block, the tile's metadata,
and the piece that it holds of a split-precision tile (R90). Cells beyond what is listed hold zero. -/
structure WeightSet where
  format : Nat := 0
  shape : Nat := 0
  codes : List (List (Nat × Nat)) := []
  colSums : List Int := []
  zps : List Int := []
  piece : Nat := 0
  deriving DecidableEq, Repr

/-- A scale-register entry (R136). -/
structure SReg where
  min : W32
  max : W32
  scale : W32
  zp : Int
  sse : W32
  maxErr : W32
  count : Nat
  sats : Nat
  valid : Bool
  deriving DecidableEq, Repr

/-- The engines of one core: active and shadow weight set per half, whether a half's shadow holds a tile not yet swapped in, accumulator
elements by row × 128 + column, column-sum registers and reduction length per window (R97), scale registers, generators; and whether the
latest SWAP exchanged all 128 columns (R84). -/
structure Core where
  active : List WeightSet
  shadow : List WeightSet
  loaded : List Bool
  acc : List (Nat × W32)
  colSums : List ((Nat × Nat) × (List Int × Nat))
  sregs : List (Nat × SReg)
  rngSeed : W64
  rng : List (Nat × W64)
  wholeSwap : Bool := false
  deriving DecidableEq, Repr

/-- A bound model (R298). -/
structure Model where
  handle : Nat
  part : Nat
  prog : Nat
  weights : List Nat
  deriving DecidableEq, Repr

/-- An accord stage entry (R284). -/
structure Stage where
  kind : Nat
  model : Nat
  target : Nat
  binds : List Nat
  param : Bytes
  deriving DecidableEq, Repr

/-- A filter term (R289). -/
structure Term where
  src : Nat
  op : Nat
  negate : Bool
  offset : Nat
  set : Nat
  a : Nat
  b : Nat
  deriving DecidableEq, Repr

/-- A loaded accord (R283, R288). -/
structure Accord where
  handle : Nat
  part : Nat
  ctx : Nat
  kind : Nat
  batch : Nat
  seq : Nat
  textMax : Nat
  rings : Nat
  padToken : Nat
  stages : List Stage
  terms : List Term
  tensors : List Nat
  /-- Working tensors 0xFF0 to 0xFF5 (R286). -/
  working : List (Nat × Desc)
  poisoned : Bool
  deriving DecidableEq, Repr

/-- A result of the walk or a candidate of an invocation: its place in the working tensors (R286), slot, identifier, score and the record's
bytes. -/
structure Hit where
  pos : Nat
  slot : Nat
  node : Nat
  score : W32
  record : Bytes
  deriving DecidableEq, Repr

/-- An object of an OBJECT namespace (R322). -/
structure Obj where
  ns : Nat
  obj : Nat
  first : Nat
  length : Nat
  redundant : Bool
  deriving DecidableEq, Repr

/-- An item's text on its way to the object that it names: the write-buffer slots that it fills, from the first to before the second, and the object that it
makes. -/
structure StoredText where
  sids : Nat × Nat
  made : Option Obj
  deriving DecidableEq, Repr

/-- An invocation of an accord (R293): the stage it has reached and each item's candidates. -/
structure Invocation where
  id : CmdId
  accord : Nat
  stage : Nat
  /-- The current stage has been started and its run or queries are under way. -/
  busy : Bool
  seed : W64
  items : List Bytes
  cands : List (List Hit)
  /-- FLAGS, READS and HOPS of each item's query (R260). -/
  heads : List (Nat × Nat × Nat)
  snippets : List (List Bytes)
  itemStatus : List Status
  output : Bytes
  /-- Index, snapshot and epoch base that its SEARCH stage has taken (R255, R294). -/
  snap : Option (Nat × Nat × Nat)
  /-- What its STORE stage has put in the write buffer, item by item (R285, R295). -/
  texts : List StoredText := []
  /-- What the runs of its stages have raised and not yet committed (R69, R108). -/
  flags : Nat
  saturations : Nat
  nanConv : Nat
  rescales : Nat
  emptySteps : Nat
  deriving DecidableEq, Repr

/-! ### Vector search -/

/-- Index parameters (R244). -/
structure IdxParams where
  sketchBits : Nat
  vformat : Nat
  dim : Nat
  distance : Nat
  slots : Nat
  idLimit : Nat
  degree : Nat
  entryCount : Nat
  alpha : W32
  buildL : Nat
  deriving DecidableEq, Repr

/-- A driftline entry (R265): SEQ 0 while uncommitted. -/
structure DEntry where
  seq : Nat
  node : Nat
  slot : Nat
  isInsert : Bool
  filter : Nat
  sketch : Bytes
  /-- The command that wrote it, while uncommitted. -/
  owner : Option CmdId
  /-- Folded by a merge and awaiting freeing (R276). -/
  folded : Bool
  poisoned : Bool
  /-- The flash driftline log holds it; until then the log's tail does (R266, R365). -/
  logged : Bool := false
  deriving DecidableEq, Repr

/-- A merge under way (R270): its command (none for a forced merge, R278), its bound M, its sweep flag, the entries that it folds and those
still to fold, the slots whose inserts it has folded, and how far its sweep has come. -/
structure Merge where
  id : Option CmdId
  bound : Nat
  sweep : Bool
  all : List DEntry
  todo : List DEntry
  built : List Nat
  sweptTo : Nat
  deriving DecidableEq, Repr

/-- What an index held before a merge, which stands again where power loss takes a round of it (R281, R374): the commits of its rounds, the epoch with
its base and entry points, and the driftline entries that have been freed since. -/
structure Prior where
  rounds : List Nat
  epoch : Nat
  base : Nat
  entries : List Nat
  freed : List DEntry
  deriving DecidableEq, Repr

/-- An index (R244 to R253). -/
structure Index where
  ns : Nat
  part : Nat
  params : IdxParams
  /-- Sketch entries by slot: sketch and filter word. -/
  sketches : List (Nat × (Bytes × Nat))
  directory : List (Nat × Nat)
  tombstones : List Nat
  usedSlots : List Nat
  entries : List Nat
  driftline : List DEntry
  epoch : Nat
  epochBase : Nat
  merge : Option Merge
  /-- Merges that have ended and await R276: C, the sequence numbers of the folded entries, and the slots that a sweep has made free-able. -/
  reclaim : List (Nat × List Nat × List Nat)
  unreadable : List Nat
  reads : Nat
  hops : Nat
  lost : Bool
  allocs : List Nat
  /-- Dirty pages of the three staged tables (R251): 0 sketch table, 1 directory, 2 tombstone bitmap; page; commit sequence. -/
  dirty : List (Nat × Nat × Nat)
  /-- Directory sectors of 32 bytes that hold poison (R280). -/
  dirPoison : List Nat
  /-- For each walker, the place in the list that its scan has come to (R268). -/
  scan : List (Nat × Nat)
  /-- Entry points whose record and sketch entry stand copied on every die that the sketch table spans (R253). -/
  copies : List Nat
  /-- The context whose command has changed a table last, to which the write-back is charged (R413). -/
  ctx : Nat := 0
  /-- Commits of the rounds of the running merge (R271), and what the last merge that ended found before it. -/
  rounds : List Nat := []
  prior : Option Prior := none
  deriving DecidableEq, Repr

/-- A candidate of the queue of R258. -/
structure Cand where
  slot : Nat
  key : Nat
  wasRead : Bool
  deriving DecidableEq, Repr

/-- A query block (R254). -/
structure QBlock where
  eqMask : Nat
  eqValue : Nat
  anyMask : Nat
  a0Lo : Nat
  a0Hi : Nat
  a1Lo : Nat
  a1Hi : Nat
  sketch : Bytes
  vector : List W32
  deriving DecidableEq, Repr

/-- A query of a batch (R255 to R260). -/
structure Query where
  id : CmdId
  qi : Nat
  ns : Nat
  blk : QBlock
  l : Nat
  beam : Nat
  k : Nat
  maxReads : Nat
  prune : Bool
  snapshot : Nat
  base : Nat
  walker : Option Nat
  queue : List Cand
  results : List Hit
  visited : List Nat
  reads : Nat
  hops : Nat
  outstanding : List Nat
  /-- Slots whose delete the lap has met. -/
  gone : List Nat
  /-- Driftline entries that the lap has still to pass. -/
  lapLeft : List DEntry
  /-- Roundings of its distances that saturated (R68, R261). -/
  sats : Nat
  degraded : Bool
  /-- The walk has ended; the query stays pending until its command's completion. -/
  finished : Bool
  deriving DecidableEq, Repr

/-! ### Flash store -/

/-- A namespace (R318). -/
structure Ns where
  nsid : Nat
  type : Nat
  capacity : Nat
  op : Nat
  encrypt : Bool
  objects : Nat
  keyGen : Nat
  keyLost : Bool
  deriving DecidableEq, Repr

/-- A map entry (R325): unmapped, a write-buffer slot or a NAND location, with POISON bits and MIRROR. -/
structure MapEntry where
  poison : Nat
  mirror : Bool
  buf : Bool
  loc : Nat
  deriving DecidableEq, Repr

/-- A write-buffer slot (R327): uncommitted while `seq` is none. -/
structure Slot where
  sid : Nat
  ns : Nat
  unit : Nat
  owner : CmdId
  seq : Option Nat
  commitAt : Nat
  /-- Where it is being or has been programmed, and whether a second copy goes to the mirror's place (R302). -/
  programming : Option Nat
  mirror : Bool
  /-- Programmed and read back, its group not yet journalled (R370). -/
  verified : Bool
  /-- Which journal group of its commit it belongs to (R370). -/
  grp : Nat
  /-- Blocks that the command wrote. -/
  mask : Nat
  poison : Nat
  deriving DecidableEq, Repr

/-- A programmed page on NAND with its metadata (R313): where, whose, and at which sequence. NSID 0xFE is a map checkpoint or the journal; 0xFF is
parity, whose metadata is the XOR of its row's (R314), with the XOR of the NSIDs in `xns`. -/
structure NandPage where
  loc : Nat
  ns : Nat
  unit : Nat
  seq : Nat
  xns : Nat := 0
  deriving DecidableEq, Repr

/-- What a superblock is for (R315): data in the native mode, or one of the three kinds that run in SLC mode. -/
inductive SbUse where
  | data
  | journal
  | checkpoint
  | flush
  deriving DecidableEq, Repr

/-- The condition of a superblock (R314, R340). -/
inductive SbState where
  | free
  | openHost
  | openGc
  /-- Open for the units of REDUNDANT objects, in step with the same superblock of the paired group (R302, R325). -/
  | openPair
  /-- The same for copies of such units (R341). -/
  | openPairGc
  | closed
  /-- Its valid pages are being copied, or wait until nothing durable names them (R375). -/
  | collecting
  /-- ERASE_OPEN is journalled and not yet durable (R349, R375). -/
  | eraseDue
  | erasing
  /-- No reserve block could replace a retired one: its data is being relocated (R350). -/
  | dissolving
  | dissolved
  deriving DecidableEq, Repr

/-- A superblock of a group (R314): its block on each of the 16 members, with each block's erases (R349) and page reads (R344). -/
structure Superblock where
  group : Nat
  sb : Nat
  lun : Nat
  state : SbState
  use : SbUse
  blocks : List Nat
  erases : List Nat
  /-- The next of its data pages to program, counted row by row without the parity member. -/
  nextUnit : Nat
  closedAt : Nat
  reads : List Nat
  refresh : Bool
  deriving DecidableEq, Repr

/-- One block of a LUN: group, member, LUN, block. -/
structure BlockAt where
  group : Nat
  member : Nat
  lun : Nat
  block : Nat
  deriving DecidableEq, Repr

/-- A copy that background work makes of a unit (R330, R348, R375): its number among the programs under way, where it comes from and goes to. -/
structure Copy where
  key : Nat
  src : Nat
  loc : Nat
  mirror : Bool
  ns : Nat
  unit : Nat
  seq : Nat
  deriving DecidableEq, Repr

/-- A journal record (R337). -/
structure JRec where
  seq : Nat
  unit : Nat
  ns : Nat
  entry : MapEntry
  kind : Nat
  die : Nat
  /-- Its journal group and the records of that group: only whole groups are applied at replay (R370, R376). -/
  gid : Nat
  gsize : Nat
  /-- The SLC page that holds it (R338), 0 while none does. -/
  loc : Nat
  deriving DecidableEq, Repr

/-- A checkpoint of a map segment (R339): which of the two areas holds it, the highest SEQ that it covers, the journal groups that it covers (those
below `gid`), its SLC pages and its entries. -/
structure Ckpt where
  ns : Nat
  seg : Nat
  area : Bool
  seq : Nat
  gid : Nat
  pages : List Nat
  ents : List (Nat × MapEntry)
  deriving DecidableEq, Repr

/-- A change that a command will publish at its commit point. -/
inductive Pend where
  | slot (sid : Nat)
  | unmap (ns unit : Nat)
  | objNew (o : Obj)
  | objDel (ns obj : Nat)
  | idxOp (ns entry : Nat)
  | record (ns slot : Nat)
  deriving DecidableEq, Repr

/-- A NAND profile of ROMX (R311). -/
structure Profile where
  matchId : Nat
  model : Bytes
  cell : Nat
  planes : Nat
  spare : Nat
  blocks : Nat
  ppb : Nat
  peRated : Nat
  peRatedSlc : Nat
  parity : Nat
  retryLevels : Nat
  softFrom : Nat
  readRefresh : Nat
  mts : Nat
  tRead : Nat
  tProg : Nat
  tErase : Nat
  tSuspend : Nat
  refreshBits : Nat
  retryTable : List Nat
  deriving DecidableEq, Repr

/-- What a 16 KiB piece of the flush holds (R365): a write-buffer slot's unit with its POISON bits, a dirty page of a tensor at its first
logical block, or a dirty page of an index table (R251); a page with the logical blocks that hold poison (R224). -/
inductive FWhat where
  | slot (ns unit poison : Nat)
  | page (ns lba : Nat) (bad : List Nat)
  | table (ns k pg : Nat) (bad : List Nat)
  deriving DecidableEq, Repr

/-- A piece of the flush (R365, R366): its place in the manifest, what it holds, its commit, and its 8 MiB segment of that commit. -/
structure FPiece where
  key : Nat
  what : FWhat
  seq : Nat
  grp : Nat
  deriving DecidableEq, Repr

/-- The flush areas (R365, R366, R374, R380): what the manifest names and is not yet written, what has been written, and the end. -/
structure FlushArea where
  present : Bool
  todo : List FPiece
  written : List FPiece
  /-- The fixed phases before the data have ended (R362). -/
  tailsSaved : Bool
  mem : Mem
  endRecord : Bool
  limit : Option FlushLimit
  startedAt : Nat
  /-- When a flush reaches its time limit (R357); a drain has none (R607). -/
  deadline : Option Nat
  /-- Pieces that the spare space can still take anew (R366), and when the last piece was written. -/
  spare : Nat
  writtenAt : Option Nat
  /-- The SLC superblocks that hold it. -/
  sbs : List (Nat × Nat)
  /-- The commits whose changes the tails of the journal and of the driftline logs hold, as the manifest names them (R365, R380). -/
  tailSeqs : List Nat := []
  deriving DecidableEq, Repr

/-- The flash store (chapter *Flash store*) and the power-loss machinery. -/
structure FlashSt where
  fits : List GroupFit
  groupState : List Nat
  profile : List (Nat × Profile)
  ns : List Ns
  objs : List Obj
  map : List ((Nat × Nat) × MapEntry)
  slots : List Slot
  nextSlot : Nat
  slotMem : Mem
  /-- Copies of background work under way. -/
  copies : List Copy
  nand : List NandPage
  nandMem : Mem
  sbs : List Superblock
  /-- Blocks retired (R347, R348), each with the number of the superblock that it was in. -/
  retired : List (BlockAt × Nat)
  /-- Reserve blocks that have taken a retired one's place, and good members of dissolved superblocks, which have joined the reserve with the
  erases that they had (R350). -/
  taken : List BlockAt
  joined : List (BlockAt × Nat)
  failed : List (Nat × Option Nat)
  jbuf : List JRec
  jdur : List JRec
  ckpts : List Ckpt
  recal : List (Nat × Nat)
  readOnly : Bool
  raised10 : Bool
  raised0 : Bool
  pend : List (CmdId × List Pend)
  /-- Whose turn it is among the groups in use (R329), and the next journal group. -/
  turn : Nat
  nextGid : Nat
  area : FlushArea
  plpEnd : Nat
  plpEnergy : Nat
  plpBytes : Nat
  plpRolledBack : Nat
  plpPoisoned : Nat
  /-- Bytes of map segments that each die holds for dies out of service, as of the last computation of the reservation (R159, R326). -/
  moved : List Nat := []
  /-- The driftline pool has been full, and freeing has not brought it below full yet: inserts and deletes are refused (R278). -/
  driftFull : Bool := false
  deriving DecidableEq, Repr

/-! ### Fabric and rings -/

/-- A logical fabric port (R419, R425, R444): LPORT 2p is FPp or FPp.A, 2p + 1 is FPp.B. -/
structure LPort where
  set : Bool
  state : Nat
  plane : Nat
  mac : Nat
  nextHop : Nat
  ipv6 : Nat
  vlan : Option Nat
  dscp : Nat
  /-- The received laser power in 0.01 dBm, once an event has told it; unknown before. -/
  laser : Option Int
  laserOk : Bool
  /-- Low laser power has taken it down (R424). -/
  dimmed : Bool
  /-- frames sent, received, bytes sent, received, corrected, uncorrected, discarded, retransmissions, plane failures. -/
  counters : List Nat
  /-- SATURATED flags of the counters (R418, R444). -/
  saturated : Nat := 0
  deriving DecidableEq, Repr

/-- The sending side of a stripe (R434 to R439). -/
structure SendStripe where
  nextSeq : Nat
  acked : Nat
  credit : Nat
  window : Nat
  growth : Nat
  unacked : List LsPkt
  queued : List LsPkt
  plane : Nat
  deriving DecidableEq, Repr

/-- The receiving side of a stripe (R435, R436, R438). -/
structure RecvStripe where
  ackSeq : Nat
  /-- The last CREDIT advertised (R434: it never moves earlier). -/
  credit : Nat
  got : List Nat
  sinceAck : Nat
  ceSeen : Bool
  staged : List LsPkt
  deriving DecidableEq, Repr

/-- A collective operation under way (R451 to R467). -/
structure RingOp where
  id : CmdId
  flat : Nat
  stepIdx : Nat
  op : Nat
  cop : Nat
  headroom : Nat
  units : Nat
  /-- Operand indices of SRC and DST. -/
  src : Nat
  dst : Nat
  startSeen : Bool
  /-- Blocks that have arrived and been handled: first pass, then second pass or gathering; by chunk and block. -/
  first : List (Nat × Nat)
  second : List (Nat × Nat)
  /-- Segments that have been given a stripe toward the successor: segment g goes on stripe g mod R. -/
  segments : Nat := 0
  deriving DecidableEq, Repr

/-- A ring (R446) or one that RING_FORM is forming. -/
structure Ring where
  handle : Nat
  ringId : Nat
  epoch : Nat
  members : Nat
  index : Nat
  planes : Nat
  part : Nat
  forming : Option CmdId
  helloPred : List Nat
  helloSucc : List Nat
  isBroken : Bool
  /-- The member that found the break. -/
  brokenBy : Nat
  nextOp : Nat
  operations : Nat
  rescales : Nat
  residueFailures : Nat
  aborts : Nat
  /-- Failed planes toward the predecessor and the successor (R440), and probes answered since (R442). -/
  downPred : List (Nat × Nat)
  downSucc : List (Nat × Nat)
  /-- PROBEs sent and not yet answered, by plane and direction (true: successor). -/
  probing : List (Nat × Bool)
  /-- The planes on which the traffic of moved stripes toward the predecessor travels (R441, R442). -/
  back : List (Nat × Nat)
  predAddr : List (Nat × Nat)
  succAddr : List (Nat × Nat)
  send : List (Nat × SendStripe)
  recv : List (Nat × RecvStripe)
  /-- CONTROL payloads still unanswered, with the direction (true: successor). -/
  controls : List (Ctl × Bool)
  /-- CONTROLs already acted on (R454), by KIND, OP and direction. -/
  seen : List (Nat × Nat × Bool)
  current : Option RingOp
  /-- Operations failed ahead of their step (R470): operation, origin, status code. -/
  doomed : List (Nat × Nat × Nat)
  /-- The START of the predecessor that has arrived early. -/
  earlyStart : Option Ctl
  /-- The command, by its serial number, at whose start the stripes were last moved back (R442). -/
  movedFor : Option Nat := none
  deriving DecidableEq, Repr

/-- The fabric side of the package. -/
structure FabricSt where
  lports : List (Nat × LPort)
  fibre : List Bool
  laserEn : List Bool
  oePowered : List Bool
  rings : List Ring
  lastEpoch : List (Nat × Nat)
  deriving DecidableEq, Repr

/-! ### Integrity -/

/-- A remap entry (R232): store, address of the granule, and the bank, core, set or pseudo-channel whose spare it has taken. -/
structure Remap where
  store : Store
  addr : Nat
  key : Nat
  saved : Bool
  /-- The way of the die cache's set that a disabled line stood in. -/
  way : Nat := 0
  deriving DecidableEq, Repr

/-- The integrity state of the stores on the package (chapter *Memory integrity*). -/
structure IntegSt where
  /-- Poisoned words and sectors, by store and address (word address in tidepool, sector address in near memory). -/
  poison : List (Store × Nat)
  /-- Latent correctable errors. -/
  weak : List (Store × Nat)
  /-- Double errors stored and not yet found. -/
  bad : List (Store × Nat)
  /-- Injected errors among the latent ones: they do not count toward a hard fault (R242). -/
  injected : List (Store × Nat)
  /-- Hard-fault trackers (R229 to R231): store, address, count, age. -/
  trackers : List (Store × Nat × Nat)
  counted : List (Store × Nat)
  remaps : List Remap
  /-- Withheld 64 KiB units (R235) and retired tidepool banks (flat core × 16 + bank, R232), each with whether the remap tables hold it. -/
  withheld : List (Nat × Bool)
  retiredBanks : List (Nat × Bool)
  /-- Cores, clusters and compute dies that have run out of spares (R232), by unit code, each with whether the remap tables hold it (R236). -/
  retiredUnits : List (Nat × Bool) := []
  /-- Armed ERR_INJECT (R242): store, address, kind. -/
  armed : List (Store × Nat × Nat)
  scrubPos : List (Store × Nat)
  /-- Units that a hard fault has used up and whose containment follows (R232, R619). -/
  due : List Nat
  /-- Cores out of service because their partition's mask powers a retired bank (R234). -/
  bankOut : List Nat
  deriving DecidableEq, Repr

/-! ### Configuration flash, security, power, health, management, test -/

/-- A host program or erase under way in the configuration flash (R554). -/
structure CflOp where
  id : Option CmdId
  isErase : Bool
  addr : Nat
  data : Bytes
  suspended : Bool
  deriving DecidableEq, Repr

/-- The configuration-flash array (R541), with the protection state: its level, COUNTER and LOWERING (R545), and the CFL_PROTECT that is
lowering the level (R566). The regions that the device writes for itself stand in the state's other fields. -/
structure CflSt where
  arr : Mem
  op : Option CflOp
  /-- Sectors and pages left undefined by an interruption (R562): first byte and length. -/
  undefinedAt : List (Nat × Nat)
  protLevel : Nat
  protCounter : Nat
  lowering : Option Nat
  lowerCmd : Option CmdId
  deriving DecidableEq, Repr

/-- A ROMX copy (R571). -/
structure Romx where
  major : Nat
  minor : Nat
  svn : Nat
  commitSvn : Bool
  digest : Bytes
  profiles : List Profile
  deriving DecidableEq, Repr

/-- SPDM state of one path (R579 to R585). -/
structure Spdm where
  path : SpdmPath
  version : Bool
  caps : Bool
  algs : Bool
  handshake : Bool
  session : Bool
  keyGen : Nat
  deriving DecidableEq, Repr

/-- The security engine. -/
structure SecSt where
  serial : Nat
  minSvn : Nat
  romxA : Option Romx
  romxB : Option Romx
  running : Option Bool
  debugOpened : Bool
  keySlots : List Nat
  /-- GENERATION of each namespace's entry in the key region (R583). -/
  keyGens : List Nat
  /-- Namespaces whose key entries the next start-up finds damaged in both copies (R584). -/
  keysBad : List Nat
  spdm : List Spdm
  ide : List (Fn × Bool)
  drbg : Nat
  /-- The identity public key, as each start-up recomputes it from FUSE_ID_SEED (R569). -/
  idPub : Bytes := []
  /-- A ROMX_UPDATE whose image is being written, with the image (R576). -/
  updating : Option (CmdId × Bytes) := none
  deriving DecidableEq, Repr

/-- Power, clocks, pins and readiness (chapters *Power, clocks and reset*, *Power loss and write atomicity*). -/
structure PowerSt where
  pwrgd : Bool
  plpN : Bool
  powered : Bool
  clocks : List (RefClock × Bool)
  /-- Units whose start-up tests fail, as the board's events have told (R682). -/
  failing : List Nat
  /-- What the checkers answered to the patterns of R238, where one answered otherwise. -/
  checks : List SelfTest
  opp : Nat
  stall : Nat
  /-- Peak non-engine rail power in W of each of the last ten milliseconds, newest first (R603). -/
  otherLast : List Nat
  vdd : List Nat
  adminReady : Bool
  storageReady : Bool
  computeReady : Bool
  fabricReady : Bool
  flushing : Bool
  /-- A reset drain is running (R607), under the rules of a flush without limits. -/
  draining : Bool
  flushed : Bool
  fault : Bool
  faultDrained : Bool
  replaying : Bool
  replayed : Bool
  diesInService : List Nat
  groupsInUse : List Nat
  uptimeUs : Nat
  /-- The package resets when the drain that runs, or the power-loss sequence, has ended (R606, R607). -/
  resetWaits : Bool
  faultN : Bool
  wpN : Bool
  mgmtAddrPins : Nat
  mgmtSmbPin : Bool
  deriving DecidableEq, Repr

/-- An excursion above 95 °C (R633). -/
structure Excursion where
  die : Nat
  peak : Nat
  durationMs : Nat
  start : Nat
  deriving DecidableEq, Repr

/-- An entry of FAULTS (R634). -/
structure FaultEntry where
  unit : Nat
  action : Nat
  powerOnS : Nat
  killed : Nat
  heldUs : Nat
  deriving DecidableEq, Repr

/-- The health log (R630) as numbers. -/
structure Health where
  powerOnMs : Nat
  interrupts : Nat
  deviceFaults : Nat
  uncleanStops : Nat
  errSaturated : Nat
  errors : List Nat
  /-- Unit codes (R618) now out of service. -/
  outOfService : List Nat
  excursions : List Excursion
  running : List Excursion
  faults : List FaultEntry
  bins : List ((Nat × Nat) × Nat)
  deriving DecidableEq, Repr

/-- Health, temperatures and the control processors. -/
structure HealthSt where
  log : Health
  saved : Health
  temps : List (Nat × Int)
  /-- Die slots whose last sample read 115 °C or more (R624), with the time of the first. -/
  hotSince : List (Nat × Nat)
  /-- Per partition: samples below 100 °C since its thermal point last moved (R605). -/
  coolMs : List (Nat × Nat)
  watchdog : List (Nat × Nat)
  deriving DecidableEq, Repr

/-- The management interface (R637 to R641). -/
structure MgmtSt where
  events : List (Nat × Nat)
  lost : Bool
  i3c : Bool
  addr : Nat
  smbOnly : Bool
  eid : Nat
  deriving DecidableEq, Repr

/-- A running LINK_TEST or LINK_MARGIN (R660 to R666). -/
structure LinkTest where
  id : CmdId
  kind : Nat
  index : Nat
  pattern : Nat
  mode : Nat
  lun : Nat
  laneMask : Nat
  isMargin : Bool
  target : Nat
  locked : List Nat
  deriving DecidableEq, Repr

/-- A running MEM_BIST (R667 to R670). -/
structure Bist where
  id : CmdId
  target : Nat
  algorithm : Nat
  index : Nat
  deriving DecidableEq, Repr

/-- The TAP's selected instruction, and the boundary register's use (R671 to R674). -/
structure TestSt where
  links : List LinkTest
  bist : List Bist
  tapIr : Nat
  stack : Nat
  boundary : List Bool
  deriving DecidableEq, Repr

/-! ### Outputs -/

/-- What leaves the block: messages, packets, responses and read data, in the order in which they are made. -/
inductive Out where
  | msix (f : Fn) (vector : Nat) (message : Bytes)
  | longshore (lport : Nat) (pkt : LsPkt) (frame : Bytes)
  | neighborAdvert (lport target mac : Nat)
  | echoReply (lport dest : Nat) (data : Bytes)
  | windowData (port : Nat) (data : Bytes)
  | configData (f : Fn) (value : Nat)
  | configRetry (f : Fn)
  | spdm (path : SpdmPath) (code : Nat) (data : Bytes)
  | spdmError (path : SpdmPath)
  | mgmt (request completion : Nat) (data : Bytes)
  | mctp (eid : Nat)
  | alertAddr (addr : Nat)
  | i3cInterrupt
  | tdo (ir : Nat) (value : Nat)
  | aer (f : Fn)
  /-- A request to host memory for a host-window access, through a function (R166, R486). -/
  | memRead (f : Fn) (addr n : Nat)
  | memWrite (f : Fn) (addr : Nat) (data : Bytes)
  | entropyDrawn (n : Nat)
  deriving DecidableEq, Repr

/-! ### The machine -/

/-- The whole block. `now` counts microseconds on the device's clock and `freeCount` is the model's own counter for free values. -/
structure State where
  pending : List Instr
  variant : Variant
  cfg : CfgSt
  host : HostSt
  ctxs : List Ctx
  parts : List (Nat × PartRt)
  /-- The arbiters of the shared paths, by path and place (R389). -/
  arbiters : List ((RegPath × Nat) × Arbiter)
  device : Acct
  sems : List Sem
  mem : Mem
  allocs : List Alloc
  /-- The lines of the die caches, least recently used first (R163). -/
  dcache : List CLine
  tensors : List Tensor
  /-- Bindings made so far: what `Tensor.lastBound` counts in (R183). -/
  bindCount : Nat
  /-- Reuse counts of handle slots (R169). -/
  reuse : List (Nat × Nat)
  progs : List Prog
  models : List Model
  accords : List Accord
  invocations : List Invocation
  bindings : List Binding
  runs : List Run
  cores : List (Nat × Core)
  events : List ((Nat × Nat) × Nat)
  tpDirty : List (Nat × Nat)
  /-- For each flat core with a reload pending: the context whose save area it reloads. -/
  tpOwner : List (Nat × (Nat × Nat))
  indexes : List Index
  queries : List Query
  flash : FlashSt
  fabric : FabricSt
  integ : IntegSt
  cfl : CflSt
  sec : SecSt
  power : PowerSt
  health : HealthSt
  mgmt : MgmtSt
  test : TestSt
  commitSeq : Nat
  now : Nat
  freeCount : Nat
  out : List Out
  deriving DecidableEq, Repr

/-! ### The state after reset -/

/-- A queue block at its After reset values: COUNT 1, RESULT_TMO 100, everything else 0 (queue block fields, R483). -/
def Queue.reset : Queue :=
  { sqBase := 0, cqBase := 0, vector := 0, irqEn := false, enabled := false, orphaned := false, owner := none
    delay := 0, count := 1, resultTmo := 100, sqTail := 0, sqHead := 0, rung := [], cqTail := 0, cqHead := 0, phase := true
    eventLost := false, configError := false, fetchError := false, tagError := false, dbError := false
    unreported := 0, events := [], heldCpls := [] }

/-- Twenty-seven counters at zero (R537). -/
def Acct.zero : Acct := { counters := List.replicate 27 0, saturated := 0 }

/-- Compute dies of a variant (R12). -/
def Variant.dies : Variant → Nat
  | .nk2 => 2
  | .nk4 => 4
  | .nk8 => 8

/-- Entry 0 of the factory record (*Factory partition entry* table, R677). -/
def factoryEntry (v : Variant) : PEntry :=
  { clusterMask := 2 ^ (4 * Variant.dies v) - 1
    nmQuota := match v with | .nk2 => 246 | .nk4 => 496 | .nk8 => 1000
    tpBankMask := 0xFFFF
    nsMask := 0xFFFFFFFFFFFFFFFF
    fabMask := 2 ^ (2 * Variant.dies v) - 1
    ctxMax := 16, prioCeil := 3, slice := 200, ageing := 50000, valid := 1 }

/-- The factory record (factory defaults of the *Configuration record layout* table, R25, R677). -/
def factoryRec (v : Variant) : Rec :=
  { format := 1, length := 0x200, generation := 1, isolation := 0, defaultOpp := 3, cflWaitBoot := 31
    pkgPowerCap := 0, holdupEnergy := 0, dirtyCeiling := 8192
    fabricModes := (List.range (2 * Variant.dies v)).foldl (fun m p => m + 4 ^ p) 0
    partCount := 1, parts := factoryEntry v :: List.replicate 7 {} }

/-- A host port before its PERST_N is released. -/
def Port.reset : Port := { linkUp := false, perstN := false, releasedAt := 0, numVfs := 8, vfEnable := false }

/-- The health log as manufactured: every count zero. -/
def Health.zero : Health :=
  { powerOnMs := 0, interrupts := 0, deviceFaults := 0, uncleanStops := 0, errSaturated := 0
    errors := List.replicate 42 0, outOfService := [], excursions := [], running := [], faults := []
    bins := [] }

/-- The ROMX copy that a package leaves manufacture with: no patches and no NAND profiles (log entry 2). -/
def Romx.factory : Romx := { major := 1, minor := 0, svn := 0, commitSvn := false, digest := [], profiles := [] }

def FlushArea.empty : FlushArea :=
  { present := false, todo := [], written := [], tailsSaved := false, mem := [], endRecord := false, limit := none, startedAt := 0, deadline := none
    spare := 0, writtenAt := none, sbs := [] }

/-- The package as it leaves manufacture, held in reset: supplies off, PERST_N low, no start-up step of R615 done.
The variant and every value that the manual does not give are the model's choice (log entries 2 and 3). -/
def State.reset : State :=
  { pending := []
    variant := .nk8
    cfg :=
      { recA := some (factoryRec .nk8), recB := none
        inForce := { isolation := 0, fabricModes := (factoryRec .nk8).fabricModes, holdupEnergy := 0, defaultOpp := 3, cflWaitBoot := 31
                     parts := (factoryRec .nk8).parts }
        defaulted := false, waitingCeiling := [], waitingCap := [], tunables := [0, 7, 64, 24, 5], tunablesSaved := [0, 7, 64, 24, 5]
        tunablesLost := false }
    host :=
      { splitStrap := false, splitSampled := false, splitPending := true, ports := [Port.reset, Port.reset], fnD3 := []
        hwin := List.replicate 8 { base := 0, port := 0, enable := false }
        cflWait := 31, msixTable := [], msixPba := [], queues := [], outst := [], nextSerial := 0, doorbells := 0, held := [], mem := [], memBad := [] }
    ctxs := [], parts := [], arbiters := [], device := Acct.zero, sems := [], mem := [], allocs := [], dcache := [], tensors := [], bindCount := 0, reuse := []
    progs := [], models := [], accords := [], invocations := [], bindings := [], runs := [], cores := [], events := []
    tpDirty := [], tpOwner := [], indexes := [], queries := []
    flash :=
      { fits := [], groupState := List.replicate 8 0, profile := [], ns := [], objs := [], map := [], slots := [], nextSlot := 0
        slotMem := [], copies := [], nand := [], nandMem := [], sbs := [], retired := [], taken := [], joined := [], failed := []
        jbuf := [], jdur := [], ckpts := [], recal := [], readOnly := false, raised10 := false, raised0 := false
        pend := [], turn := 0, nextGid := 0, area := FlushArea.empty, plpEnd := 0, plpEnergy := 0, plpBytes := 0, plpRolledBack := 0, plpPoisoned := 0 }
    fabric := { lports := [], fibre := List.replicate 8 false, laserEn := List.replicate 8 false, oePowered := List.replicate 8 false
                rings := [], lastEpoch := [] }
    integ := { poison := [], weak := [], bad := [], injected := [], trackers := [], counted := [], remaps := [], withheld := [], retiredBanks := []
               armed := [], scrubPos := [], due := [], bankOut := [] }
    cfl := { arr := [], op := none, undefinedAt := [], protLevel := 0, protCounter := 0, lowering := none, lowerCmd := none }
    sec := { serial := 0, minSvn := 0, romxA := some Romx.factory, romxB := none, running := none, debugOpened := false
             keySlots := List.replicate 64 0, keyGens := List.replicate 64 0, keysBad := [], spdm := [], ide := [], drbg := 0 }
    power :=
      { pwrgd := false, plpN := true, powered := false
        clocks := [(.pclk0, true), (.pclk1, true), (.fclk, true), (.sclk, true), (.aclk, true)], failing := [], checks := []
        opp := 0, stall := 0, otherLast := [], vdd := List.replicate 8 0
        adminReady := false, storageReady := false, computeReady := false, fabricReady := false
        flushing := false, draining := false, flushed := false, fault := false, faultDrained := false
        replaying := false, replayed := false, diesInService := [], groupsInUse := [], uptimeUs := 0
        resetWaits := false, faultN := true, wpN := false, mgmtAddrPins := 0, mgmtSmbPin := false }
    health := { log := Health.zero, saved := Health.zero, temps := [], hotSince := [], coolMs := [], watchdog := [] }
    mgmt := { events := [], lost := false, i3c := false, addr := 0, smbOnly := false, eid := 0 }
    test := { links := [], bist := [], tapIr := 1, stack := 0, boundary := [] }
    commitSeq := 1, now := 0, freeCount := 0, out := [] }

/-- The reasons a step stops with a fault: the model has none, because every access that the manual
forbids is refused by a status of the device before it is made (R150). -/
inductive Fault where
  /-- Raised by nobody: no step of the block ends in a machine fault. Safe. -/
  | none
  deriving DecidableEq, Repr

/-- The reasons a step is refused. -/
inductive Refusal where
  /-- Raised by an arm of `exec` whose command has no meaning yet. Safe: nothing is claimed of it. -/
  | notModelled (mnemonic : String)
  deriving DecidableEq, Repr

end Sys2Proof.Machine
end

