-- ==== Sys2Proof/Machine/Bits.lean ====
section
/-!
DEFINITION. Shared plain operations: little-endian fields (R6), association lists, the sparse byte store,
checksums (CRC-32 of IEEE 802.3, SHA-256) and the comparison rules for sequence numbers (R431, R636).
-/
namespace Sys2Proof.Machine

open Sys2Proof

/-! ### Little-endian fields -/

/-- `n` bytes of `v`, lowest first (R6). -/
def leBytes : Nat → Nat → Bytes
  | 0, _ => []
  | n + 1, v => BitVec.ofNat 8 v :: leBytes n (v / 256)

/-- The number that bytes spell, lowest first (R6). -/
def ofLe : Bytes → Nat
  | [] => 0
  | b :: bs => b.toNat + 256 * ofLe bs

/-- `n` bytes at offset `off` of a record; bytes past its end read as zero. -/
def slice (bs : Bytes) (off n : Nat) : Bytes :=
  let got := (bs.drop off).take n
  got ++ List.replicate (n - got.length) 0

/-- The little-endian field of `n` bytes at `off`. -/
def field (bs : Bytes) (off n : Nat) : Nat := ofLe (slice bs off n)

/-- Whether `n` bytes at `off` are all zero (reserved bytes, R9). -/
def zeroAt (bs : Bytes) (off n : Nat) : Bool := (slice bs off n).all (· == 0)

/-- Bits `lo` to `lo + n - 1` of `v`. -/
def bits (v lo n : Nat) : Nat := (v / 2 ^ lo) % 2 ^ n

/-- Bit `i` of `v`. -/
def bitAt (v i : Nat) : Bool := v.testBit i

/-- The signed value of the low `n` bits of `v`. -/
def signedOf (n v : Nat) : Int :=
  let r := v % 2 ^ n
  if r < 2 ^ (n - 1) then (r : Int) else (r : Int) - 2 ^ n

/-- The `n`-bit two's complement code of an integer. -/
def codeOf (n : Nat) (v : Int) : Nat := (v % (2 ^ n : Nat)).toNat

/-- `n` zero bytes. -/
def zeros (n : Nat) : Bytes := List.replicate n 0

/-- Pad with zeros to `n` bytes. -/
def padTo (n : Nat) (bs : Bytes) : Bytes := bs ++ zeros (n - bs.length)

/-- The number of set bits below bit `n`. -/
def popCount (n v : Nat) : Nat := ((List.range n).filter (bitAt v ·)).length

/-- Overwrite the bytes from `off` with `bs`. -/
def overlay (dst : Bytes) (off : Nat) (bs : Bytes) : Bytes :=
  slice dst 0 off ++ bs ++ dst.drop (off + bs.length)

def ceilDiv (a b : Nat) : Nat := if b = 0 then 0 else (a + b - 1) / b

/-- Hold a value at a largest one (counters that stick, R418, R540). -/
def capAt (m v : Nat) : Nat := if v ≤ m then v else m

/-! ### Association lists -/

/-- The value at key `k`. -/
def alookup {κ α : Type} [DecidableEq κ] (k : κ) : List (κ × α) → Option α
  | [] => none
  | (k', v) :: r => if k' = k then some v else alookup k r

/-- Write `v` at key `k`: in place where the key stands, else at the end. -/
def ainsert {κ α : Type} [DecidableEq κ] (k : κ) (v : α) : List (κ × α) → List (κ × α)
  | [] => [(k, v)]
  | (k', v') :: r => if k' = k then (k, v) :: r else (k', v') :: ainsert k v r

/-- Remove key `k`. -/
def aerase {κ α : Type} [DecidableEq κ] (k : κ) (l : List (κ × α)) : List (κ × α) :=
  l.filter (fun p => p.1 ≠ k)

/-- Add to a list without repeats. -/
def addOnce {α : Type} [DecidableEq α] (x : α) (l : List α) : List α :=
  if x ∈ l then l else l ++ [x]

/-- Change every element that `p` picks. -/
def mapIf {α : Type} (p : α → Bool) (f : α → α) (l : List α) : List α :=
  l.map (fun x => if p x then f x else x)

/-- Change element `i`. -/
def modifyAt {α : Type} (f : α → α) : Nat → List α → List α
  | _, [] => []
  | 0, x :: xs => f x :: xs
  | n + 1, x :: xs => x :: modifyAt f n xs

/-- Write element `i`. -/
def setAt {α : Type} (i : Nat) (v : α) (l : List α) : List α := modifyAt (fun _ => v) i l

/-- The least element that `lt` picks; ties stay with the earlier one. -/
def leastBy {α : Type} (lt : α → α → Bool) : List α → Option α
  | [] => none
  | x :: xs =>
    match leastBy lt xs with
    | none => some x
    | some y => if lt y x then some y else some x

/-- Insert into a list kept in order. -/
def insertBy {α : Type} (lt : α → α → Bool) (x : α) : List α → List α
  | [] => [x]
  | y :: ys => if lt x y then x :: y :: ys else y :: insertBy lt x ys

/-- Sort by insertion; equal elements keep their order. -/
def sortBy {α : Type} (lt : α → α → Bool) (l : List α) : List α :=
  l.foldl (fun acc x => insertBy lt x acc) []

/-- The least natural number below `n` that `p` accepts. -/
def firstBelow (n : Nat) (p : Nat → Bool) : Option Nat := (List.range n).find? p

/-! ### The sparse byte store -/

/-- The byte at `a`; an unlisted address reads as the store's default byte `d`. -/
def Mem.read (d : Byte) : Mem → Nat → Byte
  | [], _ => d
  | (k, b) :: r, a => if k = a then b else Mem.read d r a

/-- Remove address `a`. -/
def Mem.drop : Mem → Nat → Mem
  | [], _ => []
  | (k, b) :: r, a => if k = a then r else if a < k then (k, b) :: r else (k, b) :: Mem.drop r a

/-- Put a byte at `a`, keeping the addresses rising. -/
def Mem.put : Mem → Nat → Byte → Mem
  | [], a, v => [(a, v)]
  | (k, b) :: r, a, v =>
    if a < k then (a, v) :: (k, b) :: r
    else if k = a then (a, v) :: r
    else (k, b) :: Mem.put r a v

/-- Store a byte: the default byte removes the entry, so equal stores are equal lists. -/
def Mem.write (d : Byte) (m : Mem) (a : Nat) (v : Byte) : Mem :=
  if v = d then m.drop a else m.put a v

/-- The canonical form: addresses strictly rising from `lo`, no entry equal to the default byte. -/
def Mem.wfFrom (d : Byte) : Nat → Mem → Bool
  | _, [] => true
  | lo, (k, b) :: r => decide (lo ≤ k) && decide (b ≠ d) && Mem.wfFrom d (k + 1) r

/-- The canonical form of a store with default byte `d`. -/
def Mem.wf (d : Byte) (m : Mem) : Bool := Mem.wfFrom d 0 m

/-- `n` bytes from `a`. -/
def Mem.readN (d : Byte) (m : Mem) : Nat → Nat → Bytes
  | _, 0 => []
  | a, n + 1 => m.read d a :: Mem.readN d m (a + 1) n

/-- Store a run of bytes from `a`. -/
def Mem.writeN (d : Byte) : Mem → Nat → Bytes → Mem
  | m, _, [] => m
  | m, a, b :: bs => Mem.writeN d (m.write d a b) (a + 1) bs

/-- Fill `n` bytes from `a` with the default byte: every entry of the range goes. -/
def Mem.clear (m : Mem) (a n : Nat) : Mem := m.filter (fun c => c.1 < a || a + n ≤ c.1)

/-! ### Checksums -/

/-- One bit step of the reflected CRC-32 of IEEE 802.3. -/
def crcBit (c : W32) : W32 := if c.getLsbD 0 then (c >>> 1) ^^^ 0xEDB88320#32 else c >>> 1

/-- One byte step of the CRC-32. -/
def crcByte (c : W32) (b : Byte) : W32 :=
  let x := c ^^^ b.zeroExtend 32
  crcBit (crcBit (crcBit (crcBit (crcBit (crcBit (crcBit (crcBit x)))))))

/-- CRC-32 (IEEE 802.3 polynomial) of a run of bytes (R25, R190, R337). -/
def crc32 (bs : Bytes) : Nat := (~~~ (bs.foldl crcByte 0xFFFFFFFF#32)).toNat

/-- The round constants of SHA-256. -/
def shaK : List W32 :=
  [0x428a2f98#32, 0x71374491#32, 0xb5c0fbcf#32, 0xe9b5dba5#32, 0x3956c25b#32, 0x59f111f1#32, 0x923f82a4#32, 0xab1c5ed5#32,
   0xd807aa98#32, 0x12835b01#32, 0x243185be#32, 0x550c7dc3#32, 0x72be5d74#32, 0x80deb1fe#32, 0x9bdc06a7#32, 0xc19bf174#32,
   0xe49b69c1#32, 0xefbe4786#32, 0x0fc19dc6#32, 0x240ca1cc#32, 0x2de92c6f#32, 0x4a7484aa#32, 0x5cb0a9dc#32, 0x76f988da#32] ++
  [0x983e5152#32, 0xa831c66d#32, 0xb00327c8#32, 0xbf597fc7#32, 0xc6e00bf3#32, 0xd5a79147#32, 0x06ca6351#32, 0x14292967#32,
   0x27b70a85#32, 0x2e1b2138#32, 0x4d2c6dfc#32, 0x53380d13#32, 0x650a7354#32, 0x766a0abb#32, 0x81c2c92e#32, 0x92722c85#32,
   0xa2bfe8a1#32, 0xa81a664b#32, 0xc24b8b70#32, 0xc76c51a3#32, 0xd192e819#32, 0xd6990624#32, 0xf40e3585#32, 0x106aa070#32] ++
  [0x19a4c116#32, 0x1e376c08#32, 0x2748774c#32, 0x34b0bcb5#32, 0x391c0cb3#32, 0x4ed8aa4a#32, 0x5b9cca4f#32, 0x682e6ff3#32,
   0x748f82ee#32, 0x78a5636f#32, 0x84c87814#32, 0x8cc70208#32, 0x90befffa#32, 0xa4506ceb#32, 0xbef9a3f7#32, 0xc67178f2#32]

/-- The initial hash value of SHA-256. -/
def shaInit : List W32 :=
  [0x6a09e667#32, 0xbb67ae85#32, 0x3c6ef372#32, 0xa54ff53a#32, 0x510e527f#32, 0x9b05688c#32, 0x1f83d9ab#32, 0x5be0cd19#32]

/-- Big-endian word of four bytes, as SHA-256 reads its message. -/
def beWord (bs : Bytes) : W32 := BitVec.ofNat 32 (bs.foldl (fun acc b => acc * 256 + b.toNat) 0)

def beBytes (w : W32) : Bytes := (leBytes 4 w.toNat).reverse

/-- Cut into pieces of `n` bytes; `fuel` bounds the number of pieces. -/
def chunksOf (n : Nat) : Nat → Bytes → List Bytes
  | 0, _ => []
  | fuel + 1, bs => if bs.isEmpty then [] else bs.take n :: chunksOf n fuel (bs.drop n)

/-- The message schedule: extend the words, newest first. -/
def shaExtend : Nat → List W32 → List W32
  | 0, ws => ws
  | n + 1, ws =>
    let x15 := ws.getD 14 0
    let x2 := ws.getD 1 0
    let s0 := x15.rotateRight 7 ^^^ x15.rotateRight 18 ^^^ (x15 >>> 3)
    let s1 := x2.rotateRight 17 ^^^ x2.rotateRight 19 ^^^ (x2 >>> 10)
    shaExtend n ((ws.getD 15 0 + s0 + ws.getD 6 0 + s1) :: ws)

/-- One round of SHA-256. -/
def shaRound (h : List W32) (kw : W32 × W32) : List W32 :=
  match h with
  | [a, b, c, d, e, f, g, hh] =>
    let s1 := e.rotateRight 6 ^^^ e.rotateRight 11 ^^^ e.rotateRight 25
    let ch := (e &&& f) ^^^ (~~~ e &&& g)
    let t1 := hh + s1 + ch + kw.1 + kw.2
    let s0 := a.rotateRight 2 ^^^ a.rotateRight 13 ^^^ a.rotateRight 22
    let mj := (a &&& b) ^^^ (a &&& c) ^^^ (b &&& c)
    [t1 + (s0 + mj), a, b, c, d + t1, e, f, g]
  | other => other

/-- One block of SHA-256. -/
def shaBlock (h : List W32) (blk : Bytes) : List W32 :=
  let w0 := ((chunksOf 4 16 blk).map beWord).reverse
  let ws := (shaExtend 48 w0).reverse
  let h' := (shaK.zip ws).foldl shaRound h
  (h.zip h').map (fun p => p.1 + p.2)

/-- SHA-256 (R571, R577). -/
def sha256 (msg : Bytes) : Bytes :=
  let len := msg.length
  let padLen := (119 - len % 64) % 64
  let padded := msg ++ [0x80#8] ++ zeros padLen ++ (leBytes 8 (len * 8)).reverse
  ((chunksOf 64 (len / 64 + 2) padded).foldl shaBlock shaInit).flatMap beBytes

/-! ### Sequence numbers -/

/-- 64-bit sequence comparison (R636): `a` earlier than `b`. -/
def seqLt (a b : Nat) : Bool :=
  let d := (b + 2 ^ 64 - a % 2 ^ 64) % 2 ^ 64
  1 ≤ d && d ≤ 2 ^ 63 - 1

/-- Earlier or equal under R636. -/
def seqLe (a b : Nat) : Bool := a % 2 ^ 64 = b % 2 ^ 64 || seqLt a b

/-- 32-bit Longshore comparison (R431). -/
def lsLt (a b : Nat) : Bool :=
  let d := (b + 2 ^ 32 - a % 2 ^ 32) % 2 ^ 32
  1 ≤ d && d ≤ 2 ^ 31 - 1

/-- Earlier or equal under R431. -/
def lsLe (a b : Nat) : Bool := a % 2 ^ 32 = b % 2 ^ 32 || lsLt a b

/-- The next package commit sequence number, skipping the two markers (R208). -/
def nextSeq (s : Nat) : Nat :=
  let n := (s + 1) % 2 ^ 64
  if n = 0 ∨ n = 2 ^ 64 - 1 then 1 else n

end Sys2Proof.Machine
end

