-- ==== Sys2Proof/Machine/Formats.lean ====
section
/-!
DEFINITION. Number formats and rounding (chapter *Number formats and rounding*): decoding and encoding of the nineteen
formats, the rounding modes, the out-of-range rules, and exact dyadic arithmetic on which every unit's results rest.
-/
namespace Sys2Proof.Machine

open Sys2Proof

/-- A value: NaN, an infinity, or (−1)^neg × m × 2^e. A zero keeps its sign. -/
inductive Num where
  | nan
  | inf (neg : Bool)
  | fin (neg : Bool) (m : Nat) (e : Int)
  deriving DecidableEq, Repr

/-- What an operation raises: IEEE flags (bits as R531) and the counts of R68. -/
structure Ev where
  flags : Nat := 0
  sats : Nat := 0
  nans : Nat := 0
  deriving DecidableEq, Repr

/-- ORs the flags and sums the counts (R70). -/
def Ev.add (a b : Ev) : Ev := ⟨a.flags ||| b.flags, a.sats + b.sats, a.nans + b.nans⟩

def flagInvalid : Nat := 1
def flagDivZero : Nat := 2
def flagOverflow : Nat := 4
def flagUnderflow : Nat := 8
def flagInexact : Nat := 16

/-- A floating-point layout: field widths, bias, whether the all-ones exponent is special, whether 0x80 is the NaN (R45, R48). -/
structure Flt where
  ebits : Nat
  mbits : Nat
  bias : Nat
  special : Bool
  nan80 : Bool
  deriving DecidableEq, Repr

def fltF32 : Flt := ⟨8, 23, 127, true, false⟩
def fltF64 : Flt := ⟨11, 52, 1023, true, false⟩
def fltBF16 : Flt := ⟨8, 7, 127, true, false⟩
def fltH16 : Flt := ⟨5, 10, 15, true, false⟩
def fltF8A : Flt := ⟨4, 3, 8, false, true⟩
def fltF8B : Flt := ⟨5, 2, 16, false, true⟩
def fltF6 : Flt := ⟨3, 2, 3, false, false⟩
def fltF4 : Flt := ⟨2, 1, 1, false, false⟩

/-- The format codes of R42 as data. -/
inductive Fmt where
  | flt (f : Flt)
  | int (bits : Nat) (signed : Bool)
  | block (f : Flt) (size : Nat)
  | split (pieces : Nat)
  | lb32
  deriving DecidableEq, Repr

/-- The *Format codes* table (R42): none for a reserved code. -/
def fmtOf : Nat → Option Fmt
  | 0x00 => some (.flt fltF32)
  | 0x01 => some (.flt fltF64)
  | 0x02 => some (.flt fltBF16)
  | 0x03 => some (.flt fltH16)
  | 0x04 => some (.flt fltF8A)
  | 0x05 => some (.flt fltF8B)
  | 0x06 => some (.int 8 true)
  | 0x07 => some (.int 8 false)
  | 0x08 => some (.int 4 true)
  | 0x09 => some (.int 32 true)
  | 0x0A => some (.block fltF4 16)
  | 0x0B => some (.block fltF4 32)
  | 0x0C => some (.block fltF6 16)
  | 0x0D => some (.block fltF6 32)
  | 0x0E => some (.block fltF8A 32)
  | 0x0F => some (.split 2)
  | 0x10 => some (.split 3)
  | 0x11 => some .lb32
  | _ => none

/-- Width of one element in bits (R42); LB32 elements are counted in bytes of 100-byte blocks by their own rules. -/
def Fmt.width : Fmt → Nat
  | .flt f => 1 + f.ebits + f.mbits
  | .int b _ => b
  | .block f _ => 1 + f.ebits + f.mbits
  | .split _ => 32
  | .lb32 => 25

/-- Whether a format is block-scaled, and its block size. -/
def Fmt.blockSize : Fmt → Option Nat
  | .block _ n => some n
  | _ => none

/-- Largest exponent field of a finite value. -/
def Flt.maxExp (f : Flt) : Nat := if f.special then 2 ^ f.ebits - 2 else 2 ^ f.ebits - 1

/-- Code of the largest finite magnitude of a sign (R45). -/
def Flt.maxCode (f : Flt) (neg : Bool) : Nat :=
  f.maxExp * 2 ^ f.mbits + (2 ^ f.mbits - 1) + (if neg then 2 ^ (f.ebits + f.mbits) else 0)

/-- Code of infinity of a sign, where the format has one. -/
def Flt.infCode (f : Flt) (neg : Bool) : Nat :=
  (2 ^ f.ebits - 1) * 2 ^ f.mbits + (if neg then 2 ^ (f.ebits + f.mbits) else 0)

/-- Code of the NaN that units write (R45, R59, R60). -/
def Flt.nanCode (f : Flt) : Nat :=
  if f.nan80 then 0x80 else (2 ^ f.ebits - 1) * 2 ^ f.mbits + 2 ^ (f.mbits - 1)

/-- The decoding rule of R44, R46 and R48; `sub` keeps subnormals and negative zeros, as the long formats have them on the
conforming path (R56). -/
def Flt.decode (f : Flt) (sub : Bool) (code : Nat) : Num :=
  let neg := bitAt code (f.ebits + f.mbits)
  let e := bits code f.mbits f.ebits
  let m := bits code 0 f.mbits
  if f.nan80 && code % 256 = 0x80 then .nan
  else if e = 0 then
    if sub then .fin neg m (1 - f.bias - f.mbits) else .fin false 0 0
  else if f.special && e = 2 ^ f.ebits - 1 then
    if m = 0 then .inf neg else .nan
  else .fin neg (2 ^ f.mbits + m) ((e : Int) - f.bias - f.mbits)

/-- Whether a long-format code is a NaN, and its quietened form (R59). -/
def Flt.isNan (f : Flt) (code : Nat) : Bool :=
  f.special && bits code f.mbits f.ebits = 2 ^ f.ebits - 1 && bits code 0 f.mbits ≠ 0

def Flt.quiet (f : Flt) (code : Nat) : Nat := code ||| 2 ^ (f.mbits - 1)

/-- Whether a NaN code is signalling: its quiet bit is clear. -/
def Flt.isSnan (f : Flt) (code : Nat) : Bool := f.isNan code && !bitAt code (f.mbits - 1)

/-! ### Rounding -/

/-- Whether a magnitude rounds away from zero (R61, R62): kept quotient `q`, discarded part `rem` of `sh` bits,
`sticky` for anything below, and the generator value `r` of SR. -/
def roundsUp (mode : Nat) (neg : Bool) (q rem sh : Nat) (sticky : Bool) (r : Nat) : Bool :=
  match mode with
  | 0 => if sh = 0 then false else
      let half := 2 ^ (sh - 1)
      rem > half || (rem = half && (sticky || q % 2 = 1))
  | 1 => false
  | 2 =>
      let t := if 16 ≤ sh then rem / 2 ^ (sh - 16) else rem * 2 ^ (16 - sh)
      65536 ≤ t + r
  | 3 => !neg && (rem ≠ 0 || sticky)
  | _ => neg && (rem ≠ 0 || sticky)

/-- Rounds m × 2^e to an integer multiple of 2^lsb: the multiple, and whether the value changed. -/
def roundAt (mode : Nat) (neg : Bool) (m : Nat) (e : Int) (sticky : Bool) (lsb : Int) (r : Nat) : Nat × Bool :=
  if lsb ≤ e then
    (m * 2 ^ (e - lsb).toNat + (if roundsUp mode neg 0 0 0 sticky r then 1 else 0), sticky)
  else
    let sh := (lsb - e).toNat
    let q := m / 2 ^ sh
    let rem := m % 2 ^ sh
    (q + (if roundsUp mode neg q rem sh sticky r then 1 else 0), rem ≠ 0 || sticky)

/-- Rounding options of a step: mode, IEEE overflow (R67) and the conforming path. -/
structure Rnd where
  mode : Nat
  ieeeOvf : Bool := false
  conforming : Bool := false
  deriving DecidableEq, Repr

/-- RNE without flags: what the ME, the MV and the link adders use (R63). -/
def rndRne : Rnd := ⟨0, false, false⟩

/-- A finite result beyond range after rounding (R65, R67). -/
def Flt.overflowCode (f : Flt) (o : Rnd) (long : Bool) (neg : Bool) : Nat × Ev :=
  let fl := if o.conforming then flagOverflow ||| flagInexact else 0
  if long && o.ieeeOvf then
    let toMax := o.mode = 1 || (o.mode = 4 && !neg) || (o.mode = 3 && neg)
    (if toMax then f.maxCode neg else f.infCode neg, ⟨fl, 0, 0⟩)
  else (f.maxCode neg, ⟨fl, 1, 0⟩)

/-- Encodes m × 2^e (with `sticky` for a non-zero rest below) under R47, R61, R65 to R67. Subnormals and signed zeros
survive on the conforming path only, in the long formats; a flush into a short format raises underflow and inexact there (log entry 29). -/
def Flt.encodeFin (f : Flt) (o : Rnd) (neg : Bool) (m : Nat) (e : Int) (sticky : Bool) (r : Nat) : Nat × Ev :=
  let long := decide (f.mbits ≥ 23)
  let sgn := if neg then 2 ^ (f.ebits + f.mbits) else 0
  let keepZero := if o.conforming && long then sgn else 0
  if m = 0 then (keepZero, ⟨if sticky && o.conforming then flagInexact else 0, 0, 0⟩)
  else
    let p : Int := (Nat.log2 m : Int) + e
    let emin : Int := 1 - (f.bias : Int)
    let (q0, inexact) := roundAt o.mode neg m e sticky (p - f.mbits) r
    let p' : Int := if q0 ≥ 2 ^ (f.mbits + 1) then p + 1 else p
    let q := if q0 ≥ 2 ^ (f.mbits + 1) then q0 / 2 else q0
    if p' < emin then
      if o.conforming && long then
        let (qs, ix) := roundAt o.mode neg m e sticky (emin - f.mbits) r
        let fl := if ix then flagUnderflow ||| flagInexact else 0
        (sgn + qs, ⟨fl, 0, 0⟩)
      else (0, ⟨if o.conforming then flagUnderflow ||| flagInexact else 0, 0, 0⟩)
    else
      let ef := (p' + f.bias).toNat
      if ef > f.maxExp then f.overflowCode o long neg
      else (sgn + ef * 2 ^ f.mbits + (q - 2 ^ f.mbits), ⟨if inexact && o.conforming then flagInexact else 0, 0, 0⟩)

/-- Encodes a value into a floating-point format (R48, R65); `scale` counts an infinity into a format without one. -/
def Flt.encode (f : Flt) (o : Rnd) (v : Num) (r : Nat) : Nat × Ev :=
  match v with
  | .nan => (f.nanCode, {})
  | .inf neg => if f.special then (f.infCode neg, {}) else (f.maxCode neg, ⟨0, 1, 0⟩)
  | .fin neg m e => f.encodeFin o neg m e false r

/-- Integer range ends (R54). -/
def intMin (b : Nat) (signed : Bool) : Int := if signed then -(2 ^ (b - 1) : Int) else 0

def intMax (b : Nat) (signed : Bool) : Int := if signed then 2 ^ (b - 1) - 1 else 2 ^ b - 1

/-- Rounds a value to an integer in a mode (R64). -/
def Num.roundInt (mode : Nat) (neg : Bool) (m : Nat) (e : Int) (r : Nat) : Int × Bool :=
  let (q, ix) := roundAt mode neg m e false 0 r
  (if neg then -(q : Int) else (q : Int), ix)

/-- Conversion into an integer format with a zero point (R56, R64, R65). -/
def encodeInt (b : Nat) (signed : Bool) (o : Rnd) (zp : Int) (v : Num) (r : Nat) : Int × Ev :=
  let inv := if o.conforming then flagInvalid else 0
  match v with
  | .nan => (zp, ⟨inv, 0, 1⟩)
  | .inf neg => (if neg then intMin b signed else intMax b signed, ⟨inv, 1, 0⟩)
  | .fin neg m e =>
    let (q, ix) := Num.roundInt o.mode neg m e r
    let c := q + zp
    if c < intMin b signed then (intMin b signed, ⟨inv, 1, 0⟩)
    else if c > intMax b signed then (intMax b signed, ⟨inv, 1, 0⟩)
    else (c, ⟨if ix && o.conforming then flagInexact else 0, 0, 0⟩)

/-! ### Exact arithmetic -/

def Num.neg : Num → Num
  | .nan => .nan
  | .inf s => .inf (!s)
  | .fin s m e => .fin (!s) m e

def Num.abs : Num → Num
  | .nan => .nan
  | .inf _ => .inf false
  | .fin _ m e => .fin false m e

def Num.isZero : Num → Bool
  | .fin _ m _ => m == 0
  | _ => false

/-- The integer (signed mantissa) at exponent `e0`, for `e0` not above the value's own exponent. -/
def Num.intAt (neg : Bool) (m : Nat) (e e0 : Int) : Int :=
  let v : Int := (m * 2 ^ (e - e0).toNat : Nat)
  if neg then -v else v

/-- Exact sum; an exact zero sum of unlike signs takes the sign that RDN gives (`down`). -/
def Num.add (down : Bool) (a b : Num) : Num :=
  match a, b with
  | .nan, _ => .nan
  | _, .nan => .nan
  | .inf s, .inf t => if s = t then .inf s else .nan
  | .inf s, .fin .. => .inf s
  | .fin .., .inf t => .inf t
  | .fin s m e, .fin t n f =>
    if m = 0 && n = 0 then .fin (if s = t then s else down) 0 0
    else
      let e0 := min e f
      let v := Num.intAt s m e e0 + Num.intAt t n f e0
      if v = 0 then .fin down 0 0 else .fin (decide (v < 0)) v.natAbs e0

/-- Exact product. -/
def Num.mul (a b : Num) : Num :=
  match a, b with
  | .nan, _ => .nan
  | _, .nan => .nan
  | .inf s, .inf t => .inf (s != t)
  | .inf s, .fin t n _ => if n = 0 then .nan else .inf (s != t)
  | .fin s m _, .inf t => if m = 0 then .nan else .inf (s != t)
  | .fin s m e, .fin t n f => .fin (s != t) (m * n) (e + f)

/-- Scaling by a power of two. -/
def Num.scale (v : Num) (k : Int) : Num :=
  match v with
  | .fin s m e => .fin s m (e + k)
  | x => x

/-- The exact value of an integer. -/
def Num.ofInt (v : Int) : Num := .fin (decide (v < 0)) v.natAbs 0

/-- Order of two values that are not NaN: `some lt`; none when either is NaN. -/
def Num.lt? (a b : Num) : Option Bool :=
  match a, b with
  | .nan, _ => none
  | _, .nan => none
  | .inf s, .inf t => some (s && !t)
  | .inf s, .fin .. => some s
  | .fin .., .inf t => some (!t)
  | .fin s m e, .fin t n f =>
    let e0 := min e f
    some (decide (Num.intAt s m e e0 < Num.intAt t n f e0))

def Num.lt (a b : Num) : Bool := (a.lt? b).getD false

def Num.eq (a b : Num) : Bool :=
  match a.lt? b, b.lt? a with
  | some false, some false => true
  | _, _ => false

/-- The nearest integer to a / b, ties to even. -/
def roundDiv (a b : Int) : Int :=
  let q := a.natAbs / b.natAbs
  let r := a.natAbs % b.natAbs
  let m := if 2 * r > b.natAbs ∨ (2 * r = b.natAbs ∧ q % 2 = 1) then q + 1 else q
  if (a < 0) = (b < 0) then (m : Int) else -(m : Int)

/-- IEEE remainder of finite values, the divisor not zero; a zero result takes the sign of the dividend (R56). -/
def Num.rem (a b : Num) : Num :=
  match a, b with
  | .nan, _ => .nan
  | _, .nan => .nan
  | .inf _, _ => .nan
  | x, .inf _ => x
  | .fin s m e, .fin t n f =>
    if n = 0 then .nan
    else
      let e0 := min e f
      let x := Num.intAt s m e e0
      let y := Num.intAt t n f e0
      let r := x - roundDiv x y * y
      if r = 0 then .fin s 0 0 else .fin (decide (r < 0)) r.natAbs e0

/-- Integer square root by bits, from bit `n` down. -/
def isqrtGo : Nat → Nat → Nat → Nat
  | 0, v, acc => if (acc + 1) * (acc + 1) ≤ v then acc + 1 else acc
  | n + 1, v, acc =>
    let t := acc + 2 ^ (n + 1)
    isqrtGo n v (if t * t ≤ v then t else acc)

def isqrt (v : Nat) : Nat := isqrtGo (Nat.log2 v / 2 + 1) v 0

/-- A quotient with enough bits for every rounding mode, and its sticky rest. -/
def divBits (m : Nat) (e : Int) (n : Nat) (f : Int) : Nat × Int × Bool :=
  let k := 80 + Nat.log2 n
  let x := m * 2 ^ k
  (x / n, e - f - k, x % n ≠ 0)

/-- A square root with enough bits for every rounding mode, and its sticky rest. -/
def sqrtBits (m : Nat) (e : Int) : Nat × Int × Bool :=
  let (m1, e1) := if e % 2 = 0 then (m, e) else (m * 2, e - 1)
  let x := m1 * 2 ^ 160
  let q := isqrt x
  (q, e1 / 2 - 80, q * q ≠ x)

/-- A value m × 2^e with a rest: the last bit of the mantissa stands for everything below, so that every rounding of the value is right. -/
def Num.ofRest (neg : Bool) (x : Nat × Int × Bool) : Num := .fin neg (2 * x.1 + (if x.2.2 then 1 else 0)) (x.2.1 - 1)

/-- Quotient: exact, or with its rest in the last bit. -/
def Num.quot (a b : Num) : Num :=
  match a, b with
  | .nan, _ => .nan
  | _, .nan => .nan
  | .inf _, .inf _ => .nan
  | .inf s, .fin t _ _ => .inf (s != t)
  | .fin s _ _, .inf t => .fin (s != t) 0 0
  | .fin s m e, .fin t n f =>
    if n = 0 then (if m = 0 then .nan else .inf (s != t))
    else if m = 0 then .fin (s != t) 0 0
    else .ofRest (s != t) (divBits m e n f)

/-- Square root: exact, or with its rest in the last bit; a zero keeps its sign. -/
def Num.root (a : Num) : Num :=
  match a with
  | .nan => .nan
  | .inf s => if s then .nan else .inf false
  | .fin s m e => if m = 0 then .fin s 0 0 else if s then .nan else .ofRest false (sqrtBits m e)

/-- The integer that a value without a fraction stands for. -/
def Num.toInt (v : Num) : Int :=
  match v with
  | .fin s m e => if 0 ≤ e then (if s then -(m * 2 ^ e.toNat : Nat) else (m * 2 ^ e.toNat : Nat)) else 0
  | _ => 0

/-! ### F32 of the units that do not conform (R60) -/

def decF32 (c : W32) : Num := fltF32.decode false c.toNat

/-- Rounds a value to F32 under R60 and R67 without the IEEE overflow option. -/
def toF32 (o : Rnd) (v : Num) (r : Nat) : W32 × Ev :=
  let (c, ev) := fltF32.encode o v r
  (BitVec.ofNat 32 c, ev)

def rneF32 (v : Num) : W32 := (toF32 rndRne v 0).1

def f32Add (a b : W32) : W32 := rneF32 ((decF32 a).add false (decF32 b))

def f32Mul (a b : W32) : W32 := rneF32 ((decF32 a).mul (decF32 b))

def f32Sub (a b : W32) : W32 := rneF32 ((decF32 a).add false (decF32 b).neg)

/-- Quotient rounded by RNE under R60. -/
def f32Div (a b : W32) : W32 := rneF32 ((decF32 a).quot (decF32 b))

/-- Square root rounded by RNE under R60. -/
def f32Sqrt (a : W32) : W32 := rneF32 (decF32 a).root

/-- Saturating I32 accumulation (R55): the held value and whether it was held. -/
def satI32 (v : Int) : Int × Nat :=
  if v > 2147483647 then (2147483647, 1) else if v < -2147483648 then (-2147483648, 1) else (v, 0)

/-! ### Elements in memory (R43) -/

/-- Reads the code of element `i` of a packed run of `w`-bit elements: the little-endian bit string of R43. -/
def packedCode (w : Nat) (bs : Bytes) (i : Nat) : Nat :=
  let lo := i * w
  let b0 := lo / 8
  let n := (lo + w + 7) / 8 - b0
  bits (ofLe (slice bs b0 n)) (lo - b0 * 8) w

/-- Packs codes of `w` bits into bytes (R43), the last byte padded with zeros. -/
def packCodes (w : Nat) (cs : List Nat) : Bytes :=
  let v := cs.foldr (fun c acc => c % 2 ^ w + acc * 2 ^ w) 0
  leBytes ((cs.length * w + 7) / 8) v

/-- Bytes of `n` elements of `w` bits. -/
def packedLen (w n : Nat) : Nat := (n * w + 7) / 8

/-- Decodes an element code of a format to its value; block elements take their E8, integers read as they are (R44, R49, R50, R111). -/
def decodeElem (fm : Fmt) (conf : Bool) (e8 : Nat) (code : Nat) : Num :=
  match fm with
  | .flt f => f.decode (conf && decide (f.mbits ≥ 23)) code
  | .int b signed => Num.ofInt (if signed then signedOf b code else (code % 2 ^ b : Nat))
  | .block f _ => if e8 = 255 then .nan else (f.decode false code).scale ((e8 : Int) - 127)
  | .split _ => fltF32.decode false code
  | .lb32 => .nan

/-! ### Block conversion (R53) -/

/-- Largest finite magnitude of a block's values, or zero. -/
def blockMax (vs : List Num) : Num :=
  vs.foldl (fun acc v =>
    match v with
    | .fin _ m e => if acc.lt (.fin false m e) then .fin false m e else acc
    | _ => acc) (.fin false 0 0)

/-- The value of the largest finite magnitude of an element format. -/
def Flt.maxNum (f : Flt) : Num := f.decode false (f.maxCode false)

/-- The E8 that R53 chooses. -/
def chooseE8 (f : Flt) (vs : List Num) : Nat :=
  if vs.any (fun v => v = .nan) then 255
  else
    let m := blockMax vs
    if m.isZero then 0
    else (firstBelow 255 (fun e8 => !(f.maxNum.lt (m.scale (127 - (e8 : Int)))))).getD 254

/-- Converts one block (R53): its E8, its codes, and what it raises. `rs` are the draws, one per element (R126). -/
def encodeBlock (f : Flt) (o : Rnd) (vs : List Num) (rs : List Nat) : Nat × List Nat × Ev :=
  let e8 := chooseE8 f vs
  if e8 = 255 then (255, vs.map (fun _ => 0), {})
  else
    let each := (vs.zip rs).map (fun p => f.encode ⟨o.mode, false, o.conforming⟩ (p.1.scale (127 - (e8 : Int))) p.2)
    (e8, each.map (·.1), (each.map (·.2)).foldl Ev.add {})

/-- Pieces of `n` elements of a list; `fuel` bounds their number. -/
def piecesOf {α : Type} (n : Nat) : Nat → List α → List (List α)
  | 0, _ => []
  | fuel + 1, l => if l.isEmpty then [] else l.take n :: piecesOf n fuel (l.drop n)

/-- What a unit writes for a run of elements of a row: codes, the E8 of each block, and what it raised. -/
structure RowOut where
  codes : List Nat
  exps : List Nat
  ev : Ev
  deriving DecidableEq, Repr

/-- Converts elements into blocks of a block-scaled format, the last one padded (R52, R53). -/
def encodeBlocks (f : Flt) (size : Nat) (o : Rnd) (vs : List Num) (rs : List Nat) : RowOut :=
  let bl := ((piecesOf size (vs.length + 1) vs).zip (piecesOf size (vs.length + 1) rs)).map (fun p => encodeBlock f o p.1 p.2)
  { codes := bl.flatMap (fun b => b.2.1 ++ List.replicate (size - b.2.1.length) 0), exps := bl.map (·.1)
    ev := (bl.map (fun b => b.2.2)).foldl Ev.add {} }

/-! ### Split precision (R71) -/

/-- The BF16 pieces of an F32 operand (R71). -/
def splitPieces (x : W32) : List Nat :=
  match decF32 x with
  | .nan => [0x7FC0, 0, 0]
  | .inf s => [fltBF16.infCode s, 0, 0]
  | v =>
    let p1 := (fltBF16.encode ⟨1, false, false⟩ v 0).1
    let d1 := v.add false (fltBF16.decode false p1).neg
    let p2 := (fltBF16.encode ⟨1, false, false⟩ d1 0).1
    let d2 := d1.add false (fltBF16.decode false p2).neg
    let p3 := (fltBF16.encode rndRne d2 0).1
    [p1, p2, p3]

/-- A partial product of pieces `i` and `j` (R72): an infinite piece with a zero lower piece gives zero. -/
def splitProduct (i j : Nat) (p q : Nat) : Num :=
  let a := fltBF16.decode false p
  let b := fltBF16.decode false q
  match a, b with
  | .inf _, .fin _ n _ => if n = 0 && 0 < j then .fin false 0 0 else a.mul b
  | .fin _ m _, .inf _ => if m = 0 && 0 < i then .fin false 0 0 else a.mul b
  | _, _ => a.mul b

/-! ### LB32 blocks (R455 to R457) -/

/-- RESIDUE of a list of elements (R457). -/
def lbResidue (e : List Int) : Nat :=
  ((e.zipIdx.foldl (fun acc p => acc + ((p.2 : Int) + 1) * p.1) 0) % 65521).toNat

/-- The NaN block (R456), its flags as they stood. -/
def lbNan (rescaled raw : Bool) : Lb32 := ⟨List.replicate 32 0, 255, rescaled, raw, 0⟩

/-- Layout of a block in 100 bytes (R455). -/
def lbBytes (b : Lb32) : Bytes :=
  b.e.flatMap (fun x => leBytes 3 (codeOf 24 x)) ++ leBytes 1 b.exp
    ++ leBytes 1 ((if b.rescaled then 1 else 0) + (if b.raw then 2 else 0)) ++ leBytes 2 b.residue

/-- A block read from 100 bytes. -/
def lbOfBytes (bs : Bytes) : Lb32 :=
  ⟨(List.range 32).map (fun i => signedOf 24 (field bs (3 * i) 3)), field bs 96 1, bitAt (field bs 97 1) 0,
   bitAt (field bs 97 1) 1, field bs 98 2⟩

/-- The value of element `x` of a block of exponent `exp` that is not NaN (R456). -/
def lbValue (x : Int) (exp : Nat) : Num := .fin (decide (x < 0)) x.natAbs ((exp : Int) - 149)

/-- Signed rounding division by a power of two, RNE (R468). -/
def rneShift (x : Int) (sh : Nat) : Int :=
  let (q, _) := roundAt 0 (decide (x < 0)) x.natAbs 0 false sh 0
  if x < 0 then -(q : Int) else (q : Int)

end Sys2Proof.Machine
end

