-- ==== Sys2Proof/Machine/Status.lean ====
section
/-!
DEFINITION. Status codes (R500, R540), variant figures (R12, R316, R367, R602) and the effective dirty ceiling (R368, R369).
-/
namespace Sys2Proof.Machine

open Sys2Proof

/-- The *Status codes* table (R540): class in bits 15:12, code in bits 11:0. -/
def Status.code : Status → Nat
  | .ok => 0x0000
  | .okEmptyReduction => 0x0001
  | .okItemsRejected => 0x0002
  | .packetMalformed => 0x1001
  | .opcodeInvalid => 0x1002
  | .paramInvalid => 0x1003
  | .configMalformed => 0x1004
  | .modeConflict => 0x1005
  | .programInvalid => 0x1006
  | .tensorInvalid => 0x1007
  | .indexOutOfRange => 0x1008
  | .indexParamInvalid => 0x1009
  | .nsParamInvalid => 0x100A
  | .accordInvalid => 0x100B
  | .idInUse => 0x100C
  | .notFound => 0x100D
  | .rangeExceeded => 0x100E
  | .semNotHolder => 0x100F
  | .resourceAbsent => 0x2001
  | .resourceBusy => 0x2002
  | .resourceExhausted => 0x2003
  | .notReady => 0x2004
  | .modelUnbound => 0x2005
  | .namespaceTypeMismatch => 0x2006
  | .powerCapInfeasible => 0x2007
  | .ceilingUncovered => 0x2008
  | .driftlineFull => 0x2009
  | .dataPoisoned => 0x3001
  | .resultPoisoned => 0x3002
  | .weightsUnreadable => 0x3003
  | .reductionCheck => 0x3004
  | .mediaReadOnly => 0x4001
  | .ringMismatch => 0x5001
  | .ringBroken => 0x5002
  | .ringAborted => 0x5003
  | .ringState => 0x5004
  | .protectionDenied => 0x6001
  | .signatureInvalid => 0x6002
  | .runBoundExceeded => 0x7001
  | .semTimeout => 0x7002
  | .semHeldPreempted => 0x7003
  | .dependencyFailed => 0x7004
  | .deviceNotReady => 0x8001
  | .cflWaitTooLow => 0x8002
  | .deviceFault => 0x8003
  | .unitFault => 0x8004

/-- The class in bits 15:12 (R500). -/
def Status.cls (s : Status) : Nat := s.code / 4096

/-- A status of the success class (R503). -/
def Status.success (s : Status) : Bool := s.cls == 0

/-! ### Variant figures -/

/-- Clusters of a variant: four per die (R11). -/
def Variant.clusters (v : Variant) : Nat := 4 * Variant.dies v

/-- Cores of a variant: the flat indices that R12 populates. -/
def Variant.cores (v : Variant) : Nat := 32 * Variant.dies v

/-- Near-memory stacks: three per die (R12). -/
def Variant.stacks (v : Variant) : Nat := 3 * Variant.dies v

/-- Flash-interface dies: one per two compute dies (R12). -/
def Variant.fds (v : Variant) : Nat := Variant.dies v / 2

/-- NAND channels: 32 per flash-interface die (R12). -/
def Variant.channels (v : Variant) : Nat := 16 * Variant.dies v

/-- Fabric ports: two per die (R12). -/
def Variant.ports (v : Variant) : Nat := 2 * Variant.dies v

/-- Channel groups of 16 channels (R310). -/
def Variant.groups (v : Variant) : Nat := Variant.channels v / 16

/-- Largest package power in W (*Variant headline figures*, R23). -/
def Variant.maxPower (v : Variant) : Nat := 200 + 425 * Variant.dies v

/-- Flush rate in bytes per second (*Flush figures*, R367). -/
def Variant.flushRate (v : Variant) : Nat := 5000000000 * Variant.dies v

/-- Flush power in W (*Flush figures*, R367). -/
def Variant.flushPower : Variant → Nat
  | .nk2 => 110
  | .nk4 => 180
  | .nk8 => 300

/-- Largest dirty ceiling in MiB (*Flush figures*, R367). -/
def Variant.maxCeiling (v : Variant) : Nat := 4096 * Variant.dies v

/-- Whether a ceiling of `d` MiB is covered by a declared energy of `e` J (R368), in whole numbers. -/
def covered (v : Variant) (e d : Nat) : Bool :=
  let r := Variant.flushRate v
  let t := r + 20 * d * 1048576
  decide (Variant.flushPower v * t ≤ 20 * (min e 300) * r) && decide (t ≤ 20 * r)

/-- The largest ceiling in MiB that R368 covers within the variant's largest, 0 when none above 0 is covered. -/
def largestCovered (v : Variant) (e : Nat) : Nat :=
  let r := Variant.flushRate v
  let byEnergy := (20 * (min e 300) * r / Variant.flushPower v - r) / (20 * 1048576)
  min (min byEnergy (19 * r / (20 * 1048576))) (Variant.maxCeiling v)

/-- Cluster engine power in W at full load per operating point (R599). -/
def clusterPower : Nat → Nat
  | 0 => 25
  | 1 => 38
  | 2 => 53
  | _ => 70

/-- Lowest package draw in W (R602). -/
def Variant.lowestDraw (v : Variant) : Nat := Variant.maxPower v - 45 * Variant.clusters v

/-- Flat clusters named by a mask. -/
def maskList (n mask : Nat) : List Nat := (List.range n).filter (bitAt mask ·)

end Sys2Proof.Machine
end

