-- ==== Sys2Proof/Machine/Ops.lean ====
section
/-!
DEFINITION. The named operations that commands share: registers and queues, accounting, events, completion and the start
of a command (chapter *Host interface and queues*), near-memory allocation and handles (chapter *Memory tiers and tensors*),
and the reads and writes of device and host memory.
-/
namespace Sys2Proof.Machine

open Sys2Proof

/-! ### Lookups -/

/-- A queue block; one that nothing has written stands at its After reset values. -/
def State.queue (s : State) (q : QId) : Queue := (alookup q s.host.queues).getD Queue.reset

def State.setQueue (s : State) (q : QId) (v : Queue) : State :=
  { s with host := { s.host with queues := ainsert q v s.host.queues } }

def State.updQueue (s : State) (q : QId) (f : Queue → Queue) : State := s.setQueue q (f (s.queue q))

/-- The outstanding command of a name. -/
def State.outst? (s : State) (id : CmdId) : Option Outst := s.host.outst.find? (fun o => o.id = id)

/-- Change the outstanding command of a name. -/
def State.updOutst (s : State) (id : CmdId) (f : Outst → Outst) : State :=
  { s with host := { s.host with outst := mapIf (fun o => o.id = id) f s.host.outst } }

/-- Partition and context of an I/O queue (R392). -/
def qPart : QId → Option Nat
  | .admin _ => none
  | .io q => some (q / 16)

def qCtx : QId → Nat
  | .admin _ => 0
  | .io q => q % 16

/-- A context of a partition. -/
def State.ctx? (s : State) (p c : Nat) : Option Ctx := s.ctxs.find? (fun x => x.part = p && x.num = c)

def State.updCtx (s : State) (p c : Nat) (f : Ctx → Ctx) : State :=
  { s with ctxs := mapIf (fun x => x.part = p && x.num = c) f s.ctxs }

/-- The partition entry in force (R28). -/
def State.entry (s : State) (p : Nat) : PEntry := s.cfg.inForce.parts.getD p {}

/-- Whether a partition's entry in force is valid. -/
def State.hasPart (s : State) (p : Nat) : Bool := decide (p < 8) && (s.entry p).valid == 1

/-- Run-time side of a partition whose entry has just become valid. -/
def PartRt.new : PartRt :=
  { holder := none, lastHolder := 15, sliceStart := 0, sliceLen := 0, overrun := false, thermalPoint := 3, clockPoint := 3
    regs := [], acct := Acct.zero }

def State.partRt (s : State) (p : Nat) : PartRt := (alookup p s.parts).getD PartRt.new

/-- The operating point at which a partition's engines run: never above the one in force (R599). -/
def State.enginePoint (s : State) (p : Nat) : Nat := min (s.partRt p).clockPoint s.power.opp

/-- The engine clock of a partition's clusters in MHz (R599). -/
def State.coreMhz (s : State) (part : Nat) : Nat := [1000, 1400, 1800, 2200].getD (s.enginePoint part) 2200

def State.updPart (s : State) (p : Nat) (f : PartRt → PartRt) : State :=
  { s with parts := ainsert p (f (s.partRt p)) s.parts }

def State.core (s : State) (c : Nat) : Core :=
  (alookup c s.cores).getD
    { active := [], shadow := [], loaded := [false, false], acc := [], colSums := [], sregs := [], rngSeed := 0, rng := [] }

def State.setCore (s : State) (c : Nat) (v : Core) : State := { s with cores := ainsert c v s.cores }

/-- The stored record: the newer of the two copies that pass (R38), else the factory defaults. -/
def State.stored (s : State) : Rec :=
  match s.cfg.recA, s.cfg.recB with
  | some a, some b => if seqLt a.generation b.generation then b else a
  | some a, none => a
  | none, some b => b
  | none, none => factoryRec s.variant

/-- Whether the partition entries of the stored record wait for a package reset (R31). -/
def State.layoutPending (s : State) : Bool := s.stored.isolation != s.cfg.inForce.isolation

/-- CONFIG_PENDING (R29): a reset-effective field of the stored record differs from the one in force. -/
def State.configPending (s : State) : Bool :=
  s.layoutPending || s.stored.fabricModes != s.cfg.inForce.fabricModes || s.stored.holdupEnergy != s.cfg.inForce.holdupEnergy
    || s.stored.defaultOpp != s.cfg.inForce.defaultOpp || s.stored.cflWaitBoot != s.cfg.inForce.cflWaitBoot

/-- The effective dirty ceiling in MiB (R369). -/
def State.ceilingMiB (s : State) : Nat :=
  min s.stored.dirtyCeiling (largestCovered s.variant (min s.cfg.inForce.holdupEnergy s.stored.holdupEnergy))

/-- Whether a slot counts as dirty: committed, not yet programmed and verified (R328). -/
def Slot.counts (x : Slot) : Bool := x.seq.isSome && !x.verified

/-- Dirty data in 16 KiB pieces: committed slots not yet on NAND, dirty tensor pages and dirty pages of index tables (R181, R251). -/
def State.dirtyPieces (s : State) : Nat :=
  (s.flash.slots.filter Slot.counts).length + (s.tensors.map (fun t => t.dirty.length)).sum + (s.indexes.map (fun x => x.dirty.length)).sum

/-- The effective dirty ceiling in 16 KiB pieces, by the share of compute dies in service (R369, R627). -/
def State.ceilingPieces (s : State) : Nat := 64 * s.ceilingMiB * s.power.diesInService.length / Variant.dies s.variant

/-! ### Management events and I3C (R640, R641) -/

/-- Whether the device posts nothing and raises no interrupt: the power-loss sequence or a drain has begun (R362, R363). -/
def State.silent (s : State) : Bool := s.power.flushing || s.power.draining || s.power.flushed

/-- An event enters the management queue: 32 in arrival order, further ones set LOST (R640); an interrupt tells of it, but not after PLP_N has fallen
(R363). -/
def State.mgmtPush (s : State) (w d : Nat) : State :=
  if s.mgmt.events.length < 32 then
    { s with mgmt := { s.mgmt with events := s.mgmt.events ++ [(w, d)] }
             out := if s.mgmt.i3c && !s.silent then s.out ++ [.i3cInterrupt] else s.out }
  else { s with mgmt := { s.mgmt with lost := true } }

/-! ### Completion entries and interrupts -/

/-- Vectors in a function's MSI-X table (R476). -/
def fnVectors : Fn → Nat
  | .pf _ => 1024
  | .vf .. => 64

def fnPort : Fn → Nat
  | .pf p => p
  | .vf p _ => p

/-- Bytes of the MSI-X table that read non-zero until software writes them: a vector starts masked. -/
def msixDefault (a : Nat) : Byte := if a % 16 = 12 then 1#8 else 0#8

/-- A byte of a function's MSI-X table. -/
def State.msixByte (s : State) (f : Fn) (a : Nat) : Byte :=
  Mem.read 0 ((alookup f s.host.msixTable).getD []) a ^^^ msixDefault a

/-- The address and data words of a vector. -/
def State.msixMessage (s : State) (f : Fn) (v : Nat) : Bytes := (List.range 12).map (fun i => s.msixByte f (16 * v + i))

/-- A message for a vector: sent, or left pending in the PBA while the vector is masked. -/
def State.fireVector (s : State) (f : Fn) (v : Nat) : State :=
  if s.silent then s
  else if (s.msixByte f (16 * v + 12)).getLsbD 0 then { s with host := { s.host with msixPba := addOnce (f, v) s.host.msixPba } }
  else { s with out := s.out ++ [.msix f v (s.msixMessage f v)] }

/-- Sends the queue's message and takes every written entry as reported (R505, R506). -/
def State.sendIrq (s : State) (q : QId) : State :=
  let qu := s.queue q
  match qu.owner with
  | none => s
  | some f => (s.setQueue q { qu with unreported := 0 }).fireVector f qu.vector

/-- Whether the queue's message is due at once: COUNT reached, or a DELAY of 0 µs (R506), while IRQ_EN is set (R505). -/
def Queue.irqDue (qu : Queue) : Bool :=
  qu.enabled && !qu.orphaned && qu.irqEn && decide (0 < qu.unreported) &&
    (decide (max 1 qu.count ≤ qu.unreported) || qu.delay == 0)

def State.irqCheck (s : State) (q : QId) : State := if (s.queue q).irqDue then s.sendIrq q else s

/-- The 32 bytes of a completion entry (R499). -/
def Cpl.bytes (c : Cpl) (sqHead : Nat) (phase : Bool) : Bytes :=
  let flags := (if c.repeated then 1 else 0) + (if c.held then 2 else 0) + (if c.event then 4 else 0) + (if c.takenOver then 8 else 0)
  leBytes 1 (c.tag % 32) ++ leBytes 1 flags ++ leBytes 2 c.status.code ++ leBytes 4 c.resultLen ++ leBytes 4 c.handle
    ++ leBytes 1 sqHead ++ [0] ++ leBytes 2 (capAt 0xFFFF c.detail) ++ leBytes 8 c.engineNs
    ++ leBytes 4 (capAt 0xFFFFFFFF c.energyMj) ++ leBytes 3 (capAt 0xFFFFFF c.movedMib) ++ leBytes 1 (if phase then 1 else 0)

/-- Writes a completion entry at CQ_TAIL in one 32-byte write, then looks at the queue's interrupt (R493, R499, R505, R506). -/
def State.writeCpl (s : State) (q : QId) (c : Cpl) : State :=
  let qu := s.queue q
  let bytes := c.bytes qu.sqHead qu.phase
  let s := { s with host := { s.host with mem := s.host.mem.writeN 0 (qu.cqBase + 32 * qu.cqTail) bytes } }
  let wrap := qu.cqTail + 1 == 32
  (s.setQueue q
    { qu with cqTail := (qu.cqTail + 1) % 32, phase := if wrap then !qu.phase else qu.phase
              unreported := if c.noIrq then qu.unreported else qu.unreported + 1 }).irqCheck q

/-- Whether the ORDERED rules let a command start (R502). -/
def Outst.orderOk (o : Outst) (all : List Outst) : Bool :=
  all.all (fun x => !(x.id.queue = o.id.queue && decide (x.serial < o.serial) && x.phase != .posted && (o.ordered || x.ordered)))

/-- Whether a command's dependencies and ordering are met (R502, R503). -/
def Outst.ready (o : Outst) (all : List Outst) : Bool := o.deps.isEmpty && o.depFailed.isNone && o.orderOk all

/-- The number of the next place in the order of becoming ready (R396). -/
def readyNext (all : List Outst) : Nat := (all.map (·.readySeq)).foldl max 0 + 1

/-- Stamps the time at which waiting commands have just become ready, and their place in that order (R396, R397). -/
def stampReady (now : Nat) (old new : List Outst) : List Outst :=
  new.map (fun o => if o.phase = .waiting && o.ready new && !o.ready old then { o with readyAt := now, readySeq := readyNext old } else o)

/-- What completion of command `serial` does to the dependencies of its queue's commands (R503, R504). -/
def Outst.depDone (q : QId) (serial tag : Nat) (success : Bool) (x : Outst) : Outst :=
  if x.id.queue = q && x.deps.any (fun d => d.1 = serial) then
    { x with deps := x.deps.filter (fun d => d.1 ≠ serial)
             depFailed := if success then x.depFailed else (match x.depFailed with | some t => some t | none => some tag) }
  else x

/-- Whether a command's completion and result are discarded (R519). -/
def State.isDiscarded (s : State) (id : CmdId) : Bool := ((s.outst? id).map (·.discarded)).getD false

/-- Posts the completion of a command: written, held while ORPHANED, or discarded with an orphaned admin queue (R517, R519). -/
def State.post (s : State) (o : Outst) (c : Cpl) : State :=
  let q := o.id.queue
  let qu := s.queue q
  let drop := s.isDiscarded o.id
  let upd := s.host.outst.map (fun x =>
    if x.id = o.id then { x with phase := .posted, cplIndex := qu.cqTail, failed := !c.status.success } else x.depDone q o.serial o.id.tag c.status.success)
  let s := { s with host := { s.host with outst := stampReady s.now s.host.outst upd } }
  if drop then { s with host := { s.host with outst := s.host.outst.filter (fun x => x.id ≠ o.id) } }
  else if qu.orphaned then
    match q with
    | .io _ => s.setQueue q { qu with heldCpls := qu.heldCpls ++ [c] }
    | .admin _ => s
  else s.writeCpl q c

/-! ### Events (R507 to R509) -/

/-- The scope of an event (R508). -/
inductive Scope where
  | device
  | part (p : Nat)
  | ctx (p c : Nat)
  deriving DecidableEq, Repr

/-- The event word (*Event word* table, R507). -/
def eventWord (code : Nat) (sc : Scope) (src : Nat) : Nat :=
  let (p, c) := match sc with
    | .device => (15, 0)
    | .part p => (p, 0)
    | .ctx p c => (p, c)
  code * 2 ^ 20 + p % 16 * 2 ^ 16 + c % 16 * 2 ^ 12 + src % 4096

/-- Delivers an event to one queue: to its oldest outstanding EVENT_WAIT, else into the queue's 16 places (R507, R508). -/
def State.deliver (s : State) (w d : Nat) (q : QId) : State :=
  let qu := s.queue q
  if !qu.enabled || s.silent then s
  else
    match s.host.outst.find? (fun o => o.id.queue = q && o.phase = .running && o.cmd = .eventWait o.id) with
    | some o =>
      s.post o { tag := o.id.tag, repeated := false, held := false, event := true, takenOver := false, status := .ok
                 resultLen := 0, handle := w, detail := d, engineNs := o.engineNs, energyMj := o.energyMj, movedMib := 0, noIrq := o.noIrq }
    | none =>
      if qu.events.length < 16 then s.setQueue q { qu with events := qu.events ++ [(w, d)] }
      else s.setQueue q { qu with eventLost := true }

/-- The queues that an event of a scope reaches (R508): every enabled admin queue, and the I/O queues of its contexts. -/
def State.eventQueues (s : State) (sc : Scope) : List QId :=
  [.admin 0, .admin 1] ++
    match sc with
    | .device => []
    | .part p => (s.ctxs.filter (fun x => x.part = p)).map (fun x => .io (16 * p + x.num))
    | .ctx p c => [.io (16 * p + c)]

/-- Raises an event (R508, R509), also in the management queue where R640 says so. -/
def State.raise (s : State) (code src detail : Nat) (sc : Scope) : State :=
  let w := eventWord code sc src
  let s := if sc = .device || code == 9 || code == 12 then s.mgmtPush w detail else s
  (s.eventQueues sc).foldl (fun s q => s.deliver w detail q) s

/-! ### Accounting (R413 to R418) -/

/-- The largest 64-bit value: where counters stick (R418). -/
def max64 : Nat := 2 ^ 64 - 1

/-- Adds to counter `i`; the flag tells that this increment saturated it (R418). -/
def Acct.add (a : Acct) (i n : Nat) : Acct × Bool :=
  let v := a.counters.getD i 0 + n
  if v ≤ max64 then ({ a with counters := setAt i v a.counters }, false)
  else ({ counters := setAt i max64 a.counters, saturated := a.saturated ||| 2 ^ i }, !bitAt a.saturated i)

/-- Charges a partition counter (R413). -/
def State.chargePart (s : State) (p i n : Nat) : State :=
  let (a, hit) := (s.partRt p).acct.add i n
  let s := s.updPart p (fun r => { r with acct := a })
  if hit then s.raise 6 (0x40 + i) 0 (.part p) else s

/-- Charges the device account (R416). -/
def State.chargeDevice (s : State) (i n : Nat) : State :=
  let (a, hit) := s.device.add i n
  let s := { s with device := a }
  if hit then s.raise 6 (0x80 + i) 0 .device else s

/-- Charges a context's counter and at the same moment its partition's (R413); a partition that is gone has no counters (R385). -/
def State.charge (s : State) (p c i n : Nat) : State :=
  if !s.hasPart p then s.chargeDevice i n
  else
    match s.ctx? p c with
    | none => s.chargePart p i n
    | some x =>
      let (a, hit) := x.acct.add i n
      let s := s.updCtx p c (fun x => { x with acct := a })
      let s := if hit then s.raise 6 i 0 (.ctx p c) else s
      s.chargePart p i n

/-- Notes a charge of a command: it reaches the accounts when the command or its run ends (R414, R417). -/
def State.chargeCmd (s : State) (id : CmdId) (i n : Nat) : State :=
  s.updOutst id (fun o => { o with charges := ainsert i ((alookup i o.charges).getD 0 + n) o.charges })

/-- Notes bytes that a command moves, for its accounts and for its own total (R413, R499). -/
def State.chargeBytes (s : State) (id : CmdId) (i n : Nat) : State :=
  (s.updOutst id (fun o => { o with movedBytes := o.movedBytes + n })).chargeCmd id i n

/-- Charges what a queue's rings move to its context (R413): an entry read, an entry written and a message count for BYTES_HOST, but not for the command
(log entry 13). -/
def State.chargeQueue (s : State) (q : QId) (i n : Nat) : State :=
  match qPart q with
  | some p => s.charge p (qCtx q) i n
  | none => s

/-- Bytes of the interrupt messages sent since `before`. -/
def State.messageBytes (s before : State) : Nat :=
  4 * ((s.out.drop before.out.length).filter (fun (e : Out) => match e with
    | .msix .. => true
    | _ => false)).length

/-- Charges a completion entry and the message that went out with it since `before`, unless the entry is discarded (R413, R519). -/
def State.chargeEntry (s before : State) (id : CmdId) : State :=
  if before.isDiscarded id then s else s.chargeQueue id.queue 17 (32 + s.messageBytes before)

/-- Adds a command's charges to its context and partition, all together (R413, R414, R417). -/
def State.flushCharges (s : State) (id : CmdId) : State :=
  match s.outst? id, qPart id.queue with
  | some o, some p =>
    (o.charges.foldl (fun s c => s.charge p (qCtx id.queue) c.1 c.2) s).updOutst id (fun o => { o with charges := [] })
  | _, _ => s

/-- Tier of a store in the health log (R630). -/
def Store.tier : Store → Nat
  | .tidepool => 0
  | .accumulator => 1
  | .dieCache => 2
  | .path => 3
  | .nearMemory => 4
  | .flash => 5

/-- Classes of R241 by their number in ERRORS. -/
def clsCorrected : Nat := 0
def clsRecovered : Nat := 1
def clsPoisoned : Nat := 2
def clsConsumed : Nat := 3
def clsRemapped : Nat := 4
def clsRetired : Nat := 5
def clsChecker : Nat := 6

/-- Adds to the health-log count of a store (tier `t`) and class, raising event 0x001
for every class but CORRECTED and, at saturation, event 0x006 (R241, R635). -/
def State.integrity (s : State) (t c : Nat) : State :=
  let i := t * 7 + c
  let v := s.health.log.errors.getD i 0
  let s :=
    if v < 0xFFFFFFFF then
      { s with health := { s.health with log := { s.health.log with errors := setAt i (v + 1) s.health.log.errors } } }
    else if bitAt s.health.log.errSaturated i then s
    else
      { s with health := { s.health with log := { s.health.log with errSaturated := s.health.log.errSaturated ||| 2 ^ i } } }.raise 6
        (0x100 + i) 0 .device
  if c = 0 then s else s.raise 1 t c .device

/-! ### Near memory: reservation and allocation -/

def nmBase : Nat := 0x010000000000

def nmWindow : Nat := 0x4000000000

/-- Populated bytes of a die's window (R149). -/
def nmPopulated : Nat := 0x2400000000

/-- The die of a near-memory address (R157). -/
def nmDie (addr : Nat) : Nat := (addr - nmBase) / nmWindow

/-- Stack, stack address and pseudo-channel of a near-memory address (R157). -/
def nmLocate (addr : Nat) : Nat × Nat × Nat :=
  let off := (addr - nmBase) % nmWindow
  let g := off / 256
  let row := g / 3
  let loc := (g + g / 24 + g / 3072) % 3
  (nmDie addr * 3 + loc, row * 256 + off % 256, row % 64)

/-- Powered tidepool banks of an entry. -/
def PEntry.banks (e : PEntry) : Nat := popCount 16 e.tpBankMask

/-- Tidepool bytes per core of an entry (R151). -/
def PEntry.tpBytes (e : PEntry) : Nat := e.banks * 0x60000

/-- Map units of raw flash on a channel group in use. -/
def FlashSt.rawUnits (f : FlashSt) (g : Nat) : Nat :=
  if f.groupState.getD g 0 = 1 then
    match f.fits[g]?, alookup g f.profile with
    | some fit, some pr => 16 * fit.luns * pr.blocks * pr.ppb
    | _, _ => 0
  else 0

/-- Bytes of map segments that a die has taken over from dies out of service (R326). -/
def movedMap (v : Variant) (f : FlashSt) (up : List Nat) (die : Nat) : Nat :=
  let n := Variant.dies v
  if (List.range n).all (fun d => up.contains d) then 0
  else
    let takes (d : Nat) : Bool := !up.contains d && ((List.range n).map (fun i => (d + i) % n)).find? (fun x => up.contains x) == some die
    5 * 2 ^ 20 * (f.ns.map (fun x => ((List.range (ceilDiv (ceilDiv x.capacity 4) (2 ^ 20))).filter (fun k => takes (k % n))).length)).sum

/-- The flash store with the map segments of every die out of service counted anew (R159, R326). -/
def State.newMap (s : State) : FlashSt :=
  let l := (List.range (Variant.dies s.variant)).map (movedMap s.variant s.flash s.power.diesInService)
  { s.flash with moved := if l.all (· == 0) then [] else l }

/-- Computes the reservation again, at a package reset and where partition entries take effect (R159). -/
def State.computeMoved (s : State) : State := { s with flash := s.newMap }

/-- The firmware reservation of a die in bytes under a partition layout (R158, R326), rounded up to a whole GiB. -/
def reservation (v : Variant) (f : FlashSt) (parts : List PEntry) (die : Nat) : Nat :=
  let fd := die / 2
  let mapB := 5 * (f.rawUnits (2 * fd) + f.rawUnits (2 * fd + 1)) / 2 + f.moved.getD die 0
  let saveB := (parts.map (fun e => if e.valid = 1 then 8 * popCount 4 (bits e.clusterMask (4 * die) 4) * e.tpBytes * e.ctxMax else 0)).sum
  let total := mapB + 256 * 2 ^ 20 + 4096 * 2 ^ 20 + 64 * 2 ^ 20 * 96 / Variant.dies v + saveB + 512 * 2 ^ 20
  ceilDiv total (2 ^ 30) * 2 ^ 30

/-- Near memory of a die outside the reservation in force. -/
def State.nmLimit (s : State) (die : Nat) : Nat :=
  nmPopulated - reservation s.variant s.flash s.cfg.inForce.parts die

/-- The 64 KiB units of a die that R235 withholds, each once. -/
def State.withheldUnits (s : State) (die : Nat) : List Nat := ((s.integ.withheld.map Prod.fst).filter (fun a => nmDie a = die)).eraseDups

/-- Bytes that R235 withholds on a die. -/
def State.withheldOn (s : State) (die : Nat) : Nat := (s.withheldUnits die).length * 65536

/-- Whether a unit lies in a live allocation or in the firmware reservation: it is no part of what is left for allocation anyway. -/
def State.unitTaken (s : State) (die a : Nat) : Bool :=
  decide (s.nmLimit die ≤ (a - nmBase) % nmWindow) || s.allocs.any (fun x => decide (x.base ≤ a) && decide (a < x.base + x.size))

/-- Bytes allocated on a die. -/
def State.allocatedOn (s : State) (die : Nat) : Nat :=
  ((s.allocs.filter (fun a => nmDie a.base = die)).map (·.size)).sum

/-- Free near memory of a die (R160, R235, R538): what lies outside the reservation, every allocation and every withheld unit. -/
def State.nmFree (s : State) (die : Nat) : Nat :=
  s.nmLimit die - s.allocatedOn die - ((s.withheldUnits die).filter (fun a => !s.unitTaken die a)).length * 65536

/-- Whether a range meets an allocation or a withheld piece. -/
def State.overlaps (s : State) (base size : Nat) : Bool :=
  s.allocs.any (fun a => decide (a.base < base + size) && decide (base < a.base + a.size)) ||
    s.integ.withheld.any (fun a => decide (a.1 < base + size) && decide (base < a.1 + 65536))

/-- The lowest free place for `size` bytes on a die: the window's start or just after an allocation (R161). -/
def State.placeOn (s : State) (die size : Nat) : Option Nat :=
  let lo := nmBase + die * nmWindow
  let hi := lo + s.nmLimit die
  let cands := lo :: (s.allocs.map (fun a => a.base + a.size) ++ s.integ.withheld.map (fun a => a.1 + 65536))
  leastBy (fun a b => decide (a < b))
    (cands.filter (fun b => decide (lo ≤ b) && decide (b + size ≤ hi) && !s.overlaps b size))

/-- Dies that hold a cluster of a partition. -/
def State.partDies (s : State) (p : Nat) : List Nat :=
  (List.range (Variant.dies s.variant)).filter (fun d => bits (s.entry p).clusterMask (4 * d) 4 ≠ 0)

/-- Whether a die is in service. -/
def State.dieUp (s : State) (d : Nat) : Bool := decide (d ∈ s.power.diesInService)

/-- Bytes of near memory that a partition may hold (R162): no bound of its own under FENCED. -/
def State.quotaOk (s : State) (p size : Nat) : Bool :=
  if s.cfg.inForce.isolation = 1 then true
  else decide (((s.allocs.filter (fun a => a.part = p)).map (·.size)).sum + size ≤ (s.entry p).nmQuota * 2 ^ 30)

/-- Dies in the order AUTO considers them (R161): most free near memory first, lower number on a tie. -/
def State.autoOrder (s : State) (ds : List Nat) : List Nat :=
  sortBy (fun a b => decide (s.nmFree b < s.nmFree a)) ds

/-- Allocates near memory for a partition (R161, R162): `home` is a die, or 0xFF for AUTO. -/
def State.alloc (s : State) (p home bytes : Nat) : Option (State × Nat) :=
  let size := ceilDiv (max bytes 1) 65536 * 65536
  let own := (s.partDies p).filter s.dieUp
  let others := ((List.range (Variant.dies s.variant)).filter (fun d => s.dieUp d && d ∉ own))
  let fenced := s.cfg.inForce.isolation = 1
  let cands :=
    if home = 0xFF then s.autoOrder own ++ (if fenced then [] else s.autoOrder others)
    else if fenced && home ∉ own then [] else [home]
  if !s.quotaOk p size then none
  else
    match cands.findSome? (fun d => s.placeOn d size) with
    | none => none
    | some b => some ({ s with allocs := s.allocs ++ [{ base := b, size := size, part := p }] }, b)

/-- Frees the allocation at a base. -/
def State.free (s : State) (base : Nat) : State := { s with allocs := s.allocs.filter (fun a => a.base ≠ base) }

/-- Near-memory bases that a descriptor holds: its five parts, then its dirty bitmap. -/
def Desc.bases (d : Desc) : List Nat := [d.base, d.expBase, d.scaleBase, d.sumsBase, d.statsBase, d.dirtyMap]

/-- Every allocation that something still names: tensors, bound generations and shadows, programs, indexes, results, accords. -/
def State.liveBases (s : State) : List Nat :=
  s.tensors.flatMap (fun t => t.desc.bases) ++
    s.bindings.flatMap (fun b => b.inputs.flatMap Desc.bases ++ b.shadows.flatMap (·.bases)) ++
    s.progs.map (·.alloc) ++ s.indexes.flatMap (·.allocs) ++ s.host.held.map (·.room) ++
    s.accords.flatMap (fun a => a.working.flatMap (fun w => w.2.bases))

/-- Frees every allocation that nothing names any more (R177). -/
def State.sweep (s : State) : State :=
  let live := s.liveBases
  { s with allocs := s.allocs.filter (fun a => a.base ∈ live) }

/-! ### Handles (R169) -/

def handleOf (p reuse slot : Nat) : Nat := p % 8 * 2 ^ 29 + reuse % 32 * 2 ^ 24 + slot % 2 ^ 24

def handlePart (h : Nat) : Nat := h / 2 ^ 29 % 8

def handleSlot (h : Nat) : Nat := h % 2 ^ 24

def nullHandle : Nat := 0xFFFFFFFF

/-- Every handle that names something. -/
def State.liveHandles (s : State) : List Nat :=
  s.tensors.map (·.desc.handle) ++ s.progs.map (·.handle) ++ s.models.map (·.handle) ++ s.accords.map (·.handle) ++
    s.sems.map (·.handle) ++ s.fabric.rings.map (·.handle) ++ s.host.held.map (·.handle)

/-- A new handle of a partition: the lowest slot that no live handle of the partition uses, with its reuse count; slot 0xFF_FFFF is never
allocated (R169). -/
def State.newHandle (s : State) (p : Nat) : State × Nat :=
  let used := (s.liveHandles.filter (fun h => handlePart h = p)).map handleSlot
  let slot := (firstBelow (used.length + 2) (fun i => decide (i ∉ used) && i != 0xFFFFFF)).getD 0
  let key := p * 2 ^ 24 + slot
  let n := (alookup key s.reuse).getD 0
  ({ s with reuse := ainsert key (n + 1) s.reuse }, handleOf p n slot)

/-! ### Device and host memory -/

/-- The byte store behind a device address: tidepool and near memory share one address map (R149). -/
def State.rd (s : State) (addr n : Nat) : Bytes := s.mem.readN 0 addr n

def State.wr (s : State) (addr : Nat) (bs : Bytes) : State := { s with mem := s.mem.writeN 0 addr bs }

/-- Host memory as the device reads it by DMA. -/
def State.hostRd (s : State) (addr n : Nat) : Bytes := s.host.mem.readN 0 addr n

def State.hostWr (s : State) (addr : Nat) (bs : Bytes) : State :=
  { s with host := { s.host with mem := s.host.mem.writeN 0 addr bs } }

/-- Whether a host read meets an error or a poisoned TLP (R226). -/
def State.hostBad (s : State) (addr n : Nat) : Bool := s.host.memBad.any (fun a => decide (addr ≤ a) && decide (a < addr + n))

def tpBase (core : Nat) : Nat := core * 0x800000

/-! ### Marks of the stores -/

/-- A store's marks that a write of `n` bytes covers whole are cleared (R221); latent errors go with them (R218). -/
def coveredBy (addr n : Nat) (k : Store × Nat) : Bool :=
  match k.1 with
  | .tidepool => decide (addr ≤ k.2) && decide (k.2 + 8 ≤ addr + n)
  | .nearMemory => decide (addr ≤ k.2) && decide (k.2 + 32 ≤ addr + n)
  | .dieCache => decide (addr ≤ k.2) && decide (k.2 + 8 ≤ addr + n)
  | _ => false

/-- Whether a write touches a marked place. -/
def touchedBy (addr n : Nat) (k : Store × Nat) : Bool :=
  match k.1 with
  | .tidepool => decide (addr < k.2 + 8) && decide (k.2 < addr + n)
  | .nearMemory => decide (addr < k.2 + 32) && decide (k.2 < addr + n)
  | .dieCache => decide (addr < k.2 + 8) && decide (k.2 < addr + n)
  | _ => false

/-- What an armed ERR_INJECT leaves at the next write of its location (R242): kind 0 a single error, 1 a double error, 2 a mark. -/
def IntegSt.inject (g : IntegSt) (addr n : Nat) : IntegSt :=
  let hit := g.armed.filter (fun a => touchedBy addr n (a.1, a.2.1))
  let key (a : Store × Nat × Nat) : Store × Nat := (a.1, a.2.1)
  { g with
    armed := g.armed.filter (fun a => !touchedBy addr n (a.1, a.2.1))
    weak := g.weak ++ (hit.filter (fun a => a.2.2 = 0)).map key
    bad := g.bad ++ (hit.filter (fun a => a.2.2 = 1)).map key
    poison := g.poison ++ (hit.filter (fun a => a.2.2 = 2)).map key
    injected := g.injected ++ hit.map key }

/-- The marks after a write of a range (R218, R221, R229, R242). -/
def IntegSt.wrote (g : IntegSt) (addr n : Nat) : IntegSt :=
  IntegSt.inject
    { g with
      poison := g.poison.filter (fun k => !coveredBy addr n k)
      weak := g.weak.filter (fun k => !coveredBy addr n k)
      bad := g.bad.filter (fun k => !coveredBy addr n k)
      injected := g.injected.filter (fun k => !coveredBy addr n k)
      counted := g.counted.filter (fun k => !touchedBy addr n k) } addr n

/-- The marks after accumulator elements of a core have been written, by row × 128 + column: each 64-bit word holds two (R217, R221, R229). -/
def IntegSt.wroteAcc (g : IntegSt) (core : Nat) (els : List Nat) : IntegSt :=
  let has (k : Store × Nat) (i : Nat) : Bool := k.1 = .accumulator && decide (k.2 / 2 ^ 20 = core) && els.contains (k.2 % 2 ^ 20 / 4 + i)
  let left (k : Store × Nat) : Bool := !(has k 0 && has k 1)
  { g with poison := g.poison.filter left, weak := g.weak.filter left, bad := g.bad.filter left, injected := g.injected.filter left
           counted := g.counted.filter (fun k => !(has k 0 || has k 1)) }

/-- Marks that armed ERR_INJECTs store with a write of a range (R241, R242). -/
def IntegSt.armedMarks (g : IntegSt) (addr n : Nat) : List (Store × Nat) :=
  (g.armed.filter (fun a => touchedBy addr n (a.1, a.2.1) && a.2.2 == 2)).map (fun a => (a.1, a.2.1))

/-- Counts marks that have been written (POISONED, R241). -/
def State.noteMarks (s : State) (ks : List (Store × Nat)) : State := ks.foldl (fun s k => s.integrity (Store.tier k.1) clsPoisoned) s

/-- A free value from the model's counter (Config.freeWord). -/
def State.freeNat (s : State) : State × Nat := ({ s with freeCount := s.freeCount + 1 }, (Config.freeWord s.freeCount).toNat)

/-! ### Starting and completing a command -/

/-- A failed check: the status, its DETAIL, and failure bytes where R530 gives some. -/
structure Fail where
  status : Status
  detail : Nat
  bytes : Bytes := []
  /-- What stays of the work done before the check: staging and its findings (R172, R178). -/
  keep : Option State := none
  deriving DecidableEq, Repr

abbrev Chk := Except Fail

def failWith {α : Type} (st : Status) (detail : Nat) : Chk α := .error { status := st, detail := detail }

/-- A failure that leaves the staging done so far in place (R172: staging is not undone). -/
def failKeep {α : Type} (s : State) (st : Status) (detail : Nat) : Chk α := .error { status := st, detail := detail, keep := some s }

/-- One check of R529: fails with a status and DETAIL unless `c` holds. -/
def need (c : Bool) (st : Status) (detail : Nat) : Chk Unit := if c then .ok () else failWith st detail

/-- A field outside its range (PARAM_INVALID): DETAIL is its packet offset. -/
def inRange (c : Bool) (off : Nat) : Chk Unit := need c .paramInvalid off

/-- IBUF_LEN at least the bytes read (R526). -/
def needIbuf (o : Outst) (n : Nat) : Chk Unit := need (decide (n ≤ o.ibufLen)) .rangeExceeded 0x28

/-- RBUF_LEN at least the result length (R526); a held result needs no buffer (R525). -/
def needRbuf (o : Outst) (n : Nat) : Chk Unit := need (o.hold || decide (n ≤ o.rbufLen)) .rangeExceeded 0x38

/-- Reads an input buffer; a poisoned TLP fails the command (R226). -/
def State.ibuf (s : State) (o : Outst) (n : Nat) : Chk Bytes :=
  if s.hostBad o.ibuf n then failWith .dataPoisoned 0 else .ok (s.hostRd o.ibuf n)

/-- Reads an input buffer and charges its bytes (R413, R526). -/
def State.takeIbuf (s : State) (o : Outst) (n : Nat) : Chk (State × Bytes) := do
  let bs ← s.ibuf o n
  .ok (s.chargeBytes o.id 16 n, bs)

/-- How a started command stands: completed, running until its row's event or COMMAND_COMMIT (`room` is the result length),
or not yet able to start, because a resource that it waits for is not free (R395). -/
inductive Done where
  | now (st : Status) (detail : Nat) (bytes : Bytes)
  | runs (room : Nat)
  | waits
  deriving DecidableEq, Repr

/-- Room for a held result in the partition's near memory (R512): none when there is none. -/
def State.reserveRoom (s : State) (id : CmdId) (n : Nat) : Option (State × Nat) :=
  match (qPart id.queue) with
  | none => some (s, 0)
  | some p => if n = 0 then some (s, 0) else s.alloc p 0xFF n

/-- Adds a held result for a command (R512). -/
def State.addHeld (s : State) (o : Outst) (n : Nat) : Option State :=
  match s.reserveRoom o.id n with
  | none => none
  | some (s, room) =>
    let (s, h) := s.newHandle ((qPart o.id.queue).getD 0)
    some { s with host := { s.host with
      held := s.host.held ++ [{ handle := h, id := o.id, serial := o.serial, bytes := [], isDone := false, readBefore := false
                                part := (qPart o.id.queue).getD 0, room := room }] } }

/-- The held result reserved for a command. -/
def State.heldOf (s : State) (serial : Nat) : Option Held := s.host.held.find? (fun h => h.serial = serial)

/-- The room that a HOLD_RESULT command needs, unless an earlier run of it has it already (R210, R512). -/
def State.holdRoom (s : State) (o : Outst) (n : Nat) : Option State := if o.hold && (s.heldOf o.serial).isNone then s.addHeld o n else some s

/-- Puts result bytes into the held result of a command, in its room (R512). -/
def State.fillHeld (s : State) (serial : Nat) (bs : Bytes) : State :=
  let room := ((s.heldOf serial).map (·.room)).getD 0
  let s := if room = 0 then s else { (s.wr room bs) with integ := s.integ.wrote room bs.length }.noteMarks (s.integ.armedMarks room bs.length)
  { s with host := { s.host with held := mapIf (fun h => h.serial = serial) (fun h => { h with bytes := bs, isDone := true }) s.host.held } }

/-- Where a result goes (R510, R512, R517): the host buffer, a held result, or nowhere. Answers its length and handle. -/
def State.placeResult (s : State) (o : Outst) (bs : Bytes) : State × Nat × Option Nat :=
  let orphan := (s.queue o.id.queue).orphaned
  if bs.isEmpty || s.isDiscarded o.id then
    -- a reservation of R512 that no result fills is given back
    ({ s with host := { s.host with held := s.host.held.filter (fun h => h.serial ≠ o.serial) } }, 0, none)
  else if o.hold || orphan then
    match s.heldOf o.serial with
    | some h => (s.fillHeld o.serial bs, bs.length, some h.handle)
    | none =>
      if orphan && (qPart o.id.queue).isNone then (s, 0, none)
      else
        match s.addHeld o bs.length with
        | some s' => (s'.fillHeld o.serial bs, bs.length, (s'.heldOf o.serial).map (·.handle))
        | none => (s, 0, none)
  else (s.hostWr o.rbuf bs, bs.length, none)

/-- A sliced command (R394). -/
def sliced : Instr → Bool
  | .progRun .. => true
  | .accordRun .. => true
  | _ => false

/-- The end of a command that has run on past its slice: the time since the slice end is the context's debt (R402). -/
def State.endOverrun (s : State) (o : Outst) : State :=
  match qPart o.id.queue with
  | none => s
  | some p =>
    let r := s.partRt p
    if sliced o.cmd && o.phase = .running && r.overrun && r.holder = some (qCtx o.id.queue) then
      let late := s.now - (r.sliceStart + r.sliceLen)
      (s.updCtx p (qCtx o.id.queue) (fun c => { c with debtUs := c.debtUs + late })).charge p (qCtx o.id.queue) 23 (1000 * late)
    else s

/-- The completion of one command: its result, then its entry, then its binding goes (R499, R510, R512, R517). -/
def State.finish1 (s : State) (o : Outst) (st : Status) (detail : Nat) (bs : Bytes) : State :=
  let s := s.endOverrun ((s.outst? o.id).getD o)
  let (s, len, h) := s.placeResult o bs
  let s := if 0 < len && h.isNone then s.chargeBytes o.id 17 len else s
  let now := (s.outst? o.id).getD o
  let before := s.flushCharges o.id
  let s := before.post o
    { tag := o.id.tag, repeated := now.again, held := h.isSome, event := false, takenOver := false, status := st, resultLen := len
      handle := h.getD nullHandle, detail := detail, engineNs := now.engineNs, energyMj := now.energyMj
      movedMib := ceilDiv now.movedBytes 1048576, noIrq := o.noIrq }
  let s := s.chargeEntry before o.id
  ({ s with bindings := s.bindings.filter (fun b => b.id ≠ o.id), invocations := s.invocations.filter (fun i => i.id ≠ o.id) }).sweep

/-- Completes every waiting command whose dependency has failed (R504), one after another. -/
def State.settle : Nat → State → State
  | 0, s => s
  | n + 1, s =>
    match s.host.outst.find? (fun o => o.phase = .waiting && o.depFailed.isSome) with
    | none => s
    | some o => State.settle n (s.finish1 o .dependencyFailed (o.depFailed.getD 0) [])

/-- Completes a command and, with it, every command that depended on it and can no longer start (R504). -/
def State.complete (s : State) (o : Outst) (st : Status) (detail : Nat) (bs : Bytes) : State :=
  State.settle 32 (s.finish1 o st detail bs)

/-- Completes the outstanding command of a name, if it has not been posted. -/
def State.completeId (s : State) (id : CmdId) (st : Status) (detail : Nat) (bs : Bytes) : State :=
  match s.outst? id with
  | none => s
  | some o => if o.phase = .posted then s else s.complete o st detail bs

/-- Completes the configuration commands that wait for dirty data to fall under the ceiling, at the moment when it has (R33). -/
def State.settleCeiling (s : State) : State :=
  if s.ceilingPieces < s.dirtyPieces then s
  else
    let ids := s.cfg.waitingCeiling
    let s := { s with cfg := { s.cfg with waitingCeiling := [] } }
    ids.foldl (fun s id => if id ∈ s.cfg.waitingCap then s else s.completeId id .ok 0 []) s

/-- A waiting command that may start: fetched, equal to `c`, its dependencies and ordering met (R502, R503). -/
def State.startable (s : State) (id : CmdId) (c : Instr) : Option Outst :=
  match s.outst? id with
  | none => none
  | some o => if o.cmd = c && o.phase = .waiting && o.ready s.host.outst then some o else none

/-- Marks a command as running. -/
def State.markRunning (s : State) (id : CmdId) : State := s.updOutst id (fun o => { o with phase := .running })

/-- Starts a waiting command (R529): its checks and effect are `body`; a failed check completes it with its status and
leaves everything else as it was, but for the staging that it has done. -/
def State.startCmd (s : State) (id : CmdId) (c : Instr) (body : State → Outst → Chk (State × Done)) : State :=
  match s.startable id c with
  | none => s
  | some o =>
    match body s o with
    | .error f => (match f.keep with
      | none => s.complete o f.status f.detail f.bytes
      | some k => k.completeId id f.status f.detail f.bytes)
    | .ok (_, .waits) => s
    | .ok (s', .now st det bs) =>
      match s'.holdRoom o bs.length with
      | none => s.complete o .resourceExhausted 0xFFFF []
      | some t => t.complete o st det bs
    | .ok (s', .runs room) =>
      match s'.holdRoom o room with
      | none => s.complete o .resourceExhausted 0xFFFF []
      | some t => t.markRunning id

/-- Whether a configuration-changing command is under way: the next one waits for it (R39). -/
def State.configBusy (s : State) : Bool :=
  s.cfl.lowerCmd.isSome || (s.cfl.lowering.isSome && s.sec.running.isSome) || s.sec.updating.isSome || !s.cfg.waitingCap.isEmpty || !s.cfg.waitingCeiling.isEmpty

/-- The commands that R39 orders. -/
def configCmd : Instr → Bool
  | .cfgWrite _ | .setOpp .. | .partCreate .. | .partModify .. | .partDestroy .. | .cflProtect .. | .romxUpdate _ | .attest .. => true
  | _ => false

/-- Whether no enabled queue has an entry that it has not fetched and whose doorbell came before a command's. -/
def State.nothingRung (s : State) (o : Outst) : Bool :=
  s.host.queues.all (fun x => !x.2.enabled || x.2.orphaned || (x.2.rung.head?.map (fun r => decide (o.rung.1 ≤ r.1))).getD true)

/-- Whether a configuration-changing command is next in the order of doorbells: none that came earlier waits, fetched or not (R39). -/
def State.configNext (s : State) (o : Outst) : Bool :=
  s.host.outst.all (fun x => !(configCmd x.cmd && x.phase = .waiting && x.serial ≠ o.serial) ||
    decide (o.rung.1 < x.rung.1) || (o.rung.1 == x.rung.1 && decide (o.serial < x.serial))) && s.nothingRung o

/-- Whether the doorbell of one command came before another's; entries of one doorbell stand in the order of fetch (R407, R515). -/
def State.rangBefore (s : State) (a b : CmdId) : Bool :=
  let key (id : CmdId) : Nat × Nat := ((s.outst? id).map (fun o => (o.rung.1, o.serial))).getD (0, 0)
  decide ((key a).1 < (key b).1) || ((key a).1 == (key b).1 && decide ((key a).2 < (key b).2))

/-- Starts a command that R39 orders among the configuration-changing commands. -/
def State.startConfig (s : State) (id : CmdId) (c : Instr) (body : State → Outst → Chk (State × Done)) : State :=
  match s.outst? id with
  | none => s
  | some o => if s.configBusy || !s.configNext o then s else s.startCmd id c body

/-- The outcome of every meaning: the block always has a next state. -/
abbrev Res := Host.Outcome State Fault Refusal

/-- HOLD_RESULT on a command without result data (R525). -/
def noHold (o : Outst) : Chk Unit := need (!o.hold) .paramInvalid 0x01

/-- The body of a command that only completes with OK and a result. -/
def okResult (s : State) (bs : Bytes) : Chk (State × Done) := .ok (s, .now .ok 0 bs)

/-- The body of a command that completes with OK and no result. -/
def okDone (s : State) : Chk (State × Done) := .ok (s, .now .ok 0 [])

/-- The next package commit sequence number is taken (R208). -/
def State.takeSeq (s : State) : State × Nat := ({ s with commitSeq := nextSeq s.commitSeq }, s.commitSeq)

/-- The sequence number of the latest commit point (R208, R255), 0 before the first. -/
def State.lastSeq (s : State) : Nat := s.commitSeq - 1

end Sys2Proof.Machine
end

