-- ==== Sys2Proof/Machine/Packet.lean ====
section
/-!
DEFINITION. Command packets (R496) and their parameter frames (R523): the fields of every opcode, the structure check,
and the command that a packet spells.
-/
namespace Sys2Proof.Machine

open Sys2Proof

/-- What a row of the command tables gives an opcode: its field bytes by offset and size, the bytes of which only some bits
are named, and whether it has an input buffer and result data. -/
structure Layout where
  fields : List (Nat × Nat) := []
  masks : List (Nat × Nat) := []
  ibuf : Bool := false
  rbuf : Bool := false
  deriving DecidableEq, Repr

/-- The command tables of chapter *Command reference* (R522): none for an opcode that they do not list. Bits of a field that the tables give
no value, such as LBA 63:40, OBJECT 63:48 and the FLAGS bits that a command does not name, count as reserved (R10; log 72). -/
def layoutOf (op : Nat) : Option Layout :=
  match op with
  | 0x00 => some {}
  | 0x01 => some { rbuf := true }
  | 0x02 => some { ibuf := true }
  | 0x03 => some { fields := [(8, 1)] }
  | 0x04 => some { fields := [(8, 1), (12, 4)] }
  | 0x10 => some { fields := [(8, 1)], ibuf := true }
  | 0x11 => some { fields := [(8, 1)], ibuf := true }
  | 0x12 => some { fields := [(8, 1)] }
  | 0x13 => some { fields := [(8, 1), (9, 1)], rbuf := true }
  | 0x14 => some { fields := [(8, 1), (9, 1)] }
  | 0x15 => some { fields := [(8, 1), (9, 1), (10, 1)] }
  | 0x16 => some { fields := [(8, 1), (9, 1)], rbuf := true }
  | 0x17 => some { fields := [(8, 1), (9, 1), (10, 1)] }
  | 0x20 => some { fields := [(8, 1), (12, 5), (20, 4)], rbuf := true }
  | 0x21 => some { fields := [(8, 1), (12, 5), (20, 4)], ibuf := true }
  | 0x22 => some { fields := [(8, 1), (12, 5), (20, 4)] }
  | 0x23 => some {}
  | 0x24 => some { fields := [(8, 1), (9, 1), (10, 1), (11, 1), (12, 8), (20, 8)] }
  | 0x25 => some { fields := [(8, 1)] }
  | 0x26 => some { fields := [(8, 1), (9, 1), (12, 6), (20, 8)], masks := [(9, 1)] }
  | 0x27 => some { fields := [(8, 1), (12, 6), (20, 8)], ibuf := true }
  | 0x28 => some { fields := [(8, 1), (12, 6), (20, 8), (28, 4)], rbuf := true }
  | 0x29 => some { fields := [(8, 1), (12, 6)] }
  | 0x30 => some { fields := [(8, 1)], ibuf := true, rbuf := true }
  | 0x31 => some { fields := [(8, 4)] }
  | 0x32 => some { fields := [(8, 4), (12, 1), (16, 8)], ibuf := true }
  | 0x33 => some { fields := [(8, 4), (12, 1), (16, 8), (24, 4)], rbuf := true }
  | 0x34 => some { fields := [(8, 4), (12, 4)] }
  | 0x35 => some { fields := [(8, 4)] }
  | 0x36 => some { fields := [(8, 4)] }
  | 0x37 => some { fields := [(8, 4)] }
  | 0x38 => some { fields := [(8, 4), (12, 4)], ibuf := true }
  | 0x39 => some { fields := [(8, 4)], rbuf := true }
  | 0x50 => some { fields := [(8, 4), (12, 4), (16, 4)], rbuf := true }
  | 0x40 => some { ibuf := true, rbuf := true }
  | 0x41 => some { fields := [(8, 4), (16, 8)], ibuf := true }
  | 0x42 => some { fields := [(8, 4)] }
  | 0x43 => some { rbuf := true }
  | 0x44 => some { fields := [(8, 4), (12, 1), (16, 4)], rbuf := true }
  | 0x45 => some { fields := [(8, 4)] }
  | 0x46 => some { fields := [(8, 4)] }
  | 0x60 => some { fields := [(8, 1)], ibuf := true }
  | 0x61 => some { fields := [(8, 1), (9, 1), (10, 2), (12, 2), (14, 2), (16, 1), (18, 2)], ibuf := true, rbuf := true }
  | 0x62 => some { fields := [(8, 1)], ibuf := true, rbuf := true }
  | 0x63 => some { fields := [(8, 1), (12, 8)] }
  | 0x64 => some { fields := [(8, 1), (9, 1)], masks := [(9, 1)] }
  | 0x65 => some { fields := [(8, 1)], rbuf := true }
  | 0x66 => some { fields := [(8, 1)] }
  | 0x70 => some { fields := [(8, 1), (12, 4)], ibuf := true, rbuf := true }
  | 0x71 => some { fields := [(8, 4), (12, 1), (16, 8)], ibuf := true, rbuf := true }
  | 0x72 => some { fields := [(8, 4)] }
  | 0x73 => some { fields := [(8, 4), (12, 2)], ibuf := true, rbuf := true }
  | 0x74 => some { fields := [(8, 4)] }
  | 0x80 => some { fields := [(8, 4), (12, 4), (16, 2), (18, 2), (20, 4), (24, 4)], ibuf := true, rbuf := true }
  | 0x81 => some { fields := [(8, 4)] }
  | 0x82 => some { fields := [(8, 4)], rbuf := true }
  | 0x83 => some { fields := [(8, 1)], ibuf := true }
  | 0x84 => some { fields := [(8, 1)], rbuf := true }
  | 0x90 => some { fields := [(8, 4), (12, 4)], rbuf := true }
  | 0x91 => some { fields := [(8, 4)], ibuf := true }
  | 0x92 => some { fields := [(8, 2)] }
  | 0x93 => some {}
  | 0x94 => some {}
  | 0x95 => some { fields := [(8, 1)], ibuf := true }
  | 0xA0 => some { fields := [(8, 16)], rbuf := true }
  | 0xA1 => some { rbuf := true }
  | 0xA2 => some { ibuf := true }
  | 0xC0 => some { fields := [(8, 1), (9, 1), (12, 8)] }
  | 0xC1 => some { fields := [(8, 1), (9, 1), (10, 2), (12, 1), (13, 1), (16, 4), (20, 4)], rbuf := true }
  | 0xC2 => some { fields := [(8, 1), (10, 2), (16, 4), (20, 1)], rbuf := true }
  | 0xC3 => some { fields := [(8, 1), (9, 1), (10, 2)], rbuf := true }
  | 0xB0 => some { rbuf := true }
  | 0xB1 => some {}
  | 0xB2 => some { fields := [(8, 1), (9, 1), (10, 1)], rbuf := true }
  | 0xB3 => some { fields := [(8, 1), (9, 1), (10, 1), (12, 4)] }
  | 0xB4 => some { rbuf := true }
  | 0xB5 => some { rbuf := true }
  | 0xB6 => some { fields := [(8, 4), (12, 1), (13, 1), (16, 4)], masks := [(12, 1)], rbuf := true }
  | 0xB7 => some { fields := [(8, 4), (12, 1), (13, 1)], masks := [(12, 1)] }
  | _ => none

/-- Whether byte `off` of the command fields is named by a layout. -/
def Layout.names (l : Layout) (off : Nat) : Bool := l.fields.any (fun f => decide (f.1 ≤ off) && decide (off < f.1 + f.2))

/-- The first reserved byte of a packet that is not zero, or the DEP_MASK of a packet that names its own tag (R497, R524, R525). -/
def packetFault (pkt : Bytes) (l : Layout) : Option Nat :=
  let byte (i : Nat) : Nat := field pkt i 1
  let flags := byte 1
  let hold := bitAt flags 1
  let repairNoBuf := byte 0 = 0x38 && field pkt 12 4 ≠ 0xFFFFFFFF
  (List.range 64).find? (fun i =>
    if i = 1 then decide (8 ≤ flags)
    else if i = 2 then decide (32 ≤ byte 2)
    else if i = 3 then byte 3 != 0
    else if i < 8 then i == 4 && bitAt (field pkt 4 4) (byte 2 % 32)
    else if i < 32 then
      if l.names i then
        match alookup i l.masks with
        | some m => decide (m < byte i)
        | none => false
      else byte i != 0
    else if i < 44 then (!l.ibuf || repairNoBuf) && byte i != 0
    else if i < 48 then byte i != 0
    else if i < 60 then (!l.rbuf || hold) && byte i != 0
    else byte i != 0)

/-- Whether an opcode's group runs on a kind of queue (R498). -/
def groupOk (op : Nat) (q : QId) : Bool :=
  let g := op / 16
  match q with
  | .admin _ => g == 0 || g == 1 || g == 9 || g == 0xA || g == 0xC || g == 0xB
  | .io _ => (decide (2 ≤ g) && decide (g ≤ 8)) || g == 0xB

/-- The command that a packet of a listed opcode spells (R522, R523). -/
def buildCommand (pkt : Bytes) (id : CmdId) : Instr :=
  let f (off n : Nat) : Nat := field pkt off n
  match f 0 1 with
  | 0x01 => .cfgRead id
  | 0x02 => .cfgWrite id
  | 0x03 => .setOpp id (f 8 1)
  | 0x04 => .storeTune id (f 8 1) (f 12 4)
  | 0x10 => .partCreate id (f 8 1)
  | 0x11 => .partModify id (f 8 1)
  | 0x12 => .partDestroy id (f 8 1)
  | 0x13 => .ctxCreate id (f 8 1) (f 9 1)
  | 0x14 => .ctxDestroy id (f 8 1) (f 9 1)
  | 0x15 => .ctxModify id (f 8 1) (f 9 1) (f 10 1)
  | 0x16 => .ctxStatus id (f 8 1) (f 9 1)
  | 0x17 => .ctxFlagsClear id (f 8 1) (f 9 1) (f 10 1)
  | 0x20 => .blockRead id (f 8 1) (f 12 8) (f 20 4)
  | 0x21 => .blockWrite id (f 8 1) (f 12 8) (f 20 4)
  | 0x22 => .blockTrim id (f 8 1) (f 12 8) (f 20 4)
  | 0x23 => .storeFlush id
  | 0x24 => .nsCreate id (f 8 1) (f 9 1) (f 10 1) (f 11 1) (f 12 8) (f 20 8)
  | 0x25 => .nsDestroy id (f 8 1)
  | 0x26 => .objCreate id (f 8 1) (f 9 1) (f 12 8) (f 20 8)
  | 0x27 => .objWrite id (f 8 1) (f 12 8) (f 20 8)
  | 0x28 => .objRead id (f 8 1) (f 12 8) (f 20 8) (f 28 4)
  | 0x29 => .objDelete id (f 8 1) (f 12 8)
  | 0x30 => .tensorCreate id (f 8 1)
  | 0x31 => .tensorDestroy id (f 8 4)
  | 0x32 => .tensorWrite id (f 8 4) (f 12 1) (f 16 8)
  | 0x33 => .tensorRead id (f 8 4) (f 12 1) (f 16 8) (f 24 4)
  | 0x34 => .tensorCopy id (f 8 4) (f 12 4)
  | 0x35 => .tensorStage id (f 8 4)
  | 0x36 => .tensorSync id (f 8 4)
  | 0x37 => .tensorEvict id (f 8 4)
  | 0x38 => .tensorRepair id (f 8 4) (f 12 4)
  | 0x39 => .tensorInfo id (f 8 4)
  | 0x50 => .qstats id (f 8 4) (f 12 4) (f 16 4)
  | 0x40 => .progLoad id
  | 0x41 => .progRun id (f 8 4) (BitVec.ofNat 64 (f 16 8))
  | 0x42 => .progUnload id (f 8 4)
  | 0x43 => .semCreate id
  | 0x44 => .semAcquire id (f 8 4) (f 12 1) (f 16 4)
  | 0x45 => .semRelease id (f 8 4)
  | 0x46 => .semDestroy id (f 8 4)
  | 0x60 => .idxCreate id (f 8 1)
  | 0x61 => .idxQuery id (f 8 1) (f 9 1) (f 10 2) (f 12 2) (f 14 2) (f 16 1) (f 18 2)
  | 0x62 => .idxInsert id (f 8 1)
  | 0x63 => .idxDelete id (f 8 1) (f 12 8)
  | 0x64 => .idxMerge id (f 8 1) (f 9 1)
  | 0x65 => .idxInfo id (f 8 1)
  | 0x66 => .idxDestroy id (f 8 1)
  | 0x70 => .accordLoad id (f 8 1) (f 12 4)
  | 0x71 => .accordRun id (f 8 4) (f 12 1) (BitVec.ofNat 64 (f 16 8))
  | 0x72 => .accordUnload id (f 8 4)
  | 0x73 => .modelBind id (f 8 4) (f 12 2)
  | 0x74 => .modelUnbind id (f 8 4)
  | 0x80 => .ringForm id (f 8 4) (f 12 4) (f 16 2) (f 18 2) (f 20 4) (f 24 4)
  | 0x81 => .ringDissolve id (f 8 4)
  | 0x82 => .ringInfo id (f 8 4)
  | 0x83 => .fabPortSet id (f 8 1)
  | 0x84 => .fabPortInfo id (f 8 1)
  | 0x90 => .cflRead id (f 8 4) (f 12 4)
  | 0x91 => .cflProgram id (f 8 4)
  | 0x92 => .cflErase id (f 8 2)
  | 0x93 => .cflSuspend id
  | 0x94 => .cflResume id
  | 0x95 => .cflProtect id (f 8 1)
  | 0xA0 => .attest id (f 8 16)
  | 0xA1 => .identityRead id
  | 0xA2 => .romxUpdate id
  | 0xC0 => .errInject id (f 8 1) (f 9 1) (f 12 8)
  | 0xC1 => .linkTest id (f 8 1) (f 9 1) (f 10 2) (f 12 1) (f 13 1) (f 16 4) (f 20 4)
  | 0xC2 => .linkMargin id (f 8 1) (f 10 2) (f 16 4) (f 20 1)
  | 0xC3 => .memBist id (f 8 1) (f 9 1) (f 10 2)
  | 0xB0 => .healthLog id
  | 0xB1 => .eventWait id
  | 0xB2 => .acctRead id (f 8 1) (f 9 1) (f 10 1)
  | 0xB3 => .acctClear id (f 8 1) (f 9 1) (f 10 1) (f 12 4)
  | 0xB4 => .memInfo id
  | 0xB5 => .storeInfo id
  | 0xB6 => .resultRead id (f 8 4) (f 12 1) (f 13 1) (f 16 4)
  | 0xB7 => .resultRelease id (f 8 4) (f 12 1) (f 13 1)
  | _ => .nop id

/-- The opcode and the field values (offset, bytes, value) of a packet command, from the same command tables (R522, R523). -/
def commandFields : Instr → Option (CmdId × Nat × List (Nat × Nat × Nat))
  | .nop id => some (id, 0x00, [])
  | .cfgRead id => some (id, 0x01, [])
  | .cfgWrite id => some (id, 0x02, [])
  | .setOpp id opp => some (id, 0x03, [(8, 1, opp)])
  | .storeTune id tunable value => some (id, 0x04, [(8, 1, tunable), (12, 4, value)])
  | .partCreate id p => some (id, 0x10, [(8, 1, p)])
  | .partModify id p => some (id, 0x11, [(8, 1, p)])
  | .partDestroy id p => some (id, 0x12, [(8, 1, p)])
  | .ctxCreate id p priority => some (id, 0x13, [(8, 1, p), (9, 1, priority)])
  | .ctxDestroy id p c => some (id, 0x14, [(8, 1, p), (9, 1, c)])
  | .ctxModify id p c priority => some (id, 0x15, [(8, 1, p), (9, 1, c), (10, 1, priority)])
  | .ctxStatus id p c => some (id, 0x16, [(8, 1, p), (9, 1, c)])
  | .ctxFlagsClear id p c mask => some (id, 0x17, [(8, 1, p), (9, 1, c), (10, 1, mask)])
  | .blockRead id ns lba count => some (id, 0x20, [(8, 1, ns), (12, 5, lba), (20, 4, count)])
  | .blockWrite id ns lba count => some (id, 0x21, [(8, 1, ns), (12, 5, lba), (20, 4, count)])
  | .blockTrim id ns lba count => some (id, 0x22, [(8, 1, ns), (12, 5, lba), (20, 4, count)])
  | .storeFlush id => some (id, 0x23, [])
  | .nsCreate id ns type op encrypt capacity objects => some (id, 0x24, [(8, 1, ns), (9, 1, type), (10, 1, op), (11, 1, encrypt), (12, 8, capacity), (20, 8, objects)])
  | .nsDestroy id ns => some (id, 0x25, [(8, 1, ns)])
  | .objCreate id ns flags obj length => some (id, 0x26, [(8, 1, ns), (9, 1, flags), (12, 6, obj), (20, 8, length)])
  | .objWrite id ns obj offset => some (id, 0x27, [(8, 1, ns), (12, 6, obj), (20, 8, offset)])
  | .objRead id ns obj offset length => some (id, 0x28, [(8, 1, ns), (12, 6, obj), (20, 8, offset), (28, 4, length)])
  | .objDelete id ns obj => some (id, 0x29, [(8, 1, ns), (12, 6, obj)])
  | .tensorCreate id home => some (id, 0x30, [(8, 1, home)])
  | .tensorDestroy id h => some (id, 0x31, [(8, 4, h)])
  | .tensorWrite id h region offset => some (id, 0x32, [(8, 4, h), (12, 1, region), (16, 8, offset)])
  | .tensorRead id h region offset length => some (id, 0x33, [(8, 4, h), (12, 1, region), (16, 8, offset), (24, 4, length)])
  | .tensorCopy id src dst => some (id, 0x34, [(8, 4, src), (12, 4, dst)])
  | .tensorStage id h => some (id, 0x35, [(8, 4, h)])
  | .tensorSync id h => some (id, 0x36, [(8, 4, h)])
  | .tensorEvict id h => some (id, 0x37, [(8, 4, h)])
  | .tensorRepair id h source => some (id, 0x38, [(8, 4, h), (12, 4, source)])
  | .tensorInfo id h => some (id, 0x39, [(8, 4, h)])
  | .qstats id h first count => some (id, 0x50, [(8, 4, h), (12, 4, first), (16, 4, count)])
  | .progLoad id => some (id, 0x40, [])
  | .progRun id prog seed => some (id, 0x41, [(8, 4, prog), (16, 8, seed.toNat)])
  | .progUnload id prog => some (id, 0x42, [(8, 4, prog)])
  | .semCreate id => some (id, 0x43, [])
  | .semAcquire id sem donateMax timeout => some (id, 0x44, [(8, 4, sem), (12, 1, donateMax), (16, 4, timeout)])
  | .semRelease id sem => some (id, 0x45, [(8, 4, sem)])
  | .semDestroy id sem => some (id, 0x46, [(8, 4, sem)])
  | .idxCreate id ns => some (id, 0x60, [(8, 1, ns)])
  | .idxQuery id ns prune count l k beam maxReads => some (id, 0x61, [(8, 1, ns), (9, 1, prune), (10, 2, count), (12, 2, l), (14, 2, k), (16, 1, beam), (18, 2, maxReads)])
  | .idxInsert id ns => some (id, 0x62, [(8, 1, ns)])
  | .idxDelete id ns node => some (id, 0x63, [(8, 1, ns), (12, 8, node)])
  | .idxMerge id ns flags => some (id, 0x64, [(8, 1, ns), (9, 1, flags)])
  | .idxInfo id ns => some (id, 0x65, [(8, 1, ns)])
  | .idxDestroy id ns => some (id, 0x66, [(8, 1, ns)])
  | .accordLoad id ctx defLen => some (id, 0x70, [(8, 1, ctx), (12, 4, defLen)])
  | .accordRun id acc startStage seed => some (id, 0x71, [(8, 4, acc), (12, 1, startStage), (16, 8, seed.toNat)])
  | .accordUnload id acc => some (id, 0x72, [(8, 4, acc)])
  | .modelBind id prog count => some (id, 0x73, [(8, 4, prog), (12, 2, count)])
  | .modelUnbind id model => some (id, 0x74, [(8, 4, model)])
  | .ringForm id ringId epoch members index planes timeout => some (id, 0x80, [(8, 4, ringId), (12, 4, epoch), (16, 2, members), (18, 2, index), (20, 4, planes), (24, 4, timeout)])
  | .ringDissolve id ring => some (id, 0x81, [(8, 4, ring)])
  | .ringInfo id ring => some (id, 0x82, [(8, 4, ring)])
  | .fabPortSet id lport => some (id, 0x83, [(8, 1, lport)])
  | .fabPortInfo id lport => some (id, 0x84, [(8, 1, lport)])
  | .cflRead id addr length => some (id, 0x90, [(8, 4, addr), (12, 4, length)])
  | .cflProgram id addr => some (id, 0x91, [(8, 4, addr)])
  | .cflErase id sector => some (id, 0x92, [(8, 2, sector)])
  | .cflSuspend id => some (id, 0x93, [])
  | .cflResume id => some (id, 0x94, [])
  | .cflProtect id level => some (id, 0x95, [(8, 1, level)])
  | .attest id nonce => some (id, 0xA0, [(8, 16, nonce)])
  | .identityRead id => some (id, 0xA1, [])
  | .romxUpdate id => some (id, 0xA2, [])
  | .errInject id p kind addr => some (id, 0xC0, [(8, 1, p), (9, 1, kind), (12, 8, addr)])
  | .linkTest id kind pattern index mode lun laneMask durationMs => some (id, 0xC1, [(8, 1, kind), (9, 1, pattern), (10, 2, index), (12, 1, mode), (13, 1, lun), (16, 4, laneMask), (20, 4, durationMs)])
  | .linkMargin id kind index laneMask target => some (id, 0xC2, [(8, 1, kind), (10, 2, index), (16, 4, laneMask), (20, 1, target)])
  | .memBist id target algorithm index => some (id, 0xC3, [(8, 1, target), (9, 1, algorithm), (10, 2, index)])
  | .healthLog id => some (id, 0xB0, [])
  | .eventWait id => some (id, 0xB1, [])
  | .acctRead id scope p c => some (id, 0xB2, [(8, 1, scope), (9, 1, p), (10, 1, c)])
  | .acctClear id scope p c mask => some (id, 0xB3, [(8, 1, scope), (9, 1, p), (10, 1, c), (12, 4, mask)])
  | .memInfo id => some (id, 0xB4, [])
  | .storeInfo id => some (id, 0xB5, [])
  | .resultRead id handle flags tag offset => some (id, 0xB6, [(8, 4, handle), (12, 1, flags), (13, 1, tag), (16, 4, offset)])
  | .resultRelease id handle flags tag => some (id, 0xB7, [(8, 4, handle), (12, 1, flags), (13, 1, tag)])
  | _ => none

/-- Byte `off` of a packet's command fields. -/
def fieldByte (fs : List (Nat × Nat × Nat)) (off : Nat) : Byte :=
  match fs.find? (fun f => decide (f.1 ≤ off) && decide (off < f.1 + f.2.1)) with
  | some f => BitVec.ofNat 8 (f.2.2 / 256 ^ (off - f.1))
  | none => 0

/-- The 64 bytes of a command packet (R496): opcode, FLAGS, TAG, DEP_MASK, command fields and the two buffers. -/
def packetBytes (op flags tag mask : Nat) (fs : List (Nat × Nat × Nat)) (ibuf ibufLen rbuf rbufLen : Nat) : Bytes :=
  leBytes 1 op ++ leBytes 1 flags ++ leBytes 1 tag ++ zeros 1 ++ leBytes 4 mask ++ (List.range 24).map (fun i => fieldByte fs (8 + i))
    ++ leBytes 8 ibuf ++ leBytes 4 ibufLen ++ zeros 4 ++ leBytes 8 rbuf ++ leBytes 4 rbufLen ++ zeros 4

/-- The readiness states of a group (R520): ADMIN, STORAGE, COMPUTE, FABRIC in that order. -/
def readinessOf (op : Nat) : Bool × Bool × Bool × Bool :=
  match op / 16 with
  | 1 => (false, true, false, false)
  | 2 => (false, true, false, false)
  | 3 => (false, true, true, false)
  | 4 => (false, true, true, false)
  | 5 => (false, true, true, false)
  | 6 => (false, true, true, false)
  | 7 => (false, true, true, false)
  | 8 => (false, false, true, true)
  | _ => (true, false, false, false)

/-- DEV_STATE bits 4:0 as port `p` reads them (R489). -/
def State.devStateLow (s : State) (linkUp : Bool) : Nat :=
  (if linkUp then 1 else 0) + (if s.power.adminReady then 2 else 0) + (if s.power.storageReady then 4 else 0)
    + (if s.power.computeReady then 8 else 0) + (if s.power.fabricReady then 16 else 0)

/-- The port that carries a queue's owner. -/
def State.queuePort (s : State) (q : QId) : Nat :=
  match (s.queue q).owner with
  | some f => fnPort f
  | none => 0

/-- The checks that fetch makes after the tag (R529): structure, opcode and queue kind, readiness, a stopped device (R540). -/
def State.fetchCheck (s : State) (q : QId) (pkt : Bytes) : Chk Unit :=
  let op := field pkt 0 1
  let l := layoutOf op
  let (a, st, c, f) := readinessOf op
  let port := s.queuePort q
  do
    match packetFault pkt (l.getD { fields := [(8, 24)], ibuf := true, rbuf := true }) with
    | some off => failWith .packetMalformed off
    | none => .ok ()
    need (l.isSome && groupOk op q) .opcodeInvalid op
    need (!s.power.fault) .deviceFault 0
    need ((!a || s.power.adminReady) && (!st || s.power.storageReady) && (!c || s.power.computeReady) && (!f || s.power.fabricReady))
      .deviceNotReady (s.devStateLow ((s.host.ports.getD port Port.reset).linkUp))

/-- Takes the next entry of a submission ring; the energy that will be charged to the command is a free value (R492, R494 to R498, R503, R520, R529). -/
def State.fetchOne (s : State) (q : QId) : State :=
  let qu := s.queue q
  if !qu.enabled || qu.orphaned || qu.sqHead = qu.sqTail then s
  else
    let addr := qu.sqBase + 64 * qu.sqHead
    let s := s.updQueue q (fun x => { x with sqHead := (x.sqHead + 1) % 32, rung := x.rung.drop 1 })
    if s.hostBad addr 64 then s.updQueue q (fun x => { x with fetchError := true })
    else
      let s := s.chargeQueue q 16 64
      let pkt := s.hostRd addr 64
      let tag := field pkt 2 1 % 32
      let id : CmdId := { queue := q, tag := tag }
      if (s.outst? id).isSome then
        let sc := match q with
          | .admin _ => Scope.device
          | .io i => Scope.ctx (i / 16) (i % 16)
        let qn := match q with
          | .admin k => k
          | .io i => i
        (s.updQueue q (fun x => { x with tagError := true })).raise 8 qn tag sc
      else
        let flags := field pkt 1 1
        let mask := field pkt 4 4
        let deps := (s.host.outst.filter (fun o => o.id.queue = q && bitAt mask o.id.tag && o.phase ≠ .posted)).map (fun o => (o.serial, o.id.tag))
        let gone := (s.host.outst.find? (fun o => o.id.queue = q && bitAt mask o.id.tag && o.phase = .posted && o.failed)).map (·.id.tag)
        let (s, energy) := s.freeNat
        let o : Outst :=
          { id := id, cmd := buildCommand pkt id, ordered := bitAt flags 0, hold := bitAt flags 1, noIrq := bitAt flags 2
            ibuf := field pkt 0x20 8, ibufLen := field pkt 0x28 4, rbuf := field pkt 0x30 8, rbufLen := field pkt 0x38 4
            serial := s.host.nextSerial, rung := qu.rung.headD (s.host.doorbells, s.host.cflWait), deps := deps, depFailed := gone, phase := .waiting, failed := false, cplIndex := 0, sliceKills := 0, faultKills := 0
            poisonKills := [], readyAt := s.now, readySeq := readyNext s.host.outst, engineNs := 0, energyMj := energy, movedBytes := 0, again := false, charges := [] }
        let older (h : Held) : Held := { h with byTag := false }
        let s := if o.hold then { s with host := { s.host with held := mapIf (fun h => h.id = id) older s.host.held } } else s
        let s := { s with host := { s.host with outst := s.host.outst ++ [o], nextSerial := s.host.nextSerial + 1 } }
        match s.fetchCheck q pkt with
        | .error e => s.complete o e.status e.detail []
        | .ok () => State.settle 32 s

end Sys2Proof.Machine
end

