-- ==== Sys2Proof/Machine/Links.lean ====
section
/-!
DEFINITION. Logical fabric ports, Longshore packets and the sending side of rings (chapters *Fabric ports and optics* and
*Ring reduction*): frames, credits, CONTROL packets, and how a failed operation is made known to the neighbours.
-/
namespace Sys2Proof.Machine

open Sys2Proof

/-! ### Logical ports (R419, R425, R444) -/

/-- A logical port that FAB_PORT_SET has not set. -/
def LPort.reset : LPort :=
  { set := false, state := 0, plane := 0, mac := 0, nextHop := 0, ipv6 := 0, vlan := none, dscp := 0, laser := none, laserOk := true, dimmed := false
    counters := List.replicate 9 0 }

def State.lport (s : State) (l : Nat) : LPort := (alookup l s.fabric.lports).getD LPort.reset

def State.updLport (s : State) (l : Nat) (f : LPort → LPort) : State :=
  { s with fabric := { s.fabric with lports := ainsert l (f (s.lport l)) s.fabric.lports } }

/-- The mode of a fabric port in force (*Port modes* table, R419). -/
def State.portMode (s : State) (p : Nat) : Nat := bits s.cfg.inForce.fabricModes (2 * p) 2

/-- Whether a logical port exists and it and its optical engine are in service (R419, R619). -/
def State.lportEnabled (s : State) (l : Nat) : Bool :=
  let m := s.portMode (l / 2)
  decide (l / 2 < 2 * Variant.dies s.variant) && (m == 2 || (m == 1 && l % 2 == 0)) && s.dieUp (l / 4) &&
    decide (0xC000 + l / 4 ∉ s.health.log.outOfService) && decide (0x2000 + l ∉ s.health.log.outOfService)

/-- The logical port that carries a plane (R425, R426); a switch plane that is out of service carries nothing (R619). -/
def State.lportOf (s : State) (plane : Nat) : Option Nat :=
  if 0x3000 + plane ∈ s.health.log.outOfService then none
  else (List.range 32).find? (fun l => s.lportEnabled l && (s.lport l).set && (s.lport l).plane == plane)

/-- Whether a link test in MODE 2 or 3 holds a fabric port's logical ports DOWN (R661). -/
def State.portTested (s : State) (p : Nat) : Bool := s.test.links.any (fun t => t.kind = 1 && t.index = p && decide (2 ≤ t.mode) && !t.isMargin)

/-- A test ends: its link goes back to mission use, a fabric port's logical ports through TRAINING (R661, R663). -/
def State.endTest (s : State) (t : LinkTest) : State :=
  let s := { s with test := { s.test with links := s.test.links.filter (fun x => !(x.kind = t.kind && x.index = t.index)) } }
  if t.kind = 1 && decide (2 ≤ t.mode) && !t.isMargin then
    [2 * t.index, 2 * t.index + 1].foldl (fun s l =>
      if s.lportEnabled l && s.fabric.laserEn.getD (l / 4) false && (s.lport l).laserOk then s.updLport l (fun x => { x with state := 2 }) else s) s
  else s

/-- Adds to a port counter; it sticks, sets its flag and raises one event as R418 states (R444). No SOURCE names a port's counter, so that of the
event is a free value (log entry 48). -/
def State.countPort (s : State) (l i n : Nat) : State :=
  let old := s.lport l
  let full := decide (max64 < old.counters.getD i 0 + n)
  let s := s.updLport l (fun x => { x with
    counters := setAt i (capAt max64 (x.counters.getD i 0 + n)) x.counters, saturated := if full then x.saturated ||| 2 ^ i else x.saturated })
  if full && !bitAt old.saturated i then (s.freeNat).1.raise 6 ((s.freeNat).2 % 4096) 0 .device else s

/-! ### Longshore packets (R429, R430, R454) -/

/-- `n` bytes of `v`, highest first: network order. -/
def netBytes (n v : Nat) : Bytes := (leBytes n v).reverse

/-- The 32 bytes of a CONTROL payload (*Control payload layout* table, R454). -/
def ctlBytes (c : Ctl) : Bytes :=
  leBytes 1 c.kind ++ zeros 1 ++ leBytes 2 c.members ++ leBytes 4 c.op ++ leBytes 1 c.cop ++ leBytes 1 c.headroom ++ leBytes 2 c.status
    ++ leBytes 2 c.origin ++ zeros 2 ++ leBytes 8 c.units ++ leBytes 4 c.planes ++ zeros 4

/-- The Longshore header and payload of a packet (*Longshore header layout* table, R430). -/
def lsBytes (p : LsPkt) : Bytes :=
  leBytes 1 1 ++ leBytes 1 p.type ++ leBytes 2 ((if p.retransmit then 1 else 0) + (if p.ceSeen then 2 else 0)) ++ leBytes 4 p.ring
    ++ leBytes 4 p.epoch ++ leBytes 2 p.src ++ leBytes 2 p.dst ++ leBytes 1 p.stripe ++ leBytes 1 p.plane ++ zeros 2 ++ leBytes 4 p.seq
    ++ leBytes 4 p.ackSeq ++ leBytes 4 p.credit ++ leBytes 4 p.chunk ++ leBytes 4 p.block ++ leBytes 1 p.blocks.length ++ zeros 7
    ++ (match p.type with
        | 1 => p.blocks.flatMap lbBytes
        | 2 => leBytes 8 p.sack
        | 4 => (p.ctl.map ctlBytes).getD []
        | _ => [])

/-- The UDP source port (R429). -/
def udpSource (ring stripe : Nat) : Nat := 49152 + (ring * 37 + stripe) % 16384

/-- One's complement sum of 16-bit words in network order. -/
def onesSum (bs : Bytes) : Nat :=
  (List.range (ceilDiv bs.length 2)).foldl (fun acc i =>
    let v := acc + ((bs.getD (2 * i) 0).toNat * 256 + (bs.getD (2 * i + 1) 0).toNat)
    v % 65536 + v / 65536) 0

/-- The Ethernet frame of a packet from its destination MAC to its payload, without the frame check sequence (R429). -/
def lsFrame (port : LPort) (dst : Nat) (p : LsPkt) : Bytes :=
  let body := lsBytes p
  let sp := udpSource p.ring p.stripe
  let len := 8 + body.length
  let udp := netBytes 2 sp ++ netBytes 2 48410 ++ netBytes 2 len
  let pseudo := netBytes 16 port.ipv6 ++ netBytes 16 dst ++ netBytes 4 len ++ netBytes 4 17
  let sum := 65535 - onesSum (pseudo ++ udp ++ zeros 2 ++ body)
  netBytes 6 port.nextHop ++ netBytes 6 port.mac ++ (match port.vlan with
    | some tag => netBytes 2 0x8100 ++ netBytes 2 tag
    | none => [])
    ++ netBytes 2 0x86DD ++ netBytes 4 (6 * 2 ^ 28 + (port.dscp * 4 + 2) * 2 ^ 20 + sp) ++ netBytes 2 len ++ netBytes 1 17 ++ netBytes 1 64
    ++ netBytes 16 port.ipv6 ++ netBytes 16 dst ++ udp ++ netBytes 2 (if sum = 0 then 65535 else sum) ++ body

/-- Bytes that a packet takes in a received frame, its frame check sequence included (R433). -/
def lsFrameLen (port : LPort) (p : LsPkt) : Nat := 66 + (if port.vlan.isSome then 4 else 0) + (lsBytes p).length

/-! ### Rings -/

def State.ring? (s : State) (h : Nat) : Option Ring := s.fabric.rings.find? (fun r => r.handle = h)

def State.updRing (s : State) (h : Nat) (f : Ring → Ring) : State :=
  { s with fabric := { s.fabric with rings := mapIf (fun r => r.handle = h) f s.fabric.rings } }

/-- The plane set in ascending order: stripe `s` has the `s`-th plane as its own. -/
def Ring.planeList (r : Ring) : List Nat := maskList 32 r.planes

/-- Whether a fabric port carries a formed ring (R661). -/
def State.portRing (s : State) (p : Nat) : Bool :=
  [2 * p, 2 * p + 1].any (fun l => (s.lport l).set && s.fabric.rings.any (fun r => r.forming.isNone && decide ((s.lport l).plane ∈ r.planeList)))

def Ring.pred (r : Ring) : Nat := (r.index + r.members - 1) % r.members

def Ring.succ (r : Ring) : Nat := (r.index + 1) % r.members

/-- A ring of two: both neighbours are one package (R449). -/
def Ring.two (r : Ring) : Bool := r.members == 2

/-- Planes failed toward a neighbour (R440); in a ring of two a plane fails toward both. -/
def Ring.down (r : Ring) (succ : Bool) : List (Nat × Nat) := if succ then r.downSucc else r.downPred

def Ring.isDown (r : Ring) (succ : Bool) (plane : Nat) : Bool := (r.down succ).any (fun d => d.1 = plane)

/-- The live planes of the set toward a neighbour, ascending. -/
def Ring.live (r : Ring) (succ : Bool) : List Nat := r.planeList.filter (fun p => !r.isDown succ p)

/-- The plane of a stripe whose own plane has failed: position (stripe mod R) among the R live ones (R441). -/
def Ring.movedTo (r : Ring) (succ : Bool) (stripe : Nat) : Nat :=
  let l := r.live succ
  if l.length = 0 then r.planeList.getD stripe 0 else l.getD (stripe % l.length) 0

/-- The plane on which a stripe travels now toward a neighbour. -/
def Ring.stripePlane (r : Ring) (succ : Bool) (stripe : Nat) : Nat :=
  if succ then ((alookup stripe r.send).map (·.plane)).getD (r.planeList.getD stripe 0)
  else (alookup stripe r.back).getD (r.planeList.getD stripe 0)

def SendStripe.fresh (plane : Nat) : SendStripe :=
  { nextSeq := 1, acked := 0, credit := 0, window := 1024, growth := 0, unacked := [], queued := [], plane := plane }

def RecvStripe.fresh : RecvStripe := { ackSeq := 0, credit := 0, got := [], sinceAck := 0, ceSeen := false, staged := [] }

def Ring.sendOf (r : Ring) (st : Nat) : SendStripe := (alookup st r.send).getD (SendStripe.fresh (r.planeList.getD st 0))

def Ring.recvOf (r : Ring) (st : Nat) : RecvStripe := (alookup st r.recv).getD RecvStripe.fresh

def Ring.setSend (r : Ring) (st : Nat) (x : SendStripe) : Ring := { r with send := ainsert st x r.send }

def Ring.setRecv (r : Ring) (st : Nat) (x : RecvStripe) : Ring := { r with recv := ainsert st x r.recv }

/-- The stripes that collectives now running receive on a port's plane. -/
def State.stripesOn (s : State) (plane : Nat) : Nat :=
  (s.fabric.rings.map (fun r =>
    if r.current.isSome then ((List.range r.planeList.length).filter (fun st => r.stripePlane false st = plane)).length else 0)).sum

/-- The planes that share the segment buffers of one fabric port: those of its logical ports (R419, R435). -/
def State.portPlanes (s : State) (plane : Nat) : List Nat :=
  match s.lportOf plane with
  | none => [plane]
  | some l => ([2 * (l / 2), 2 * (l / 2) + 1].filter (fun k => s.lportEnabled k && (s.lport k).set)).map (fun k => (s.lport k).plane)

/-- Segment buffers for each stripe of a port: an equal share of its 1,024, at least 8 (R435). -/
def State.share (s : State) (plane : Nat) : Nat := max 8 (1024 / max 1 ((s.portPlanes plane).map s.stripesOn).sum)

/-- The CREDIT that the package advertises for a stripe: granted only while a collective runs on the ring (R412, R435). -/
def State.creditOf (s : State) (r : Ring) (st : Nat) : Nat :=
  let x := r.recvOf st
  let c := if r.current.isSome then (x.ackSeq + s.share (r.stripePlane false st)) % 2 ^ 32 else x.ackSeq
  if lsLe c x.credit then x.credit else c

/-- The IPv6 address of a neighbour on a plane. -/
def Ring.addrOf (r : Ring) (succ : Bool) (plane : Nat) : Nat := (alookup plane (if succ then r.succAddr else r.predAddr)).getD 0

/-- The command to which a ring's traffic is charged: its operation's, or the RING_FORM that forms it. -/
def Ring.who (r : Ring) : Option CmdId :=
  match r.current with
  | some op => some op.id
  | none => r.forming

/-- Records the CREDIT that a header has advertised for a stripe: one to the predecessor, or, in a ring of two, to the one neighbour (R434). -/
def Ring.noteCredit (r : Ring) (succ : Bool) (p : LsPkt) : Ring :=
  if (!succ || r.two) && decide (p.stripe < r.planeList.length) then r.setRecv p.stripe { r.recvOf p.stripe with credit := p.credit } else r

/-- Sends a packet on a plane toward a neighbour when that plane's port is UP: the frame, its counts, its charge and the CREDIT that it advertises. -/
def State.sendPkt (s : State) (h : Nat) (succ : Bool) (pkt : LsPkt) : State :=
  match s.ring? h, s.lportOf pkt.plane with
  | some r, some l =>
    if (s.lport l).state = 3 then
      let frame := lsFrame (s.lport l) (r.addrOf succ pkt.plane) pkt
      let n := frame.length + 4
      let s := { s with out := s.out ++ [Out.longshore l pkt frame] }
      let s := ((s.countPort l 0 1).countPort l 2 n).updRing h (fun r => r.noteCredit succ pkt)
      match r.who with
      | some id => s.chargeBytes id 18 n
      | none => s.chargeDevice 18 n
    else s
  | _, _ => s

/-- A packet of a ring with its header fields (R430): the acknowledgement fields speak of the reverse stripe, which traffic to the
successor has only in a ring of two. -/
def State.header (s : State) (r : Ring) (type : Nat) (succ : Bool) (st plane seq : Nat) : LsPkt :=
  let back := !succ || r.two
  { type := type, retransmit := false, ceSeen := false, ring := r.ringId, epoch := r.epoch, src := r.index
    dst := if succ then r.succ else r.pred, stripe := st, plane := plane, seq := seq
    ackSeq := if back then (r.recvOf st).ackSeq else 0, credit := if back then s.creditOf r st else 0
    chunk := 0, block := 0, blocks := [], sack := 0, ctl := none }

/-! ### CONTROL packets (R454) -/

/-- The (stripe, plane) pairs of the copies of one CONTROL: every live plane with its own stripe, and each moved stripe on its plane. -/
def Ring.ctlCopies (r : Ring) (succ : Bool) : List (Nat × Nat) :=
  let own := r.planeList.zipIdx.map (fun x => (x.2, x.1))
  (own.filter (fun x => !r.isDown succ x.2)) ++
    (own.filter (fun x => r.isDown succ x.2)).map (fun x => (x.1, r.stripePlane succ x.1))

/-- Sends a CONTROL on every live plane toward a neighbour; a repeat carries RETRANSMIT. -/
def State.sendCtl (s : State) (h : Nat) (c : Ctl) (succ rep : Bool) : State :=
  match s.ring? h with
  | none => s
  | some r =>
    (r.ctlCopies succ).foldl (fun s x =>
      let p := s.header r 4 succ x.1 x.2 ((r.sendOf x.1).nextSeq)
      s.sendPkt h succ { p with retransmit := rep, ctl := some c }) s

/-- Sends a CONTROL and keeps it for repetition until the neighbour returns one with the same KIND and OP (R454). -/
def State.raiseCtl (s : State) (h : Nat) (c : Ctl) (succ : Bool) : State :=
  (s.sendCtl h c succ false).updRing h (fun r => { r with controls := r.controls ++ [(c, succ)] })

/-- A CONTROL to both neighbours, which in a ring of two are one. -/
def State.raiseBoth (s : State) (h : Nat) (c : Ctl) : State :=
  match s.ring? h with
  | none => s
  | some r => if r.two then s.raiseCtl h c true else (s.raiseCtl h c true).raiseCtl h c false

/-- The payload of a ring's CONTROL. -/
def Ring.ctl (r : Ring) (kind op status origin : Nat) : Ctl :=
  { kind := kind, members := r.members, op := op, cop := 0, headroom := 0, status := status, origin := origin, units := 0, planes := r.planes }

/-! ### The end of an operation -/

/-- What a ring keeps when its operation ends (R412, R467, R471): credits go back; a failed operation also drops what it had still to
send and what it held staged. A START that the successor has not answered goes on being repeated (R454). -/
def Ring.endOp (r : Ring) (op : RingOp) (ok : Bool) : Ring :=
  let endSend (x : Nat × SendStripe) : Nat × SendStripe := (x.1, { x.2 with credit := x.2.acked, queued := if ok then x.2.queued else [] })
  let endRecv (x : Nat × RecvStripe) : Nat × RecvStripe := (x.1, { x.2 with staged := if ok then x.2.staged else [] })
  { r with
    current := none, earlyStart := r.earlyStart.filter (fun c => decide (op.op < c.op)), nextOp := op.op + 1, operations := r.operations + (if ok then 1 else 0)
    send := r.send.map endSend, recv := r.recv.map endRecv }

/-- Raises an ABORT for a ring's running operation with the status that ended it (R470, R471): the ring stays FORMED. -/
def State.abortOp (s : State) (h : Nat) (st : Status) : State :=
  match s.ring? h with
  | none => s
  | some r =>
    match r.current with
    | none => s
    | some op =>
      let mark (x : Ring) : Ring :=
        let x := x.endOp op false
        { x with aborts := x.aborts + 1, seen := x.seen ++ [(3, op.op, true), (3, op.op, false)] }
      (s.updRing h mark).raiseBoth h (r.ctl 3 op.op st.code r.index)

/-- A command that ends while its COLLECTIVE step runs aborts the operation (R470). -/
def State.abortOps (s : State) (id : CmdId) (st : Status) : State :=
  let mine := s.fabric.rings.filter (fun r => (r.current.map (·.id)) = some id)
  mine.foldl (fun s r => s.abortOp r.handle st) s

end Sys2Proof.Machine
end

