-- ==== Sys2Proof/Machine/Cache.lean ====
section
/-!
DEFINITION. The die caches (chapter *Memory tiers and tensors*, R163 to R165): which lines of near memory each die's cache holds, and which of
them are dirty or pinned. What a line holds is what `State.mem` holds at its address: the home die's cache and its memory are one to every
agent.
-/
namespace Sys2Proof.Machine

open Sys2Proof

/-- The line of a near-memory address. -/
def lineOf (addr : Nat) : Nat := addr / 128 * 128

/-- The set of a die's cache that a line falls in: 32,768 sets by line number (log entry 75). -/
def cacheSet (addr : Nat) : Nat := nmDie addr * 32768 + addr / 128 % 32768

/-- Whether an address is near memory: nothing else is cached. -/
def inNear (addr : Nat) : Bool := decide (nmBase ≤ addr) && decide (addr < 0x030000000000)

/-- The index whose entry-point copies an address belongs to (R253): the last 512 MiB of a die's populated near memory hold them, 128 KiB for
each namespace (log entry 44). -/
def copyNs (addr : Nat) : Option Nat :=
  let off := (addr - nmBase) % nmWindow
  if inNear addr && decide (nmPopulated - 2 ^ 29 ≤ off) && decide (off < nmPopulated - 2 ^ 29 + 64 * 131072) then some ((off - (nmPopulated - 2 ^ 29)) / 131072) else none

/-- The partition that owns the allocation an address lies in, or the index whose entry-point copy stands there: whose requests reach it. -/
def State.nmOwner (s : State) (addr : Nat) : Option Nat :=
  match copyNs addr with
  | some ns => (s.indexes.find? (fun x => x.ns = ns)).map (·.part)
  | none => (s.allocs.find? (fun a => decide (a.base ≤ addr) && decide (addr < a.base + a.size))).map (·.part)

/-- The ways of a set whose lines a remap has disabled (R232). -/
def State.waysLost (s : State) (addr : Nat) : List Nat :=
  (s.integ.remaps.filter (fun r => r.store = .dieCache && cacheSet r.addr == cacheSet addr)).map (·.way)

/-- The ways that a request to an address may fill (R164): those of the partition's mask under FENCED, all under REGULATED, less the disabled
ones (R232, R233). -/
def State.fillWays (s : State) (addr : Nat) : List Nat :=
  let all := (List.range 16).filter (fun w => w ∉ s.waysLost addr)
  match s.nmOwner addr with
  | some p => if s.cfg.inForce.isolation = 1 then all.filter (bitAt (s.entry p).wayMask) else all
  | none => all

/-- Puts a line into its set: in a way that stands empty, else in place of the least recently used line that is not pinned (R165). A dirty line
that leaves is written back. -/
def State.fillLine (s : State) (l : CLine) : State :=
  let mine := s.dcache.filter (fun x => cacheSet x.addr == cacheSet l.addr)
  let ways := s.fillWays l.addr
  match ways.find? (fun w => !mine.any (fun x => x.way == w)) with
  | some w => { s with dcache := s.dcache ++ [{ l with way := w }] }
  | none =>
    match mine.find? (fun x => !x.pinned && ways.contains x.way) with
    | some v => { s with dcache := s.dcache.filter (· ≠ v) ++ [{ l with way := v.way }] }
    | none => s

/-- One access to a line (R163): a hit makes it the most recently used, and a write makes it dirty; a miss fills only where `alloc` says so. -/
def State.touchLine (s : State) (line : Nat) (write alloc : Bool) : State :=
  match s.dcache.find? (fun x => x.addr = line) with
  | some l => { s with dcache := s.dcache.filter (· ≠ l) ++ [{ l with dirty := l.dirty || write }] }
  | none => if alloc then s.fillLine { addr := line, way := 0, dirty := write, pinned := false } else s

/-- The lines that a range meets, each with whether the range covers it whole. -/
def linesOf (addr n : Nat) : List (Nat × Bool) :=
  if n = 0 then []
  else (List.range ((addr + n - 1) / 128 - addr / 128 + 1)).map (fun i =>
    let l := lineOf addr + 128 * i
    (l, decide (addr ≤ l) && decide (l + 128 ≤ addr + n)))

/-- A read of near memory: it fills the lines that it misses, unless it carries the no-allocate hint (R163). -/
def State.cacheRead (s : State) (addr n : Nat) (hint : Bool) : State :=
  if inNear addr then (linesOf addr n).foldl (fun s l => s.touchLine l.1 false (!hint)) s else s

/-- A write to near memory: a whole line updates the cache only where the line is there, a partial one fills it (R163). -/
def State.cacheWrite (s : State) (addr n : Nat) : State :=
  if inNear addr then (linesOf addr n).foldl (fun s l => s.touchLine l.1 true (!l.2)) s else s

/-- Pins the lines of a range: at most two ways of any set (R165). -/
def State.pinLine (s : State) (line : Nat) : State :=
  let s := s.touchLine line false true
  if 2 ≤ (s.dcache.filter (fun x => x.pinned && cacheSet x.addr == cacheSet line && x.addr != line)).length then s
  else
    let pin (x : CLine) : CLine := { x with pinned := true }
    { s with dcache := mapIf (fun x => x.addr = line) pin s.dcache }

/-- Forgets lines: memory that has been freed, or a die that has gone. -/
def State.dropLines (s : State) (f : Nat → Bool) : State := { s with dcache := s.dcache.filter (fun x => !f x.addr) }

end Sys2Proof.Machine
end

