-- ==== Sys2Proof/Machine/Operands.lean ====
section
/-!
DEFINITION. Tensors as operands: descriptors (R168, R170), the five parts of a tensor and their sizes (R146, R171, R676),
and the reads and writes of elements through a view of a bound or program-local tensor.
-/
namespace Sys2Proof.Machine

open Sys2Proof

/-! ### Descriptors -/

/-- Element bits of a format code (R42); LB32 spends 800 bits on each block of 32 elements. -/
def fmtBits (f : Nat) : Nat :=
  match f with
  | 0x00 => 32
  | 0x01 => 64
  | 0x02 => 16
  | 0x03 => 16
  | 0x08 => 4
  | 0x09 => 32
  | 0x0A => 4
  | 0x0B => 4
  | 0x0C => 6
  | 0x0D => 6
  | 0x0F => 32
  | 0x10 => 32
  | 0x11 => 25
  | _ => 8

/-- Block size of a block-scaled format code, 0 for any other. -/
def blockSize (f : Nat) : Nat :=
  match f with
  | 0x0A => 16
  | 0x0B => 32
  | 0x0C => 16
  | 0x0D => 32
  | 0x0E => 32
  | _ => 0

/-- Whether a format code is one of R42. -/
def fmtKnown (f : Nat) : Bool := decide (f ≤ 0x11)

def Desc.ext (d : Desc) (i : Nat) : Nat := d.extent.getD i 1

def Desc.str (d : Desc) (i : Nat) : Nat := d.stride.getD i 0

/-- Elements stored along dimension 0: whole blocks where blocks run along it (R52), whole LB32 blocks. -/
def Desc.stored0 (d : Desc) : Nat :=
  if d.format = 0x11 then ceilDiv (d.ext 0) 32 * 32
  else if blockSize d.format ≠ 0 && d.blockDim = 0 then ceilDiv (d.ext 0) (blockSize d.format) * blockSize d.format
  else d.ext 0

/-- Bytes spanned by dimensions 0 to `i` (R170). -/
def Desc.span (d : Desc) : Nat → Nat
  | 0 => packedLen (fmtBits d.format) d.stored0
  | i + 1 => (d.ext (i + 1) - 1) * d.str (i + 1) + d.span i

/-- Size of the element array (BYTES, R168). -/
def Desc.arrayBytes (d : Desc) : Nat := d.span (d.rank - 1)

/-- Rows: everything but dimension 0. -/
def Desc.rows (d : Desc) : Nat := ((List.range (d.rank - 1)).map (fun i => d.ext (i + 1))).prod

/-- Index of row `r` along dimension `i ≥ 1` (dimension 1 varies fastest). -/
def Desc.rowIdx (d : Desc) (r i : Nat) : Nat :=
  (r / ((List.range (i - 1)).map (fun j => d.ext (j + 1))).prod) % d.ext i

/-- Byte offset of row `r` in the element array. -/
def Desc.rowOff (d : Desc) (r : Nat) : Nat :=
  ((List.range (d.rank - 1)).map (fun i => d.rowIdx r (i + 1) * d.str (i + 1))).sum

/-- Bytes of the stored elements of one row. -/
def Desc.rowBytes (d : Desc) : Nat := packedLen (fmtBits d.format) d.stored0

/-- Entries of the scale and statistics vectors (CHANNELS, R168). -/
def Desc.chanCount (d : Desc) : Nat := if d.channelAxis = 0 then 1 else d.ext (d.channelAxis - 1)

/-- Reduction indices of a sums segment (R145, SUM_SEG). -/
def segLen (seg : Nat) : Nat :=
  match seg with
  | 1 => 64
  | 2 => 128
  | 3 => 256
  | _ => 0

/-- Entries of the sums vector: one a row, or one a column and segment (R146). -/
def Desc.sumCount (d : Desc) : Nat :=
  if d.sumSeg = 0 then d.rows else d.rows * ceilDiv (d.ext 0) (segLen d.sumSeg)

/-- Blocks along dimension `i` of the exponent plane (R171). -/
def Desc.expExt (d : Desc) (i : Nat) : Nat :=
  if i = d.blockDim then ceilDiv (d.ext i) (blockSize d.format) else d.ext i

/-- Entries of the exponent plane (R171). -/
def Desc.expCount (d : Desc) : Nat :=
  if blockSize d.format = 0 then 0 else ((List.range d.rank).map d.expExt).prod

/-- Index in the exponent plane of the block that holds element `c` of row `r`. -/
def Desc.expIdx (d : Desc) (r c : Nat) : Nat :=
  let idx (i : Nat) : Nat :=
    let x := if i = 0 then c else d.rowIdx r i
    if i = d.blockDim then x / blockSize d.format else x
  ((List.range d.rank).foldl (fun (acc : Nat × Nat) i => (acc.1 + idx i * acc.2, acc.2 * d.expExt i)) (0, 1)).1

/-- Whether a format can hold scale data and statistics: the targets of QCONVERT (R142, R146). -/
def quantTarget (f : Nat) : Bool := f == 4 || f == 5 || f == 6 || f == 7 || f == 8

/-- Whether a format can hold sums: the integer targets (R145). -/
def intTarget (f : Nat) : Bool := f == 6 || f == 7 || f == 8

/-- Bytes of part `k`: 0 elements, 1 exponent plane, 2 scale data, 3 sums, 4 statistics (R146, R171). -/
def Desc.partBytes (d : Desc) (k : Nat) : Nat :=
  match k with
  | 0 => d.arrayBytes
  | 1 => d.expCount
  | 2 => if quantTarget d.format then 8 * d.chanCount else 0
  | 3 => if intTarget d.format then 4 * d.sumCount else 0
  | 4 => if quantTarget d.format then 16 * d.chanCount else 0
  | _ => 0

/-- FLAGS bit of a part: 0 SCALES, 1 SUMS, 2 STATS. -/
def partFlag (k : Nat) : Nat := if k < 2 then 0 else 2 ^ (k - 2)

/-- Whether the tensor holds part `k` now. -/
def Desc.holds (d : Desc) (k : Nat) : Bool :=
  match k with
  | 0 => true
  | 1 => decide (d.expCount ≠ 0)
  | _ => bitAt d.flags (k - 2) && decide (d.partBytes k ≠ 0)

/-- Bytes of the parts the tensor holds now (REGION sizes). -/
def Desc.regionBytes (d : Desc) (k : Nat) : Nat := if d.holds k then d.partBytes k else 0

/-- Pages of part `k` (R676). -/
def Desc.pagesOf (d : Desc) (k : Nat) : Nat := ceilDiv (d.regionBytes k) 16384

/-- First 16 KiB page of part `k` in the backing object (R676). -/
def Desc.firstPage (d : Desc) (k : Nat) : Nat := ((List.range k).map d.pagesOf).sum

/-- Pages of every part that the tensor can require (R182, R676). -/
def Desc.maxPages (d : Desc) : Nat := ((List.range 5).map (fun k => ceilDiv (d.partBytes k) 16384)).sum

/-- Reads a descriptor from its 160 bytes (R168). -/
def descOf (b : Bytes) : Desc :=
  { handle := field b 0 4, state := field b 4 1, tier := field b 5 1, format := field b 6 1, rank := field b 7 1
    flags := field b 8 1, part := field b 9 1, channelAxis := field b 0xA 1, sumSeg := field b 0xB 1, channels := field b 0xC 4
    base := field b 0x10 8, extent := (List.range 5).map (fun i => field b (0x18 + 4 * i) 4), blockDim := field b 0x2C 1
    stride := (List.range 5).map (fun i => field b (0x30 + 8 * i) 8), expBase := field b 0x58 8, scaleBase := field b 0x60 8
    sumsBase := field b 0x68 8, statsBase := field b 0x70 8, generation := field b 0x78 8, backing := field b 0x80 8
    dirtyMap := field b 0x88 8, bytes := field b 0x90 8 }

/-- Lays a descriptor out in 160 bytes (R168). -/
def Desc.bytesOf (d : Desc) : Bytes :=
  leBytes 4 d.handle ++ leBytes 1 d.state ++ leBytes 1 d.tier ++ leBytes 1 d.format ++ leBytes 1 d.rank ++ leBytes 1 d.flags
    ++ leBytes 1 d.part ++ leBytes 1 d.channelAxis ++ leBytes 1 d.sumSeg ++ leBytes 4 d.channels ++ leBytes 8 d.base
    ++ (List.range 5).flatMap (fun i => leBytes 4 (d.ext i)) ++ leBytes 1 d.blockDim ++ zeros 3
    ++ (List.range 5).flatMap (fun i => leBytes 8 (d.str i)) ++ leBytes 8 d.expBase ++ leBytes 8 d.scaleBase
    ++ leBytes 8 d.sumsBase ++ leBytes 8 d.statsBase ++ leBytes 8 d.generation ++ leBytes 8 d.backing ++ leBytes 8 d.dirtyMap
    ++ leBytes 8 d.bytes ++ zeros 8

/-- The offset of the first field that R168 or R170 refuses in a descriptor that host software or an image supplies;
`isLocal`: a program-local tensor of an image. -/
def descFault (b : Bytes) (d : Desc) (isLocal : Bool) : Option Nat :=
  let bad : List (Nat × Bool) :=
    ([ (0x00, d.handle ≠ 0), (0x04, d.state ≠ 0)
    , (0x05, if isLocal then d.tier ≠ 0 else d.tier = 0 || decide (3 < d.tier))
    , (0x06, !fmtKnown d.format)
    , (0x07, d.rank = 0 || decide (5 < d.rank))
    , (0x08, decide (16 ≤ d.flags) || d.flags % 8 ≠ 0)
    , (0x09, d.part ≠ 0)
    , (0x0A, decide (d.rank < d.channelAxis))
    , (0x0B, decide (3 < d.sumSeg))
    , (0x0C, d.channels ≠ 0)
    , (0x10, if isLocal || d.tier = 2 then d.base % 64 ≠ 0 else d.base ≠ 0)
    ] : List (Nat × Bool)) ++ (List.range 5).map (fun i => (0x18 + 4 * i, if i < d.rank then d.ext i == 0 else d.ext i != 1)) ++
    ([ (0x2C, blockSize d.format ≠ 0 && decide (d.rank ≤ d.blockDim))
    , (0x2D, !zeroAt b 0x2D 3)
    , (0x30, d.str 0 ≠ 0)
    ] : List (Nat × Bool)) ++ (List.range 4).map (fun i => (0x38 + 8 * i,
        if i + 1 < d.rank then
          decide (d.str (i + 1) < d.span i) ||
            (match fmtBits d.format with
             | 6 => d.str (i + 1) % 3 != 0
             | _ => false)
        else false)) ++
    ([ (0x58, d.expBase ≠ 0), (0x60, d.scaleBase ≠ 0), (0x68, d.sumsBase ≠ 0), (0x70, d.statsBase ≠ 0), (0x78, d.generation ≠ 0)
    , (0x80, d.tier = 3 && decide (2 ^ 56 ≤ d.backing))
    , (0x88, d.dirtyMap ≠ 0), (0x90, d.bytes ≠ 0), (0x98, !zeroAt b 0x98 8) ] : List (Nat × Bool))
  (bad.find? (·.2)).map (·.1)

/-! ### Views -/

/-- A tensor as a step or a command reaches it: its descriptor, where each part is read, and the shadow it writes. -/
structure View where
  desc : Desc
  bases : List Nat
  shadow : Option Nat
  /-- The flat core and tensor index of a program-local tensor. -/
  loc : Option (Nat × Nat)
  deriving DecidableEq, Repr

/-- Model addresses for the side parts of a program-local tensor: the manual gives them no place in tidepool (log entry 24). -/
def sideBase (flat idx k : Nat) : Nat := 2 ^ 48 + ((flat * 4096 + idx) * 8 + k) * 2 ^ 32

/-- The base of the host window (R149). -/
def hostWindow : Nat := 0x030000000000

def inHostWindow (a : Nat) : Bool := decide (hostWindow ≤ a) && decide (a < 0x040000000000)

/-- HWIN of a partition (R483). -/
def State.hwinOf (s : State) (p : Nat) : Hwin := s.host.hwin.getD p { base := 0, port := 0, enable := false }

/-- The host bus address behind a host-window address of a partition (R166). -/
def State.hwinAddr (s : State) (p addr : Nat) : Nat := (s.hwinOf p).base + (addr - hostWindow)

/-- The function that carries a partition's host-window accesses (R486): VF p of HWIN[p].PORT where it is enabled, else that port's PF. -/
def State.hwinFn (s : State) (p : Nat) : Fn :=
  let n := (s.hwinOf p).port
  match s.host.ports[n]? with
  | some pt => if pt.vfEnable && decide (p < pt.numVfs) then .vf n p else .pf n
  | none => .pf n

/-- Whether that function can carry a request: its port's link is up and it is not in D3hot (log entry 74). -/
def State.hwinOpen (s : State) (p : Nat) : Bool :=
  ((s.host.ports[(s.hwinOf p).port]?).map (·.linkUp)).getD false && decide (s.hwinFn p ∉ s.host.fnD3)

/-- Whether a host-window read of a partition comes back with an error or a poisoned TLP (R226). -/
def State.hwinBad (s : State) (p addr n : Nat) : Bool :=
  inHostWindow addr && (!s.hwinOpen p || s.hostBad (s.hwinAddr p addr) n)

/-- Notes the request of a host-window read; any other address asks nothing of a host. -/
def State.askHost (s : State) (p addr n : Nat) : State :=
  if inHostWindow addr && s.hwinOpen p then { s with out := s.out ++ [.memRead (s.hwinFn p) (s.hwinAddr p addr) n] } else s

/-- Reads bytes at a device address of a partition: host-window addresses go to host memory (R166). -/
def State.devRd (s : State) (p addr n : Nat) : Bytes :=
  if inHostWindow addr then s.hostRd (s.hwinAddr p addr) n else s.rd addr n

/-- The 64-bit words or 32-byte sectors that a range touches, as poison marks name them (R220). -/
def poisonKeys (addr n : Nat) : List (Store × Nat) :=
  if addr < 0x80000000 then
    (List.range ((addr + n + 7) / 8 - addr / 8)).map (fun i => (Store.tidepool, (addr / 8 + i) * 8))
  else (List.range ((addr + n + 31) / 32 - addr / 32)).map (fun i => (Store.nearMemory, (addr / 32 + i) * 32))

/-- Whether a range holds a poisoned word or sector. -/
def State.poisoned (s : State) (addr n : Nat) : Bool :=
  if n = 0 then false
  else s.integ.poison.any (fun k =>
    let w := match k.1 with
      | .tidepool => 8
      | _ => 32
    (k.1 = .tidepool || k.1 = .nearMemory) && decide (k.2 < addr + n) && decide (addr < k.2 + w))

/-- Writes bytes in the host window of a partition as a request of its function (R166, R167, R486); it is lost where the function can carry
none. -/
def State.hwinWr (s : State) (p addr : Nat) (bs : Bytes) : State :=
  if s.hwinOpen p then
    let t := s.hostWr (s.hwinAddr p addr) bs
    { t with out := t.out ++ [.memWrite (s.hwinFn p) (s.hwinAddr p addr) bs] }
  else s

/-- Writes bytes at a device address: host window (R166, R167), or tidepool and near memory with their marks (R221). -/
def State.devWr (s : State) (p addr : Nat) (bs : Bytes) : State :=
  if inHostWindow addr then s.hwinWr p addr bs
  else
    { ((s.wr addr bs).cacheWrite addr bs.length) with integ := s.integ.wrote addr bs.length }.noteMarks (s.integ.armedMarks addr bs.length)

/-- Poison keys inside `n` bytes from `src`, moved to the words they land in at `dst` (R222: a copy carries poison). -/
def State.carryPoison (s : State) (src dst n : Nat) : List (Store × Nat) :=
  if !s.poisoned src n then []
  else ((List.range n).filter (fun i => s.poisoned (src + i) 1)).flatMap (fun i => poisonKeys (dst + i) 1) |>.eraseDups

/-- Writes poison marks that come with copied data (R222, R241). -/
def State.addPoison (s : State) (ks : List (Store × Nat)) : State :=
  let new := ks.filter (fun k => k ∉ s.integ.poison)
  { s with integ := { s.integ with poison := s.integ.poison ++ new } }.noteMarks new

/-- Copies bytes between device addresses of a partition, poison with them (R222). -/
def State.devCopy (s : State) (p src dst n : Nat) : State :=
  if n = 0 then s
  else
    let bad := if inHostWindow src || inHostWindow dst then [] else s.carryPoison src dst n
    (s.devWr p dst (s.devRd p src n)).addPoison bad

/-- The piece of a write that lies in page `pg` of a part joins what a shadow's run has written (R172); neighbouring pieces join. -/
def joinSpan (l : List (Nat × Nat × Nat)) (k off n : Nat) : List (Nat × Nat × Nat) :=
  match l.find? (fun x => x.1 == k && x.2.1 + x.2.2 == off) with
  | some x => mapIf (fun y => y == x) (fun y => (y.1, y.2.1, y.2.2 + n)) l
  | none => if l.any (fun x => x.1 == k && decide (x.2.1 ≤ off) && decide (off + n ≤ x.2.1 + x.2.2)) then l else l ++ [(k, off, n)]

/-- Whether spans of a part cover it from byte `pos` on up to byte `n`. -/
def spansCover (l : List (Nat × Nat × Nat)) (k n : Nat) : Nat → Nat → Bool
  | 0, pos => decide (n ≤ pos)
  | fuel + 1, pos =>
    decide (n ≤ pos) ||
      (match l.find? (fun x => x.1 == k && decide (x.2.1 ≤ pos) && decide (pos < x.2.1 + x.2.2)) with
       | some x => spansCover l k n fuel (x.2.1 + x.2.2)
       | none => false)

/-- The tensor of a handle. -/
def State.tensor? (s : State) (h : Nat) : Option Tensor := s.tensors.find? (fun t => t.desc.handle = h)

def State.updTensor (s : State) (h : Nat) (f : Tensor → Tensor) : State :=
  { s with tensors := mapIf (fun t => t.desc.handle = h) f s.tensors }

/-- The binding of a command. -/
def State.binding? (s : State) (id : CmdId) : Option Binding := s.bindings.find? (fun b => b.id = id)

def State.updBinding (s : State) (id : CmdId) (f : Binding → Binding) : State :=
  { s with bindings := mapIf (fun b => b.id = id) f s.bindings }

/-- The shadow of a tensor in a command's binding. -/
def State.shadow? (s : State) (id : CmdId) (h : Nat) : Option Shadow :=
  (s.binding? id).bind (fun b => b.shadows.find? (fun x => x.tensor = h))

/-- Where page `pg` of part `k` is read by the command `id` (R196): its shadow once it has written it, else the bound generation. -/
def State.pageBase (s : State) (id : CmdId) (v : View) (k pg : Nat) : Nat :=
  match v.shadow with
  | none => v.bases.getD k 0
  | some h =>
    match s.shadow? id h with
    | none => v.bases.getD k 0
    | some sh => if (k, pg) ∈ sh.written then sh.bases.getD k 0 else v.bases.getD k 0

/-- The marks of a core's tidepool go with its bytes, and with them what has been counted there (R229). -/
def State.zeroMarks (s : State) (flat : Nat) : State :=
  let other (k : Store × Nat) : Bool := !(k.1 = .tidepool && decide (k.2 / 0x800000 = flat))
  { s with integ := { s.integ with poison := s.integ.poison.filter other, weak := s.integ.weak.filter other, bad := s.integ.bad.filter other
                                   injected := s.integ.injected.filter other, counted := s.integ.counted.filter other } }

/-- Splits a range into the pieces that lie in one 16 KiB page each. -/
def pagePieces : Nat → Nat → Nat → List (Nat × Nat)
  | 0, _, _ => []
  | fuel + 1, off, n =>
    if n = 0 then []
    else
      let m := min n (16384 - off % 16384)
      (off, m) :: pagePieces fuel (off + m) (n - m)

/-- Reads `n` bytes at `off` of part `k` through a view. -/
def State.viewRd (s : State) (p : Nat) (id : CmdId) (v : View) (k off n : Nat) : Bytes :=
  (pagePieces (n / 16384 + 2) off n).flatMap (fun x => s.devRd p (s.pageBase id v k (x.1 / 16384) + x.1) x.2)

/-- Whether a range of a part holds poison. -/
def State.viewPoisoned (s : State) (id : CmdId) (v : View) (k off n : Nat) : Bool :=
  (pagePieces (n / 16384 + 2) off n).any (fun x => s.poisoned (s.pageBase id v k (x.1 / 16384) + x.1) x.2)

/-- The first write of a run to a page of a shadow takes the page's other bytes from the bound generation, poison with them (R196, R222): what
of it the run does not overwrite fails the command at its commit (R178). -/
def State.openPage (s : State) (p : Nat) (id : CmdId) (v : View) (h k pg : Nat) : State :=
  match s.shadow? id h with
  | none => s
  | some sh =>
    if (k, pg) ∈ sh.written then s
    else
      let n := min 16384 (v.desc.partBytes k - pg * 16384)
      let dst := sh.bases.getD k 0 + pg * 16384
      let s := if v.bases.getD k 0 = 0 then s.devWr p dst (zeros n) else s.devCopy p (v.bases.getD k 0 + pg * 16384) dst n
      let mark (x : Shadow) : Shadow := { x with written := x.written ++ [(k, pg)], setFlags := x.setFlags ||| partFlag k }
      s.updBinding id (fun b => { b with shadows := mapIf (fun x => x.tensor = h) mark b.shadows })

/-- Writes bytes at `off` of part `k` through a view: a shadow (R174), tidepool, or the host window (R167). -/
def State.viewWr (s : State) (p : Nat) (id : CmdId) (v : View) (k off : Nat) (bs : Bytes) : State :=
  match v.shadow with
  | none => s.devWr p (v.bases.getD k 0 + off) bs
  | some h =>
    let base := ((s.shadow? id h).map (fun sh => sh.bases.getD k 0)).getD 0
    if inHostWindow base then s.devWr p (base + off) bs
    else
      let s := (pagePieces (bs.length / 16384 + 2) off bs.length).foldl (fun s x =>
        (s.openPage p id v h k (x.1 / 16384)).devWr p (base + x.1) ((bs.drop (x.1 - off)).take x.2)) s
      let note (x : Shadow) : Shadow := { x with wrote := joinSpan x.wrote k off bs.length }
      s.updBinding id (fun b => { b with shadows := mapIf (fun x => x.tensor = h) note b.shadows })

/-! ### Elements -/

/-- The codes of row `r`, all `stored0` of them. -/
def State.rowCodes (s : State) (p : Nat) (id : CmdId) (v : View) (r : Nat) : List Nat :=
  let d := v.desc
  let w := fmtBits d.format
  let bs := s.viewRd p id v 0 (d.rowOff r) (packedLen w d.stored0)
  (List.range (d.ext 0)).map (packedCode w bs)

/-- Scale and zero point of channel `c` (R146); 1.0 and 0 without scale data (R98, R679). -/
def State.scaleOf (s : State) (p : Nat) (id : CmdId) (v : View) (c : Nat) : W32 × Int :=
  if v.desc.holds 2 then
    let e := if v.desc.channelAxis = 0 then 0 else c
    let bs := s.viewRd p id v 2 (8 * e) 6
    (BitVec.ofNat 32 (field bs 0 4), signedOf 16 (field bs 4 2))
  else (0x3F800000#32, 0)

/-- The channel that element `c` of row `r` belongs to. -/
def Desc.channelAt (d : Desc) (r c : Nat) : Nat :=
  match d.channelAxis with
  | 0 => 0
  | 1 => c
  | a + 1 => d.rowIdx r a

/-- Entry `i` of the sums vector (R680: zero without one). -/
def State.sumOf (s : State) (p : Nat) (id : CmdId) (v : View) (i : Nat) : Int :=
  if v.desc.holds 3 then signedOf 32 (ofLe (s.viewRd p id v 3 (4 * i) 4)) else 0

/-- The E8 of the block that holds element `c` of row `r`. -/
def State.expOf (s : State) (p : Nat) (id : CmdId) (v : View) (r c : Nat) : Nat :=
  if blockSize v.desc.format = 0 then 127 else ofLe (s.viewRd p id v 1 (v.desc.expIdx r c) 1)

/-- The LB32 blocks of row `r` (R455). -/
def State.rowLb32 (s : State) (p : Nat) (id : CmdId) (v : View) (r : Nat) : List Lb32 :=
  let n := ceilDiv (v.desc.ext 0) 32
  (List.range n).map (fun b => lbOfBytes (s.viewRd p id v 0 (v.desc.rowOff r + 100 * b) 100))

/-- The values of row `r` as the VE reads them (R44, R46, R49, R111): `conf` keeps subnormals, `deq` applies S × (q − z). -/
def State.rowNums (s : State) (p : Nat) (id : CmdId) (v : View) (conf deq : Bool) (r : Nat) : List Num :=
  let d := v.desc
  if d.format = 0x11 then
    ((s.rowLb32 p id v r).flatMap (fun b => if b.exp = 255 then b.e.map (fun _ => Num.nan) else b.e.map (fun x => lbValue x b.exp))).take (d.ext 0)
  else
    match fmtOf d.format with
    | none => []
    | some fm =>
      (s.rowCodes p id v r).zipIdx.map (fun x =>
        let n := decodeElem fm conf (s.expOf p id v r x.2) x.1
        match fm with
        | .int .. =>
          if deq then
            let (sc, z) := s.scaleOf p id v (d.channelAt r x.2)
            (n.add false (Num.ofInt (-z))).mul (fltF32.decode conf sc.toNat)
          else n
        | _ => n)

/-- Overwrites the codes of row `r` from element `c0` on (whole bytes of the row are read back and rewritten). -/
def State.putCodes (s : State) (p : Nat) (id : CmdId) (v : View) (r c0 : Nat) (cs : List Nat) : State :=
  let d := v.desc
  let w := fmtBits d.format
  let lo := c0 * w / 8
  let hi := packedLen w (c0 + cs.length)
  let old := s.viewRd p id v 0 (d.rowOff r + lo) (hi - lo)
  let keep (i : Nat) : Nat := packedCode 1 old i
  let first := c0 * w - lo * 8
  let bitsNew := (List.range (8 * (hi - lo))).map (fun i =>
    if first ≤ i && i < first + cs.length * w then bits (cs.getD ((i - first) / w) 0) ((i - first) % w) 1 else keep i)
  s.viewWr p id v 0 (d.rowOff r + lo) (packCodes 1 bitsNew)

end Sys2Proof.Machine
end

