-- ==== Sys2Proof/Machine/Mesh.lean ====
section
/-!
DEFINITION. The mesh of compute dies (chapter *The Nimkar package and its five levels*): which links there are (R15), the routes between
dies (R16, R621), and the die through which a flash channel is reached (R18).
-/
namespace Sys2Proof.Machine

open Sys2Proof

/-- Whether a unit (R618) is out of service. -/
def State.unitDown (s : State) (kind idx : Nat) : Bool := decide (kind * 4096 + idx ∈ s.health.log.outOfService)

/-- Dies in each of the two rows of a package with `n` compute dies. -/
def rowLen (n : Nat) : Nat := max 1 (n / 2)

/-- Whether a mesh link joins two dies (R15): they stand side by side in one row, or opposite each other. -/
def meshLink (n a b : Nat) : Bool :=
  let w := rowLen n
  decide (a < n) && decide (b < n) &&
    ((a / w == b / w && (a + 1 == b || b + 1 == a)) || (a / w != b / w && a % w == b % w))

/-- Whether data may cross a mesh link: it exists, it is in service (R619), and so are the dies at its ends. -/
def State.meshUp (s : State) (a b : Nat) : Bool :=
  meshLink (Variant.dies s.variant) a b && !s.unitDown 9 (min a b * 8 + max a b) && s.dieUp a && s.dieUp b

/-- Dies of one row from column `ca` to column `cb`. -/
def alongRow (row ca cb : Nat) : List Nat :=
  if ca ≤ cb then (List.range (cb - ca + 1)).map (fun i => row + ca + i) else (List.range (ca - cb + 1)).map (fun i => row + ca - i)

/-- The dies that the fixed route of R16 passes: along the source's row to the destination's column, then across. -/
def routeDies (n a b : Nat) : List Nat :=
  let w := rowLen n
  let along := alongRow (a / w * w) (a % w) (b % w)
  if a / w = b / w then along else along ++ [b]

/-- The second route of R621: first across to the other row, then along that row. -/
def routeAcross (n a b : Nat) : List Nat :=
  let w := rowLen n
  a :: alongRow (b / w * w) (a % w) (b % w)

/-- Whether every link of a route may carry data. -/
def State.routeUp (s : State) : List Nat → Bool
  | a :: b :: r => s.meshUp a b && s.routeUp (b :: r)
  | _ => true

/-- The dies from which `b` is at most so many hops away over links in service. -/
def State.within (s : State) (b : Nat) : Nat → List Nat
  | 0 => [b]
  | k + 1 => (List.range (Variant.dies s.variant)).filter (fun d => decide (d ∈ s.within b k) || (s.within b k).any (s.meshUp d))

/-- The route of `k` hops from `a` to `b`, at each hop to the lower-numbered die of those that keep it shortest (R621). -/
def State.hopsTo (s : State) (b : Nat) : Nat → Nat → List Nat
  | 0, a => [a]
  | k + 1, a =>
    match firstBelow (Variant.dies s.variant) (fun d => s.meshUp a d && decide (d ∈ s.within b k)) with
    | some d => a :: s.hopsTo b k d
    | none => [a]

/-- The dies that a transfer between two compute dies passes (R16), rerouted around links out of service (R621); none when nothing
reaches the other die. -/
def State.route (s : State) (a b : Nat) : List Nat :=
  let n := Variant.dies s.variant
  if s.routeUp (routeDies n a b) then routeDies n a b
  else if a / rowLen n ≠ b / rowLen n && s.routeUp (routeAcross n a b) then routeAcross n a b
  else
    match firstBelow n (fun k => decide (a ∈ s.within b k)) with
    | some k => s.hopsTo b k a
    | none => []

/-- Mesh hops of a route; more than any route has where there is none. -/
def hops (r : List Nat) : Nat := if r.isEmpty then 64 else r.length - 1

/-- The compute die through which a walker or copy engine of a die reaches a flash channel (R18): its own die where the flash-interface
die serves it, else the attached die that is fewer hops away, the lower-numbered on a tie. -/
def State.entryDie (s : State) (die channel : Nat) : Nat :=
  let lo := channel / 32 * 2
  if die / 2 = channel / 32 then die
  else if hops (s.route die (lo + 1)) < hops (s.route die lo) then lo + 1 else lo

/-- Whether two neighbouring dies of a route are the ends of a mesh link. -/
def usesLink (lo hi : Nat) : List Nat → Bool
  | a :: b :: r => (min a b == lo && max a b == hi) || usesLink lo hi (b :: r)
  | _ => false

/-- Whether data between two dies, in either direction, passes a mesh link. -/
def State.crosses (s : State) (lo hi a b : Nat) : Bool := usesLink lo hi (s.route a b) || usesLink lo hi (s.route b a)

/-- Whether a die in service has no route to any other die in service, while there is one (R621). -/
def State.dieCut (s : State) (d : Nat) : Bool :=
  s.dieUp d && s.power.diesInService.any (· != d) && !(List.range (Variant.dies s.variant)).any (s.meshUp d)

end Sys2Proof.Machine
end

