-- ==== Sys2Proof/Machine/Units.lean ====
section
/-!
DEFINITION. The units that can leave service (R618): their codes, which of them a variant has, what is in service, and the record of a fault.
-/
namespace Sys2Proof.Machine

open Sys2Proof

/-! ### Units (R618) -/

/-- The kind of a unit code. -/
def unitKind (u : Nat) : Nat := u / 4096

/-- The index of a unit code. -/
def unitIdx (u : Nat) : Nat := u % 4096

/-- Whether the variant has a unit (R12, R618). -/
def State.unitExists (s : State) (u : Nat) : Bool :=
  let n := Variant.dies s.variant
  let i := unitIdx u
  match unitKind u with
  | 0x1 => decide (i < 16 * n)
  | 0x2 => decide (i < 4 * n)
  | 0x3 => decide (i < 32)
  | 0x4 => decide (i < 32 * n)
  | 0x5 => decide (i < 4 * n)
  | 0x6 => decide (i < 512 * n)
  | 0x7 => decide (i / 8 < 16 * n)
  | 0x8 => decide (i < 16 * n)
  | 0x9 => decide (i / 8 < i % 8) && decide (i / 8 < 8) && meshLink n (i / 8) (i % 8)
  | 0xA => decide (i < n)
  | 0xB => decide (i < 3 * n)
  | 0xC => decide (i < n)
  | 0xD => decide (2 * i < n)
  | 0xE => decide (i < 8)
  | 0xF => decide (i < 32)
  | 0x0 => decide (i < 3)
  | _ => false

/-- The compute die that a die or stack code names (R618). -/
def dieOfUnit (u : Nat) : Option Nat :=
  if unitKind u == 0xA then some (unitIdx u) else if unitKind u == 0xB then some (unitIdx u / 3) else none

/-- The codes of a compute die and its three stacks, which leave service together (R619, R682). -/
def dieCodes (d : Nat) : List Nat := [0xA000 + d, 0xB000 + 3 * d, 0xB000 + 3 * d + 1, 0xB000 + 3 * d + 2]

/-- Marks a unit out of service without recording a fault of its own. -/
def State.putOut (s : State) (u : Nat) : State :=
  { s with health := { s.health with log := { s.health.log with outOfService := addOnce u s.health.log.outOfService } } }

/-! ### Units out of service -/

/-- Takes a unit (R618) out of service and records the interrupting fault: event 0x009, INTERRUPTS, FAULTS (R619, R634). `action` is
the ACTION of R634; the time that bystanders were held is a free value of at most 500 µs (R622). -/
def State.recordFault (s : State) (unit action killed : Nat) : State :=
  let (s, v) := s.freeNat
  let e : FaultEntry := { unit := unit, action := action, powerOnS := capAt 0xFFFFFFFF (s.health.log.powerOnMs / 1000), killed := killed, heldUs := v % 501 }
  { s with health := { s.health with log := { s.health.log with
      interrupts := s.health.log.interrupts + 1
      faults := (e :: s.health.log.faults).take 16
      outOfService := if action = 0 then s.health.log.outOfService else addOnce unit s.health.log.outOfService } } }

/-- Event 0x009: the index in SOURCE, the kind in DETAIL (R618). -/
def State.unitEvent (s : State) (unit : Nat) : State := s.raise 9 (unit % 4096) (unit / 4096) .device

/-- Whether background flash work may run: not in a flush or a drain, and not before the map is there (R364, R376). -/
def State.flashFree (s : State) : Bool := s.power.storageReady && !s.power.flushing && !s.power.draining && !s.power.flushed

/-! ### Units in service -/

/-- Whether a core is in service: itself, its cluster and its die. -/
def State.coreUp (s : State) (c : Nat) : Bool :=
  !s.unitDown 4 c && !s.unitDown 5 (c / 8) && s.dieUp (c / 32)

/-- Whether all eight cores of a flat cluster are in service. -/
def State.clusterWhole (s : State) (k : Nat) : Bool := (List.range 8).all (fun i => s.coreUp (8 * k + i))

/-- The cores that declared cores run on, in order (R194). -/
def State.runCores (s : State) (p : Nat) : List Nat :=
  ((maskList (Variant.clusters s.variant) (s.entry p).clusterMask).filter s.clusterWhole).flatMap
    (fun k => (List.range 8).map (8 * k + ·))

/-- The partition that owns a flat cluster. -/
def State.clusterOwner (s : State) (k : Nat) : Option Nat := (List.range 8).find? (fun p => s.hasPart p && bitAt (s.entry p).clusterMask k)

/-- Whether a flat cluster is in service, and so not power-gated (R603). -/
def State.clusterUp (s : State) (k : Nat) : Bool := s.dieUp (k / 4) && decide (0x5000 + k ∉ s.health.log.outOfService)

/-- Whether the partition of a core powers a bank of its tidepools (R154, R234). -/
def State.bankPowered (s : State) (core bank : Nat) : Bool :=
  match s.clusterOwner (core / 8) with
  | some p => bitAt (s.entry p).tpBankMask bank
  | none => false

end Sys2Proof.Machine
end

