-- ==== Sys2Proof/Machine/Nand.lean ====
section
/-!
DEFINITION. NAND under the flash store (chapter *Flash store*): the page map's entries and its journal, channel groups, superblocks and their
blocks, capacity and spare space, what is valid, where the next program goes, and the programs and reads themselves.
-/
namespace Sys2Proof.Machine

open Sys2Proof

/-! ### The page map -/

/-- LOC of an unmapped unit (R325). -/
def unmappedLoc : Nat := 0x3FFFFFFFF

def MapEntry.unmapped : MapEntry := { poison := 0, mirror := false, buf := false, loc := unmappedLoc }

/-- The 40-bit code of a map entry (*Map entry layout* table, R325). -/
def MapEntry.code (e : MapEntry) : Nat :=
  e.poison % 16 * 2 ^ 36 + (if e.mirror then 2 ^ 35 else 0) + (if e.buf then 2 ^ 34 else 0) + e.loc % 2 ^ 34

/-- A map entry read from its 40 bits. -/
def mapEntryOf (v : Nat) : MapEntry :=
  { poison := bits v 36 4, mirror := bitAt v 35, buf := bitAt v 34, loc := bits v 0 34 }

/-- Whether an entry names a NAND location. -/
def MapEntry.onNand (e : MapEntry) : Bool := !e.buf && e.loc != unmappedLoc

def State.mapAt (s : State) (ns unit : Nat) : MapEntry := (alookup (ns, unit) s.flash.map).getD MapEntry.unmapped

def State.mapSet (s : State) (ns unit : Nat) (e : MapEntry) : State :=
  { s with flash := { s.flash with
      map := if e = MapEntry.unmapped then aerase (ns, unit) s.flash.map else ainsert (ns, unit) e s.flash.map } }

/-- The compute die that holds the map segment of a unit (R326): the named die, or the next in service. -/
def State.unitDie (s : State) (unit : Nat) : Nat :=
  let n := Variant.dies s.variant
  let d := unit / 2 ^ 20 % n
  ((List.range n).map (fun i => (d + i) % n)).find? s.dieUp |>.getD d

/-- Map segment of a unit (R326). -/
def segOf (unit : Nat) : Nat := unit / 2 ^ 20

/-! ### The journal (R337) -/

/-- Adds a journal record of a journal group (R337, R370). -/
def State.journalIn (s : State) (gid gsize seq ns unit : Nat) (e : MapEntry) (kind : Nat) : State :=
  { s with flash := { s.flash with jbuf := s.flash.jbuf ++
      [{ seq := seq, unit := unit, ns := ns, entry := e, kind := kind, die := s.unitDie unit, gid := gid, gsize := gsize, loc := 0 }] } }

/-- Opens a journal group. -/
def State.newGroup (s : State) : State × Nat := ({ s with flash := { s.flash with nextGid := s.flash.nextGid + 1 } }, s.flash.nextGid)

/-- Adds a journal record that is a group of its own. -/
def State.journal (s : State) (seq ns unit : Nat) (e : MapEntry) (kind : Nat) : State :=
  let (s, g) := s.newGroup
  s.journalIn g 1 seq ns unit e kind

/-- The 24 bytes of a journal record (*Journal record layout* table, R337). -/
def JRec.bytes (r : JRec) : Bytes :=
  let b := leBytes 8 r.seq ++ leBytes 5 r.unit ++ leBytes 1 r.ns ++ leBytes 5 r.entry.code ++ leBytes 1 r.kind
  b ++ leBytes 4 (crc32 b)

/-- The block that a block event names. -/
def JRec.block (r : JRec) : BlockAt :=
  { group := r.entry.loc / 2 ^ 31, member := r.entry.loc / 2 ^ 27 % 16, lun := r.entry.loc / 2 ^ 24 % 8, block := r.unit }

/-- Applies a journal record to a map (R337, R376). -/
def applyRec (m : List ((Nat × Nat) × MapEntry)) (r : JRec) : List ((Nat × Nat) × MapEntry) :=
  if r.kind = 0 then ainsert (r.ns, r.unit) r.entry m else m

/-- The newest checkpoint of a map segment (R339). -/
def FlashSt.ckpt? (f : FlashSt) (ns seg : Nat) : Option Ckpt := leastBy (fun a b => decide (b.gid < a.gid)) (f.ckpts.filter (fun c => c.ns = ns && c.seg == seg))

/-- Whether a segment's newest checkpoint covers a record. -/
def FlashSt.covered (f : FlashSt) (ns seg gid : Nat) : Bool := ((f.ckpt? ns seg).map (fun c => decide (gid < c.gid))).getD false

/-- Whether every record of a durable record's journal group is durable (R374, R376). -/
def FlashSt.whole (f : FlashSt) (r : JRec) : Bool := decide (r.gsize ≤ (f.jdur.filter (fun x => x.gid = r.gid)).length)

/-- The map that the newest checkpoints and the written journal give (R339, R376): the records above each checkpoint, of whole groups, in ascending
SEQ; records of one SEQ in the order of the journal (log entry 79). -/
def FlashSt.durableMap (f : FlashSt) : List ((Nat × Nat) × MapEntry) :=
  let base := (f.ckpts.filter (fun c => f.ckpt? c.ns c.seg = some c)).flatMap (fun c => c.ents.map (fun e => ((c.ns, e.1), e.2)))
  let recs := f.jdur.filter (fun r => r.kind == 0 && !f.covered r.ns (segOf r.unit) r.gid && f.whole r)
  (sortBy (fun a b => seqLt a.seq b.seq) recs).foldl applyRec base

/-! ### Channel groups (R309 to R316) -/

/-- What is fitted on a group and its profile, where it is in use. -/
def FlashSt.inUse (f : FlashSt) (g : Nat) : Option (GroupFit × Profile) :=
  match f.fits[g]?, alookup g f.profile with
  | some fit, some pr => some (fit, pr)
  | _, _ => none

/-- The profile of a group. -/
def FlashSt.profileOf (f : FlashSt) (g : Nat) : Option Profile := alookup g f.profile

/-- LUNs per channel of a group in use. -/
def FlashSt.luns (f : FlashSt) (g : Nat) : Nat := ((f.inUse g).map (fun x => x.1.luns)).getD 0

/-- Pages per block of a group in use. -/
def FlashSt.ppb (f : FlashSt) (g : Nat) : Nat := ((f.inUse g).map (fun x => x.2.ppb)).getD 0

/-- Blocks per LUN set aside for SLC superblocks and for retirement (R316). -/
def slcBlocks (blocks : Nat) : Nat := blocks / 64

def retireBlocks (blocks : Nat) : Nat := blocks / 32

/-- Blocks per LUN that carry data. -/
def Profile.dataBlocks (p : Profile) : Nat := p.blocks - slcBlocks p.blocks - retireBlocks p.blocks

/-- Native superblocks that carry data on a group. -/
def FlashSt.dataSbs (f : FlashSt) (g : Nat) : Nat := ((f.inUse g).map (fun x => x.1.luns * x.2.dataBlocks)).getD 0

/-- Its SLC superblocks, whose numbers follow those. -/
def FlashSt.slcSbs (f : FlashSt) (g : Nat) : Nat := ((f.inUse g).map (fun x => x.1.luns * slcBlocks x.2.blocks)).getD 0

/-- Pages per block in the mode of a superblock: one bit to a cell in SLC mode (R315; log entry 80). -/
def FlashSt.pagesPer (f : FlashSt) (g : Nat) (use : SbUse) : Nat :=
  match f.inUse g with
  | some (_, pr) => if use = .data then pr.ppb else pr.ppb / max 1 pr.cell
  | none => 0

/-- Groups in use, ascending. -/
def FlashSt.groups (f : FlashSt) : List Nat := (List.range 8).filter (fun g => f.groupState.getD g 0 = 1)

/-- The LUNs that have failed, each once: (channel, LUN) (R351). -/
def FlashSt.failedLuns (f : FlashSt) : List (Nat × Nat) :=
  (f.failed.flatMap (fun x => match x.2 with
    | some l => [(x.1, l)]
    | none => (List.range (f.luns (x.1 / 16))).map (fun l => (x.1, l)))).eraseDups

/-- Whether a location lies on a failed channel or LUN (R351). -/
def FlashSt.failedAt (f : FlashSt) (loc : Nat) : Bool :=
  f.failed.any (fun x => x.1 == loc / 2 ^ 27 && (x.2 == none || x.2 == some (loc / 2 ^ 24 % 8)))

/-- Whether a block lies on one. -/
def FlashSt.blockFailed (f : FlashSt) (b : BlockAt) : Bool := f.failed.any (fun x => x.1 == 16 * b.group + b.member && (x.2 == none || x.2 == some b.lun))

/-! ### Superblocks and their blocks (R314) -/

/-- The block of a location, and the page within it. -/
def FlashSt.blockOf (f : FlashSt) (loc : Nat) : BlockAt × Nat :=
  let ch := loc / 2 ^ 27
  let ppb := f.ppb (ch / 16)
  ({ group := ch / 16, member := ch % 16, lun := loc / 2 ^ 24 % 8, block := loc % 2 ^ 24 / ppb }, loc % 2 ^ 24 % ppb)

/-- The block of a superblock's member. -/
def Superblock.blockAt (x : Superblock) (m : Nat) : BlockAt := { group := x.group, member := m, lun := x.lun, block := x.blocks.getD m 0 }

/-- Whether a superblock has a block. -/
def Superblock.has (x : Superblock) (b : BlockAt) : Bool := x.group == b.group && x.lun == b.lun && x.blocks[b.member]? == some b.block

/-- The location of a page of a superblock: LOC of R325. -/
def Superblock.pageLoc (x : Superblock) (ppb m row : Nat) : Nat := (16 * x.group + m) * 2 ^ 27 + x.lun * 2 ^ 24 + (x.blocks.getD m 0 * ppb + row)

/-- The member that holds the parity of a row (R314). -/
def Superblock.parity (x : Superblock) (row : Nat) : Nat := (x.sb + row) % 16

/-- The location of data page `u` of a superblock: row u div 15, the parity member left out (R314). -/
def Superblock.loc (x : Superblock) (ppb u : Nat) : Nat :=
  let j := u % 15
  x.pageLoc ppb (if j < x.parity (u / 15) then j else j + 1) (u / 15)

/-- Its erase count: that of its most erased member (R341). -/
def Superblock.eraseCount (x : Superblock) : Nat := x.erases.foldl max 0

/-- Whether it takes programs. -/
def Superblock.isOpen (x : Superblock) : Bool := x.state = .openHost || x.state = .openGc || x.state = .openPair || x.state = .openPairGc

/-- A superblock as the device finds it: its blocks stand at one place on every member (log entry 80). -/
def FlashSt.freshSb (f : FlashSt) (g n : Nat) (use : SbUse) : Superblock :=
  let luns := max 1 (f.luns g)
  { group := g, sb := n, lun := n % luns, state := .free, use := use, blocks := List.replicate 16 (n / luns), erases := List.replicate 16 0, nextUnit := 0
    closedAt := 0, reads := List.replicate 16 0, refresh := false }

def State.sb? (s : State) (g n : Nat) : Option Superblock := s.flash.sbs.find? (fun x => x.group = g && x.sb = n)

def State.updSb (s : State) (g n : Nat) (f : Superblock → Superblock) : State :=
  { s with flash := { s.flash with sbs := mapIf (fun x => x.group = g && x.sb = n) f s.flash.sbs } }

/-- Puts a superblock in place of the one of its number. -/
def State.putSb (s : State) (x : Superblock) : State :=
  { s with flash := { s.flash with sbs := s.flash.sbs.filter (fun y => !(y.group = x.group && y.sb = x.sb)) ++ [x] } }

/-- The superblock that a location lies in. -/
def State.sbOf (s : State) (loc : Nat) : Option Superblock := s.flash.sbs.find? (fun x => x.has (s.flash.blockOf loc).1)

/-- The number of the superblock that a location lies in, or lay in before its block was retired. -/
def State.sbNoOf (s : State) (loc : Nat) : Option Nat :=
  match s.sbOf loc with
  | some x => some x.sb
  | none => (s.flash.retired.find? (fun r => r.1 = (s.flash.blockOf loc).1)).map (·.2)

/-- Where the second copy of a mirrored unit lies: the same member position and row of the paired superblock (R302, R325). -/
def State.mirrorOf (s : State) (loc : Nat) : Nat :=
  let (b, row) := s.flash.blockOf loc
  match (s.sbNoOf loc).bind (s.sb? (b.group + 1)) with
  | some y => y.pageLoc (s.flash.ppb (b.group + 1)) b.member row
  | none => loc + 16 * 2 ^ 27

/-- Whether an entry names a NAND location, itself or through its mirror. -/
def State.names (s : State) (e : MapEntry) (loc : Nat) : Bool := e.onNand && (e.loc == loc || (e.mirror && s.mirrorOf e.loc == loc))

/-- Pages programmed in a superblock's blocks. -/
def State.pagesIn (s : State) (x : Superblock) : List NandPage := s.flash.nand.filter (fun p => x.has (s.flash.blockOf p.loc).1)

/-- The same, with those of blocks that have been retired from it. -/
def State.pagesOf (s : State) (x : Superblock) : List NandPage :=
  s.flash.nand.filter (fun p =>
    let b := (s.flash.blockOf p.loc).1
    x.has b || (b.group == x.group && s.flash.retired.contains (b, x.sb)))

/-- Places where a program is under way: of write-buffer slots, and of copies. -/
def State.inFlight (s : State) : List Nat :=
  (s.flash.slots.flatMap (fun x => match x.programming with
    | some l => if x.verified then [] else if x.mirror then [l, s.mirrorOf l] else [l]
    | none => [])) ++ s.flash.copies.flatMap (fun c => if c.mirror then [c.loc, s.mirrorOf c.loc] else [c.loc])

/-- Whether a program is under way in a superblock. -/
def State.busySb (s : State) (x : Superblock) : Bool := s.inFlight.any (fun l => x.has (s.flash.blockOf l).1)

/-! ### What is valid (R371) -/

/-- Whether a page is valid: the map names it or the durable map does, or it holds journal records or a checkpoint that still count. -/
def State.pageValid (s : State) (dur : List ((Nat × Nat) × MapEntry)) (p : NandPage) : Bool :=
  if p.ns = 0xFF then false
  else if p.ns = 0xFE then s.flash.jdur.any (fun r => r.loc = p.loc) || s.flash.ckpts.any (fun c => c.pages.contains p.loc)
  else s.names (s.mapAt p.ns p.unit) p.loc || s.names ((alookup (p.ns, p.unit) dur).getD MapEntry.unmapped) p.loc

/-- valid_units of R340. -/
def State.validUnits (s : State) (dur : List ((Nat × Nat) × MapEntry)) (x : Superblock) : Nat := ((s.pagesIn x).filter (s.pageValid dur)).length

/-! ### Retirement reserve, capacity and spare space (R350 to R355) -/

/-- The initial retirement reserve of one LUN: the last of its blocks (log entry 80). -/
def FlashSt.reserveRange (f : FlashSt) (g : Nat) : List Nat :=
  match f.inUse g with
  | some (_, pr) => (List.range (retireBlocks pr.blocks)).map (· + (pr.blocks - retireBlocks pr.blocks))
  | none => []

/-- Unused reserve blocks of a member at a LUN, with the erases that each has had. -/
def FlashSt.reserveOf (f : FlashSt) (g m lun : Nat) : List (BlockAt × Nat) :=
  let at_ (b : Nat) : BlockAt := { group := g, member := m, lun := lun, block := b }
  if f.blockFailed (at_ 0) then []
  else
    let first := ((f.reserveRange g).map (fun b => (at_ b, 0))).filter (fun (b : BlockAt × Nat) => f.joined.all (fun (j : BlockAt × Nat) => j.1 ≠ b.1))
    (first ++ f.joined.filter (fun (b : BlockAt × Nat) => b.1.group = g && b.1.member == m && b.1.lun == lun)).filter (fun (b : BlockAt × Nat) => b.1 ∉ f.taken)

/-- Initial retirement-reserve blocks over all groups in use (R352). -/
def FlashSt.reserveInitial (f : FlashSt) : Nat := (f.groups.map (fun g => 16 * f.luns g * (f.reserveRange g).length)).sum

/-- Unused ones: those of failed LUNs have left (R351). -/
def FlashSt.reserveUnused (f : FlashSt) : Nat :=
  let dead := ((f.failedLuns.filter (fun x => x.1 / 16 ∈ f.groups)).map (fun x => (f.reserveRange (x.1 / 16)).length)).sum
  let counts (b : BlockAt) : Bool := !f.blockFailed b && f.groups.contains b.group
  let later := f.joined.filter (fun (b : BlockAt × Nat) => counts b.1 && !(f.reserveRange b.1.group).contains b.1.block)
  f.reserveInitial + later.length - dead - (f.taken.filter counts).length

/-- Superblocks of a group that have been dissolved (R350), on the LUNs that `p` picks. -/
def FlashSt.dissolved (f : FlashSt) (g : Nat) (p : Nat → Bool) : Nat := (f.sbs.filter (fun x => x.group = g && x.state = .dissolved && p x.lun)).length

/-- Data capacity in 4 KiB blocks (R316, R350, R351, R539): a dissolved superblock has left it, and with a failed LUN the data that its blocks carry,
15/16 of them. -/
def FlashSt.dataCapacity (f : FlashSt) : Nat :=
  let live := (f.groups.map (fun g => (f.dataSbs g - f.dissolved g (fun _ => true)) * 15 * f.ppb g)).sum
  let dead := ((f.failedLuns.filter (fun x => x.1 / 16 ∈ f.groups)).map (fun x =>
    let g := x.1 / 16
    (f.dataSbs g / max 1 (f.luns g) - f.dissolved g (· == x.2)) * f.ppb g * 15)).sum
  4 * (live - dead / 16)

/-- The same with nothing retired or failed. -/
def FlashSt.fullCapacity (f : FlashSt) : Nat := 4 * (f.groups.map (fun g => f.dataSbs g * 15 * f.ppb g)).sum

/-- Data capacity that a namespace takes at an over-provisioning of `op` percent (R317), rounded up. -/
def nsTakes (capacity op : Nat) : Nat := ceilDiv (capacity * 100) (100 - op)

/-- Data capacity that all namespaces take. -/
def FlashSt.allocated (f : FlashSt) : Nat := (f.ns.map (fun n => nsTakes n.capacity n.op)).sum

/-- Spare space left in percent (R352). -/
def FlashSt.sparePct (f : FlashSt) : Nat := if f.reserveInitial = 0 then 0 else 100 * f.reserveUnused / f.reserveInitial

/-- Whether the store is in the state of R354: retirements and failures, not a group that is merely unused, leave less than the namespaces take. -/
def FlashSt.shortOfData (f : FlashSt) : Bool :=
  decide (f.dataCapacity < (f.ns.map (fun n => nsTakes n.capacity 7)).sum) && decide (f.dataCapacity < f.fullCapacity)

/-- Tests the state of R354 again, with the third event of R355 where the store enters it. -/
def State.testReadOnly (s : State) : State :=
  let was := s.flash.readOnly
  let s := { s with flash := { s.flash with readOnly := s.flash.shortOfData } }
  if s.flash.readOnly && !was && decide (0 < s.flash.reserveInitial) then s.raise 4 0 0 .device else s

/-- Raises the events of R355 after retirements and failures, and enters the state of R354 or leaves it. -/
def State.spareEvents (s : State) : State :=
  let pct := s.flash.sparePct
  let live := decide (0 < s.flash.reserveInitial)
  let s := if live && decide (pct ≤ 10) && !s.flash.raised10 then
      { s with flash := { s.flash with raised10 := true } }.raise 2 0 pct .device else s
  let s := if live && pct == 0 && !s.flash.raised0 then
      { s with flash := { s.flash with raised0 := true } }.raise 3 0 0 .device else s
  s.testReadOnly

/-! ### Victims and waiting host programs (R340, R342) -/

/-- The score of R340 times 15 · PPB · 256 · AGE_REF: lower is better. Ages count in microseconds on `now`. -/
def State.gcScore (s : State) (dur : List ((Nat × Nat) × MapEntry)) (x : Superblock) : Int :=
  let ppb := s.flash.ppb x.group
  let ref := s.cfg.tunables.getD 3 24 * 3600000000
  let bias := s.cfg.tunables.getD 2 64
  let age := min ref (s.now - x.closedAt)
  ((s.validUnits dur x * 256 * ref : Nat) : Int) - ((bias * age * (15 * ppb) : Nat) : Int)

/-- The victim of garbage collection (R340): a closed superblock of data, none of whose programs is still under way. -/
def State.victim (s : State) (g : Nat) : Option Superblock :=
  let dur := s.flash.durableMap
  leastBy (fun a b => decide (s.gcScore dur a < s.gcScore dur b) || (s.gcScore dur a == s.gcScore dur b && decide (a.eraseCount < b.eraseCount)))
    (s.flash.sbs.filter (fun x => x.group = g && x.use = .data && x.state = .closed && !s.busySb x))

/-- The number of free superblocks of a group for data (R342). -/
def State.freeCountOf (s : State) (g : Nat) : Nat :=
  s.flash.dataSbs g - (s.flash.sbs.filter (fun x => x.group = g && x.use = .data && x.state ≠ .free)).length

/-- Whether the collection of a superblock can go on: some page of it is still to be copied, or is being copied. What only the durable map names waits
for the program of the slot that superseded it (R330, R371). -/
def State.copiesDue (s : State) (x : Superblock) : Bool :=
  s.flash.copies.any (fun c => x.has (s.flash.blockOf c.src).1) || (s.pagesIn x).any (fun p => s.names (s.mapAt p.ns p.unit) p.loc)

/-- Whether host programs of a group wait for its background work (R342): three free superblocks or fewer, and collection that can go on. -/
def State.hostWaits (s : State) (g : Nat) : Bool :=
  let mine := s.flash.sbs.filter (fun x => x.group = g && x.use = .data)
  decide (s.freeCountOf g ≤ 3) &&
    (mine.any (fun x => x.state = .eraseDue || x.state = .erasing) ||
      (match mine.find? (fun x => x.state = .collecting) with
       | some x => s.copiesDue x
       | none => (s.victim g).isSome))

/-! ### The next place to program (R302, R314, R329, R341) -/

/-- Whether the ERASE_DONE of a superblock's erase is still in a journal buffer: a program before it is durable would be erased again at the next
start-up (R349; log entry 89). -/
def FlashSt.doneWaits (f : FlashSt) (x : Superblock) : Bool := f.jbuf.any (fun r => r.kind == 2 && x.has r.block)

/-- Free superblocks of a group: those used before, and the lowest that never was. -/
def State.freeSbs (s : State) (g : Nat) : List Superblock :=
  let known := s.flash.sbs.filter (fun x => x.group = g && x.use = .data)
  let free := known.filter (fun x => x.state = .free && !s.flash.doneWaits x)
  let used := known.map (·.sb)
  match firstBelow (min (s.flash.dataSbs g) (used.length + 1)) (fun i => i ∉ used) with
  | some i => s.flash.freshSb g i .data :: free
  | none => free

/-- Host writes open the superblock with the fewest erases, copies the one with the most (R341). -/
def sbBefore (gc : Bool) (a b : Nat) : Bool := if gc then decide (b < a) else decide (a < b)

/-- Opens a free superblock. -/
def State.opened (s : State) (x : Superblock) (state : SbState) : State := s.putSb { x with state := state, nextUnit := 0 }

/-- The open superblock of a kind in a group, opening one where none is (R341). -/
def State.openSb (s : State) (g : Nat) (gc : Bool) : State × Option Superblock :=
  let want := if gc then SbState.openGc else SbState.openHost
  match s.flash.sbs.find? (fun x => x.group = g && x.use = .data && x.state = want) with
  | some x => (s, some x)
  | none =>
    match leastBy (fun a b => sbBefore gc a.eraseCount b.eraseCount) (s.freeSbs g) with
    | none => (s, none)
    | some x =>
      let s := s.opened x want
      (s, s.sb? g x.sb)

/-- The next place of an open superblock, closing it when it is full. -/
def State.nextPlace (s : State) (x : Superblock) : State × Nat :=
  let full := x.nextUnit + 1 == 15 * s.flash.pagesPer x.group x.use
  let upd (y : Superblock) : Superblock :=
    { y with nextUnit := y.nextUnit + 1, state := if full then .closed else y.state, closedAt := if full then s.now else y.closedAt }
  (s.updSb x.group x.sb upd, x.loc (s.flash.ppb x.group) x.nextUnit)

/-- Takes the next place of an open superblock of a group, passing over failed members (R314, R351). -/
def State.takeGood (g : Nat) (gc : Bool) : Nat → State → State × Option Nat
  | 0, s => (s, none)
  | fuel + 1, s =>
    match s.openSb g gc with
    | (s, none) => (s, none)
    | (s, some x) =>
      let (s, loc) := s.nextPlace x
      if s.flash.failedAt loc then State.takeGood g gc fuel s else (s, some loc)

def State.takePlace (s : State) (g : Nat) (gc : Bool) : State × Option Nat := State.takeGood g gc 64 s

/-- The superblock number of an open pair of groups `g` and `g + 1`, or of the free pair with the fewest or the most erases (R302, R341). -/
def State.pairNo (s : State) (g : Nat) (gc : Bool) : Option Nat :=
  let want := if gc then SbState.openPairGc else SbState.openPair
  match s.flash.sbs.find? (fun x => x.group = g && x.state = want) with
  | some x => some x.sb
  | none =>
    let both := (s.freeSbs g).filterMap (fun x => ((s.freeSbs (g + 1)).find? (fun y => y.sb = x.sb)).map (fun y => (x.sb, max x.eraseCount y.eraseCount)))
    (leastBy (fun (a b : Nat × Nat) => sbBefore gc a.2 b.2) both).map (·.1)

/-- Takes the next place of a pair of superblocks of groups `g` and `g + 1`, opening a pair where none is (R302). -/
def State.takePair (g : Nat) (gc : Bool) : Nat → State → State × Option Nat
  | 0, s => (s, none)
  | fuel + 1, s =>
    let want := if gc then SbState.openPairGc else SbState.openPair
    match s.pairNo g gc with
    | none => (s, none)
    | some n =>
      let start (h : Nat) (s : State) : State :=
        match (s.freeSbs h).find? (fun x => x.sb = n) with
        | some x => s.opened x want
        | none => s
      let s := start (g + 1) (start g s)
      match s.sb? g n, s.sb? (g + 1) n with
      | some x, some y =>
        let (s, loc) := s.nextPlace x
        let (s, loc') := s.nextPlace y
        if s.flash.failedAt loc || s.flash.failedAt loc' then State.takePair g gc fuel s else (s, some loc)
      | _, _ => (s, none)

/-! ### SLC superblocks (R315, R316) -/

/-- Free SLC superblocks of every group in use, in order. -/
def State.freeSlc (s : State) : List Superblock :=
  s.flash.groups.flatMap (fun g =>
    (List.range (s.flash.slcSbs g)).filterMap (fun i =>
      match s.sb? g (s.flash.dataSbs g + i) with
      | some x => if x.state = .free && !s.flash.doneWaits x then some x else none
      | none => some (s.flash.freshSb g (s.flash.dataSbs g + i) .journal)))

/-- Takes the next place of an SLC superblock for a use, opening the least erased free one where none is open. -/
def State.takeSlc (use : SbUse) : Nat → State → State × Option Nat
  | 0, s => (s, none)
  | fuel + 1, s =>
    let pick := match s.flash.sbs.find? (fun x => x.use = use && x.state = .openHost) with
      | some x => some x
      | none => leastBy (fun a b => decide (a.eraseCount < b.eraseCount)) s.freeSlc
    match pick with
    | none => (s, none)
    | some x =>
      let y : Superblock := if x.state = .openHost then x else { x with use := use, state := .openHost, nextUnit := 0 }
      let (s, loc) := (s.putSb y).nextPlace y
      if s.flash.failedAt loc then State.takeSlc use fuel s else (s, some loc)

/-! ### Namespaces and their cipher (R320) -/

def State.ns? (s : State) (n : Nat) : Option Ns := s.flash.ns.find? (fun x => x.nsid = n)

/-- A 4 KiB block as a number that the cipher takes. -/
def blockBits (bs : Bytes) : BitVec 32768 := BitVec.ofNat 32768 (ofLe bs)

/-- What the NAND cells of an encrypted namespace hold for a block (R320): the ciphertext under its key generation and tweak. -/
def Ns.cipher (n : Ns) (lba : Nat) (bs : Bytes) : Bytes := if n.encrypt then leBytes 4096 (Config.xts n.nsid n.keyGen lba (blockBits bs)).toNat else bs

/-- The plaintext of a block that the cells hold. -/
def Ns.plain (n : Ns) (lba : Nat) (bs : Bytes) : Bytes := if n.encrypt then leBytes 4096 ((Config.xts n.nsid n.keyGen lba).symm (blockBits bs)).toNat else bs

/-- The cells of a run of blocks, and their plaintext again. -/
def State.cipherBlocks (s : State) (ns lba : Nat) (bs : Bytes) : Bytes :=
  match s.ns? ns with
  | some n => if n.encrypt then (List.range (ceilDiv bs.length 4096)).flatMap (fun b => n.cipher (lba + b) (slice bs (4096 * b) 4096)) else bs
  | none => bs

def State.plainBlocks (s : State) (ns lba : Nat) (bs : Bytes) : Bytes :=
  match s.ns? ns with
  | some n => if n.encrypt then (List.range (ceilDiv bs.length 4096)).flatMap (fun b => n.plain (lba + b) (slice bs (4096 * b) 4096)) else bs
  | none => bs

/-- The cells of a unit's four blocks. -/
def State.cipherUnit (s : State) (ns unit : Nat) (bs : Bytes) : Bytes :=
  s.cipherBlocks ns (4 * unit) bs

/-! ### Programs (R313, R314) -/

/-- Programs 16 KiB of cells at a location with its metadata (R313). -/
def State.program (s : State) (p : NandPage) (bs : Bytes) : State :=
  { s with flash := { s.flash with nand := s.flash.nand ++ [p], nandMem := s.flash.nandMem.writeN 0 (p.loc * 16384) bs } }

/-- The cells of a page. -/
def State.cells (s : State) (loc : Nat) : Bytes := s.flash.nandMem.readN 0 (loc * 16384) 16384

/-- Whether some page of a row is still to be programmed or under way. -/
def State.rowOpen (s : State) (x : Superblock) (row : Nat) : Bool :=
  (x.isOpen && decide (x.nextUnit < 15 * (row + 1))) || s.inFlight.any (fun l => x.has (s.flash.blockOf l).1 && (s.flash.blockOf l).2 == row)

/-- The bitwise XOR of some pages. -/
def xorBytes (l : List Bytes) : Bytes := l.foldl (fun a b => (a.zip b).map (fun x => x.1 ^^^ x.2)) (zeros 16384)

/-- When the last page of a row has been programmed, its parity member takes the XOR of the others, metadata included (R314). -/
def State.sealRow (s : State) (loc : Nat) : State :=
  match s.sbOf loc with
  | none => s
  | some x =>
    let row := (s.flash.blockOf loc).2
    let par := x.pageLoc (s.flash.ppb x.group) (x.parity row) row
    if s.rowOpen x row || s.flash.nand.any (fun p => p.loc = par) || s.flash.failedAt par then s
    else
      let ps := (s.pagesIn x).filter (fun p => (s.flash.blockOf p.loc).2 == row)
      let x3 (f : NandPage → Nat) : Nat := ps.foldl (fun a p => a ^^^ f p) 0
      s.program { loc := par, ns := 0xFF, unit := x3 (·.unit), seq := x3 (·.seq), xns := x3 (·.ns) } (xorBytes (ps.map (fun p => s.cells p.loc)))

/-- Programs a unit's cells at its place, and at the mirror's, and the parity of a row that this completes. -/
def State.programAt (s : State) (loc : Nat) (mirror : Bool) (ns unit seq : Nat) (cells : Bytes) : State :=
  let put (l : Nat) (s : State) : State := (s.program { loc := l, ns := ns, unit := unit, seq := seq } cells).sealRow l
  if mirror then put (s.mirrorOf loc) (put loc s) else put loc s

/-- Programs pages of the journal or of a checkpoint (NSID 0xFE, R313) into SLC superblocks; answers where, 0 where there is no place. -/
def State.programSlc (use : SbUse) : List Bytes → State → State × List Nat
  | [], s => (s, [])
  | b :: bs, s =>
    match State.takeSlc use 64 s with
    | (s, none) =>
      let (s, ls) := State.programSlc use bs s
      (s, 0 :: ls)
    | (s, some loc) =>
      let (s, ls) := State.programSlc use bs ((s.program { loc := loc, ns := 0xFE, unit := 0, seq := s.lastSeq } (padTo 16384 b)).sealRow loc)
      (s, loc :: ls)

/-! ### Writing the journal out (R338) -/

/-- Journal records to a page of 16 KiB. -/
def recsPerPage : Nat := 682

/-- Cuts a list into runs of `n`. -/
def chunks {α : Type} (n : Nat) : Nat → List α → List (List α)
  | 0, _ => []
  | _, [] => []
  | fuel + 1, l => l.take n :: chunks n fuel (l.drop n)

/-- Writes records to SLC journal superblocks (R338); answers them with their pages. -/
def State.writeRecs (s : State) (rs : List JRec) : State × List JRec :=
  let cs := chunks recsPerPage (rs.length + 1) rs
  let (s, ls) := State.programSlc .journal (cs.map (fun c => c.flatMap JRec.bytes)) s
  (s, (cs.zip ls).flatMap (fun x => x.1.map (fun r => { r with loc := x.2 })))

/-- Journal records to a piece: 64 KiB are four pages (R338; log entry 90). -/
def pieceRecs : Nat := 4 * recsPerPage

/-- Writes records die by die, each die's in pieces of its own (R338); answers them with their pages. -/
def State.writeByDie (s : State) (rs : List JRec) : State × List JRec :=
  (rs.map (·.die)).eraseDups.foldl (fun (a : State × List JRec) d =>
    let (s, l) := a.1.writeRecs (rs.filter (fun r => r.die = d))
    (s, a.2 ++ l)) (s, [])

/-- Whether a record has to wait for write-buffer slots of its own commit: an unit that a commit unmaps becomes durable after the units that it
writes, so that a commit whose data is lost reads as before (R374; log entry 91). -/
def State.recWaits (s : State) (r : JRec) : Bool :=
  r.kind == 0 && r.entry == MapEntry.unmapped && s.flash.slots.any (fun x => x.seq == some r.seq && !x.verified)

/-- Moves the journal records that `p` picks from the buffers to NAND (R338); one that has to wait or finds no place stays where it is. -/
def State.journalOut (s : State) (p : JRec → Bool) : State :=
  let (t, rs) := s.writeByDie (s.flash.jbuf.filter (fun r => p r && !s.recWaits r))
  let out : List JRec := rs.filter (fun r => r.loc ≠ 0)
  let gone : List JRec := out.map (fun r => { r with loc := 0 })
  { t with flash := { t.flash with jdur := t.flash.jdur ++ out, jbuf := t.flash.jbuf.filter (fun r => !gone.contains r) } }

/-! ### Page reads (R335, R336, R344) -/

/-- Whether a test has borrowed a channel (R662, R665). -/
def State.borrowed (s : State) (ch : Nat) : Bool := s.test.links.any (fun t => t.kind = 6 && t.index = ch && (t.isMargin || t.mode == 2))

/-- The read-count threshold in force for a group (R344, R346): the tunable, or the profile's value. -/
def State.refreshAt (s : State) (g : Nat) : Nat :=
  match s.cfg.tunables.getD 0 0 with
  | 0 => ((s.flash.profileOf g).map (·.readRefresh)).getD 100000
  | n => n

/-- Adds page reads to a member's block, held at 0xFF_FFFF, and queues the superblock for refresh at the threshold (R344). -/
def State.addReads (s : State) (g sb m n : Nat) : State :=
  let lim := s.refreshAt g
  let put (x : Superblock) : Superblock :=
    let v := capAt 0xFFFFFF (x.reads.getD m 0 + n)
    { x with reads := setAt m v x.reads, refresh := x.refresh || decide (lim ≤ v) }
  s.updSb g sb put

/-- Queues a superblock for refresh (R336, R345). -/
def State.queueRefresh (s : State) (g sb : Nat) : State := s.updSb g sb (fun x => { x with refresh := true })

/-- Queues the superblock of a location for refresh. -/
def State.refreshFor (s : State) (loc : Nat) : State :=
  match s.sbOf loc with
  | some x => s.queueRefresh x.group x.sb
  | none => s

/-- Page reads of one copy's recovery: the page `n` times, and with `others` the 15 other members of its row. -/
def State.readRow (s : State) (loc n : Nat) (others : Bool) : State :=
  match s.sbOf loc with
  | none => s
  | some x =>
    let m := loc / 2 ^ 27 % 16
    let s := s.addReads x.group x.sb m n
    if others then ((List.range 16).filter (fun i => i ≠ m)).foldl (fun s i => s.addReads x.group x.sb i 1) s else s

/-- One read of the unit's page, where it lies on NAND (R344): through the other members of its row where a test has borrowed the channel (R662) or
the member has failed (R351), which queues the superblock for refresh (R336). -/
def State.readPage (s : State) (ns unit : Nat) : State :=
  let e := s.mapAt ns unit
  if !e.onNand then s
  else if s.borrowed (e.loc / 2 ^ 27) || s.flash.failedAt e.loc then (s.readRow e.loc 0 true).refreshFor e.loc
  else s.readRow e.loc 1 false

end Sys2Proof.Machine
end

