-- ==== Sys2Proof/Machine/FlashOps.lean ====
section
/-!
DEFINITION. The flash store's shared operations (chapters *Flash store*, *Power loss and write atomicity*): reads of blocks, write-buffer slots and
the changes that a command publishes, objects, and where writes go.
-/
namespace Sys2Proof.Machine

open Sys2Proof

/-! ### Blocks (R320, R333, R334) -/

/-- Blocks of the object table (R322). -/
def Ns.tableBlocks (n : Ns) : Nat := ceilDiv (n.objects * 16) 4096

/-- Whether the page at a location is a unit's: a codeword whose metadata names another block is uncorrectable (R334). -/
def State.pageIs (s : State) (loc ns unit : Nat) : Bool := s.flash.nand.any (fun p => p.loc = loc && p.ns == ns && p.unit == unit)

/-- Where a unit on NAND is read: its page, or its second copy where that one alone is the unit's (R303, R334). -/
def State.readLoc (s : State) (e : MapEntry) (ns unit : Nat) : Nat :=
  if e.mirror && !s.pageIs e.loc ns unit then s.mirrorOf e.loc else e.loc

/-- One 4 KiB block of a unit's current generation: its slot, its NAND page, decrypted, or zeros (R320, R333). -/
def State.blockAt (s : State) (ns lba : Nat) : Bytes :=
  let e := s.mapAt ns (lba / 4)
  let off := lba % 4 * 4096
  if e.buf then s.flash.slotMem.readN 0 (e.loc * 16384 + off) 4096
  else if e.loc = unmappedLoc then zeros 4096
  else
    let bs := s.flash.nandMem.readN 0 (s.readLoc e ns (lba / 4) * 16384 + off) 4096
    match s.ns? ns with
    | some n => n.plain lba bs
    | none => bs

/-- Channel bytes of one codeword of a location: 4 KiB, 16 metadata bytes and the profile's parity (R313). -/
def FlashSt.codewordBytes (f : FlashSt) (loc : Nat) : Nat :=
  4112 + (match f.profileOf (loc / 2 ^ 31) with
    | some pr => (match pr.parity with
      | 0 => 256
      | 1 => 384
      | 2 => 448
      | _ => 512)
    | none => 0)

/-- Whether a unit's map entry names a page that is another's in both copies: its codewords are uncorrectable (R334). -/
def State.unitAstray (s : State) (ns unit : Nat) : Bool :=
  let e := s.mapAt ns unit
  e.onNand && !s.pageIs (s.readLoc e ns unit) ns unit

/-- Whether a block cannot be read: its POISON bit (R325), a page that is another block's (R334), or a key that is gone (R567, R584, R588). -/
def State.blockBad (s : State) (ns lba : Nat) : Bool :=
  bitAt (s.mapAt ns (lba / 4)).poison (lba % 4) || s.unitAstray ns (lba / 4) ||
    ((s.ns? ns).map (fun n => n.encrypt && (n.keyLost || s.sec.debugOpened))).getD false

/-- A read that finds a unit's page to be another's sets the POISON bits of the blocks that it wanted, in the map and in the journal (R334, R335). -/
def State.noteLost (s : State) (ns lba count : Nat) : State :=
  (List.range count).foldl (fun s i =>
    let unit := (lba + i) / 4
    let e := s.mapAt ns unit
    if s.unitAstray ns unit && !bitAt e.poison ((lba + i) % 4) then
      let e' : MapEntry := { e with poison := e.poison + 2 ^ ((lba + i) % 4) }
      ((s.mapSet ns unit e').journal s.lastSeq ns unit e' 0).integrity 5 clsPoisoned
    else s) s

/-- Channel bytes that reading a run of blocks moves (R386, R413). -/
def State.readTraffic (s : State) (ns lba count : Nat) : Nat :=
  ((List.range count).map (fun i =>
    let e := s.mapAt ns ((lba + i) / 4)
    if e.buf || e.loc = unmappedLoc then 0 else s.flash.codewordBytes e.loc)).sum

/-- Channel bytes of one 16 KiB unit on the first group in use (R386, R413). -/
def State.unitTraffic (s : State) : Nat := 4 * s.flash.codewordBytes ((s.flash.groups.headD 0) * 16 * 2 ^ 27)

/-- Reads whole blocks; a bad one fails the read, and what the read finds out stays (R333, R334, R336). -/
def State.readBlocks (s : State) (ns lba count : Nat) : Chk Bytes :=
  let ls := (List.range count).map (· + lba)
  if ls.any (s.blockBad ns) then failKeep (s.noteLost ns lba count) .dataPoisoned 0 else .ok (ls.flatMap (s.blockAt ns))

/-- Counts the page reads that reading a run of blocks takes (R344). -/
def State.noteReads (s : State) (ns lba count : Nat) : State :=
  (List.range (ceilDiv (lba + count) 4 - lba / 4)).foldl (fun s i => s.readPage ns (lba / 4 + i)) s

/-- The same for bytes from a byte offset. -/
def State.noteBytes (s : State) (ns off n : Nat) : State := s.noteReads ns (off / 4096) (ceilDiv (off + n) 4096 - off / 4096)

/-- Reads bytes of a namespace from a byte offset. -/
def State.readNsBytes (s : State) (ns off n : Nat) : Chk Bytes := do
  let b0 := off / 4096
  let bs ← s.readBlocks ns b0 (ceilDiv (off + n) 4096 - b0)
  .ok ((bs.drop (off - b0 * 4096)).take n)

/-! ### Writing through slots (R327) -/

/-- Slots in use on a map home die: 4 GiB of 16 KiB each (R158, R327). -/
def State.slotRoom (s : State) (die n : Nat) : Bool :=
  decide ((s.flash.slots.filter (fun x => s.unitDie x.unit = die)).length + n ≤ 262144)

/-- Adds an uncommitted slot for a unit: `mask` the blocks written, `data` 16 KiB with other blocks zero. -/
def State.addSlot (s : State) (id : CmdId) (ns unit mask : Nat) (data : Bytes) : State :=
  let sid := s.flash.nextSlot
  let sl : Slot := { sid := sid, ns := ns, unit := unit, owner := id, seq := none, commitAt := 0, programming := none, mirror := false, verified := false
                     grp := 0, mask := mask, poison := 0 }
  { s with flash := { s.flash with
      slots := s.flash.slots ++ [sl], nextSlot := sid + 1
      slotMem := (s.flash.slotMem.clear (sid * 16384) 16384).writeN 0 (sid * 16384) data
      pend := ainsert id ((alookup id s.flash.pend).getD [] ++ [.slot sid]) s.flash.pend } }

/-- Adds a change that a command publishes at its commit point. -/
def State.addPend (s : State) (id : CmdId) (p : Pend) : State :=
  { s with flash := { s.flash with pend := ainsert id ((alookup id s.flash.pend).getD [] ++ [p]) s.flash.pend } }

/-- The units that a run of blocks meets, with the mask of its blocks in each. -/
def unitsOf (lba count : Nat) : List (Nat × Nat) :=
  (List.range (ceilDiv (lba + count) 4 - lba / 4)).map (fun i =>
    let u := lba / 4 + i
    (u, ((List.range 4).filter (fun b => decide (lba ≤ 4 * u + b) && decide (4 * u + b < lba + count))).foldl (fun m b => m + 2 ^ b) 0))

/-- The 16 KiB of a slot for unit `u`, holding `data` from block `lba` on. -/
def slotData (lba u : Nat) (data : Bytes) : Bytes :=
  if 4 * u < lba then zeros ((lba - 4 * u) * 4096) ++ data.take (16384 - (lba - 4 * u) * 4096)
  else (data.drop ((4 * u - lba) * 4096)).take 16384

/-- Puts blocks into new slots of a command (R327). -/
def State.writeBlocks (s : State) (id : CmdId) (ns lba count : Nat) (data : Bytes) : State :=
  (unitsOf lba count).foldl (fun s u => s.addSlot id ns u.1 u.2 (padTo 16384 (slotData lba u.1 data))) s

/-- Fills the blocks of a slot that its command did not write from the unit's current generation (R327), POISON bits with them (R332); those of
a page that is another unit's take the bit (R334). -/
def State.fillSlot (s : State) (sl : Slot) : State :=
  let e := s.mapAt sl.ns sl.unit
  let rest := (List.range 4).filter (fun b => !bitAt sl.mask b)
  let mem := rest.foldl (fun m b => m.writeN 0 (sl.sid * 16384 + b * 4096) (s.blockAt sl.ns (4 * sl.unit + b))) s.flash.slotMem
  let poison := rest.foldl (fun p b => if bitAt e.poison b || s.unitAstray sl.ns sl.unit then p + 2 ^ b else p) 0
  let setP (x : Slot) : Slot := { x with poison := poison }
  let s := if rest.isEmpty then s else s.readPage sl.ns sl.unit
  { s with flash := { s.flash with slotMem := mem, slots := mapIf (fun x => x.sid = sl.sid) setP s.flash.slots } }

/-- The slots of the commit group that a slot belongs to (R370). -/
def State.groupOf (s : State) (x : Slot) : List Slot :=
  s.flash.slots.filter (fun y => y.seq = x.seq && y.owner = x.owner && y.grp = x.grp)

/-- Switches one programmed slot of a group to its NAND location and frees it (R330, R370). -/
def State.switchSlot (gid gsize : Nat) (s : State) (y : Slot) : State :=
  match y.programming with
  | none => s
  | some loc =>
    let e : MapEntry := { poison := y.poison, mirror := y.mirror, buf := false, loc := loc }
    let cur := s.mapAt y.ns y.unit
    let s := if cur.buf && cur.loc == y.sid then (s.mapSet y.ns y.unit e).journalIn gid gsize (y.seq.getD 0) y.ns y.unit e 0 else s
    { s with flash := { s.flash with slots := s.flash.slots.filter (fun z => z.sid ≠ y.sid), slotMem := s.flash.slotMem.clear (y.sid * 16384) 16384 } }

/-- When every slot of a group has been programmed and verified, the map changes in one journal group (R370). -/
def State.settleGroup (s : State) (x : Slot) : State :=
  let grp := s.groupOf x
  if grp.isEmpty || !grp.all (·.verified) then s
  else
    let (s, gid) := s.newGroup
    grp.foldl (State.switchSlot gid grp.length) s

/-- Groups that a superseded slot has left with verified slots alone (R328, R370). -/
def State.settleGroups (s : State) : State := (s.flash.slots.filter (·.verified)).foldl State.settleGroup s

/-- Frees the committed slot that a unit's entry names, if any: a superseded slot is never programmed (R328). -/
def State.dropSlotOf (s : State) (ns unit : Nat) : State :=
  let e := s.mapAt ns unit
  if e.buf then
    { s with flash := { s.flash with slots := s.flash.slots.filter (fun x => x.sid ≠ e.loc)
                                     slotMem := s.flash.slotMem.clear (e.loc * 16384) 16384 } }
  else s

/-- Switches a unit's entry to a slot at a commit point (R327). -/
def State.publishSlot (s : State) (seq grp sid : Nat) : State :=
  match s.flash.slots.find? (fun x => x.sid = sid) with
  | none => s
  | some sl0 =>
    let s := s.fillSlot sl0
    let poison := ((s.flash.slots.find? (fun x => x.sid = sid)).map (·.poison)).getD 0
    let s := s.dropSlotOf sl0.ns sl0.unit
    let upd (x : Slot) : Slot := { x with seq := some seq, commitAt := s.now, grp := grp }
    { s with flash := { s.flash with slots := mapIf (fun x => x.sid = sid) upd s.flash.slots } }.mapSet sl0.ns sl0.unit
      { poison := poison, mirror := false, buf := true, loc := sid }

/-- Unmaps a unit at a commit point and journals it (R331, R337). -/
def State.unmapIn (s : State) (gid gsize seq ns unit : Nat) : State :=
  ((s.dropSlotOf ns unit).mapSet ns unit MapEntry.unmapped).journalIn gid gsize seq ns unit MapEntry.unmapped 0

/-- Unmaps a unit by itself. -/
def State.unmapUnit (s : State) (seq ns unit : Nat) : State :=
  let (s, g) := s.newGroup
  s.unmapIn g 1 seq ns unit

/-- The changes that a command publishes at its commit point. -/
def State.pendOf (s : State) (id : CmdId) : List Pend := (alookup id s.flash.pend).getD []

/-- The slots among a command's changes. -/
def State.pendSlots (s : State) (id : CmdId) : List Slot :=
  s.flash.slots.filter (fun x => (s.pendOf id).any (fun p => p = .slot x.sid))

/-- Dirty pieces that publishing a command's slots adds: a slot that supersedes a committed one adds nothing (R328). -/
def State.pendPieces (s : State) (id : CmdId) : Nat :=
  ((s.pendSlots id).filter (fun x => !(s.mapAt x.ns x.unit).buf)).length

/-- Publishes one change of a command (R327, R331, R324); `i` counts the slots before it, for the groups of R370. -/
def State.publish1 (gid gsize seq : Nat) (si : State × Nat) (p : Pend) : State × Nat :=
  let (s, i) := si
  match p with
  | .slot sid => (s.publishSlot seq (i / 512) sid, i + 1)
  | .unmap ns unit => (s.unmapIn gid gsize seq ns unit, i)
  | .objNew o => ({ s with flash := { s.flash with objs := s.flash.objs ++ [o] } }, i)
  | .objDel ns ob => ({ s with flash := { s.flash with objs := s.flash.objs.filter (fun x => !(x.ns = ns && x.obj = ob)) } }, i)
  | .idxOp .. => (s, i)
  | .record .. => (s, i)

/-- Publishes every change of a command in one indivisible action (R207, R327). -/
def State.publishPend (s : State) (id : CmdId) (seq : Nat) : State :=
  let unmaps := ((s.pendOf id).filter (fun p => match p with
    | .unmap .. => true
    | _ => false)).length
  let (s, g) := s.newGroup
  let s := ((s.pendOf id).foldl (State.publish1 g unmaps seq) (s, 0)).1
  { s with flash := { s.flash with pend := aerase id s.flash.pend } }.settleGroups

/-- STORE_FLUSH completes when none of the slots that it waits for is left (R329). -/
def State.settleFlush (s : State) : State :=
  let done := s.host.outst.filter (fun o => o.cmd = .storeFlush o.id && o.phase = .running && (s.pendSlots o.id).isEmpty)
  done.foldl (fun s o => ({ s with flash := { s.flash with pend := aerase o.id s.flash.pend } }).completeId o.id .ok 0 []) s

/-- Drops the uncommitted slots and changes of a command (R210). -/
def State.dropPend (s : State) (id : CmdId) : State :=
  { s with flash := { s.flash with slots := s.flash.slots.filter (fun x => !(x.owner = id && x.seq.isNone)), pend := aerase id s.flash.pend } }

/-! ### Index operations that have not committed (R266) -/

/-- Frees the driftline entries that `mine` picks; scans keep their place in what is left (R268). -/
def Index.removeEntries (x : Index) (mine : DEntry → Bool) : Index :=
  let left := x.driftline.filter (fun e => !mine e)
  let posOf (pos : Nat) : Nat := let k := ((x.driftline.take pos).filter (fun e => !mine e)).length; if k < left.length then k else 0
  { x with driftline := left, scan := x.scan.map (fun w => (w.1, posOf w.2)) }

/-- Frees uncommitted entries: a slot that an insert among them took goes back (R266). -/
def Index.dropEntries (x : Index) (mine : DEntry → Bool) : Index :=
  let slots := (x.driftline.filter (fun e => mine e && e.isInsert)).map (·.slot)
  { x.removeEntries mine with usedSlots := x.usedSlots.filter (fun i => i ∉ slots), sketches := x.sketches.filter (fun e => e.1 ∉ slots) }

/-- A query at its start: what a walk has found goes (R256). -/
def Query.restart (q : Query) : Query :=
  { q with walker := none, queue := [], results := [], visited := [], reads := 0, hops := 0, outstanding := [], gone := [], lapLeft := []
           sats := 0, degraded := false, finished := false }

/-! ### Objects -/

def State.obj? (s : State) (ns o : Nat) : Option Obj := s.flash.objs.find? (fun x => x.ns = ns && x.obj = o)

/-- Blocks of an object's extent (R323). -/
def Obj.blocks (o : Obj) : Nat := if o.redundant then ceilDiv (ceilDiv o.length 4096) 4 * 4 else ceilDiv o.length 4096

/-- The lowest free extent of `n` blocks in an OBJECT namespace (R323); REDUNDANT ones lie on map-unit boundaries. -/
def State.objPlace (s : State) (x : Ns) (n : Nat) (redundant : Bool) : Option Nat :=
  let t := if redundant then ceilDiv x.tableBlocks 4 * 4 else x.tableBlocks
  let mine := s.flash.objs.filter (fun o => o.ns = x.nsid)
  let up (a : Nat) : Nat := if redundant then ceilDiv a 4 * 4 else a
  let cands := t :: mine.map (fun o => up (o.first + o.blocks))
  leastBy (fun a b => decide (a < b))
    (cands.filter (fun a => decide (t ≤ a) && decide (a + n ≤ x.capacity) &&
      mine.all (fun o => decide (a + n ≤ o.first) || decide (o.first + o.blocks ≤ a))))

/-- Whether a unit belongs to the extent of a REDUNDANT object (R302, R323). -/
def State.isRedundant (s : State) (ns unit : Nat) : Bool :=
  s.flash.objs.any (fun o => o.ns = ns && o.redundant && decide (o.first ≤ 4 * unit) && decide (4 * unit < o.first + o.blocks))

/-- A place for a unit written by a host or a write-back: the groups in use take successive units in turn, those whose host programs wait passed over
(R329, R342); a unit of a REDUNDANT object takes a pair of places (R302). Answers the location and MIRROR; none where every group waits, or where a
test has borrowed the channel, which holds the programs addressed to it (R662). `waits` tells which groups are passed over. -/
def State.placeAmong (s : State) (waits : Nat → Bool) (ns unit : Nat) : State × Option (Nat × Bool) :=
  let gs := s.flash.groups
  let turn := s.flash.turn
  let order := (gs.drop (turn % max 1 gs.length) ++ gs.take (turn % max 1 gs.length))
  let pairs := order.filter (fun g => g % 2 = 0 && decide (g + 1 ∈ gs))
  let mirror := s.isRedundant ns unit && !pairs.isEmpty
  let ready := if mirror then pairs.filter (fun g => !waits g && !waits (g + 1)) else order.filter (fun g => !waits g)
  match ready with
  | [] => (s, none)
  | g :: _ =>
    match (if mirror then State.takePair g false 64 s else s.takePlace g false) with
    | (t, some loc) => if s.borrowed (loc / 2 ^ 27) then (s, none) else ({ t with flash := { t.flash with turn := turn + 1 } }, some (loc, mirror))
    | (t, none) => (t, none)

/-- A place for a host write or a write-back. -/
def State.placeFor (s : State) (ns unit : Nat) : State × Option (Nat × Bool) := s.placeAmong s.hostWaits ns unit

/-- Writes 16 KiB straight to NAND and switches the map to it: a tensor or table page's write-back (R183), journalled (R337). `gen` is the commit
sequence number of what is written; the blocks in `mask` lose their POISON bits (R332) but for those that `bad` names. None where there is no
place: the page stays dirty. -/
def State.writeUnit (s : State) (gen ns unit mask : Nat) (bs : Bytes) (bad : List Nat := []) : Option State :=
  match s.placeFor ns unit with
  | (_, none) => none
  | (s, some (loc, mirror)) =>
    let old := s.mapAt ns unit
    let astray := s.unitAstray ns unit
    let keep := (List.range 4).foldl (fun p b =>
      if (if bitAt mask b then bad.contains b else bitAt old.poison b || astray) then p + 2 ^ b else p) 0
    let e : MapEntry := { poison := keep, mirror := mirror, buf := false, loc := loc }
    some ((((s.dropSlotOf ns unit).programAt loc mirror ns unit gen (s.cipherUnit ns unit bs)).mapSet ns unit e).journal s.lastSeq ns unit e 0).settleGroups

end Sys2Proof.Machine
end

