-- ==== Sys2Proof/Machine/Tables.lean ====
section
/-!
DEFINITION. The tables of an index (chapter *Vector search*, R247 to R253): node records, where the tables lie in near memory and in flash, and
the copies of the entry points.
-/
namespace Sys2Proof.Machine

open Sys2Proof

/-- The index of a namespace. -/
def State.index? (s : State) (ns : Nat) : Option Index := s.indexes.find? (fun i => i.ns = ns)

/-! ### Node records (R247) -/

/-- The marker of a record without a visible delete (R247, R269). -/
def noDelete : Nat := 2 ^ 64 - 1

def recNode (b : Bytes) : Nat := field b 0 5
def recDegree (b : Bytes) : Nat := min 64 (field b 6 1)
def recFilter (b : Bytes) : Nat := field b 8 8
def recAttr0 (b : Bytes) : Nat := field b 0x10 4
def recAttr1 (b : Bytes) : Nat := field b 0x14 4
def recInsertSeq (b : Bytes) : Nat := field b 0x18 8
def recDeleteSeq (b : Bytes) : Nat := field b 0x20 8
def recSketch (b : Bytes) : Bytes := slice b 0x180 64

/-- Neighbour slots of a record. -/
def recNeighbours (b : Bytes) : List Nat := (List.range (recDegree b)).map (fun i => field b (0x30 + 5 * i) 5)

/-- Namespace and object of CHUNK_REF. -/
def recChunk (b : Bytes) : Nat × Nat := (field b 0x170 1, field b 0x171 6)

/-- A record with another neighbour list (at most 64, entries from DEGREE upward zero). -/
def recWithNeighbours (b : Bytes) (ns : List Nat) : Bytes :=
  let l := ns.take 64
  overlay (overlay b 6 (leBytes 1 l.length)) 0x30 (padTo 320 (l.flatMap (leBytes 5)))

/-- Bytes of one vector element. -/
def IdxParams.elemBytes (p : IdxParams) : Nat := if p.vformat = 4 then 1 else 2

/-- The record's vector, each element decoded exactly to F32 (R44, R261). -/
def recVector (p : IdxParams) (b : Bytes) : List W32 :=
  match fmtOf p.vformat with
  | none => []
  | some fm => (List.range p.dim).map (fun i => rneF32 (decodeElem fm false 127 (field b (0x200 + p.elemBytes * i) p.elemBytes)))

/-- The first byte from `lo` to before `hi` that is not zero. -/
def firstNonzero (b : Bytes) (lo hi : Nat) : Option Nat := ((List.range (hi - lo)).map (· + lo)).find? (fun i => field b i 1 ≠ 0)

/-! ### Tables of an index in near memory (R249 to R252) -/

/-- Bytes of a sketch entry (R249). -/
def IdxParams.entryBytes (p : IdxParams) : Nat := p.sketchBits / 8 + 8

/-- The dies that an index's sketch table spans (R249). -/
def State.tableDies (s : State) (part : Nat) : List Nat :=
  if s.cfg.inForce.isolation = 1 then (s.partDies part).filter s.dieUp else (List.range (Variant.dies s.variant)).filter s.dieUp

/-- Allocates a list of pieces (die, bytes) for a partition, all or none. -/
def State.allocAll (part : Nat) : List (Nat × Nat) → State → Option (State × List Nat)
  | [], s => some (s, [])
  | x :: xs, s =>
    match s.alloc part x.1 x.2 with
    | none => none
    | some (s, b) => (State.allocAll part xs s).map (fun r => (r.1, b :: r.2))

/-- Allocates the three tables of an index (R249, R250, R252). -/
def State.placeTables (s : State) (part : Nat) (p : IdxParams) : Option (State × List Nat) :=
  let ds := s.tableDies part
  let each := ceilDiv p.slots ds.length * p.entryBytes
  State.allocAll part (ds.map (fun d => (d, each)) ++ [(0xFF, 5 * p.idLimit), (0xFF, ceilDiv p.slots 8)]) s

/-! ### Places in near memory (R249, R250) -/

/-- Dies that the staged sketch table spans: D of R249. -/
def Index.spans (x : Index) : Nat := x.allocs.length - 2

/-- Where the sketch entry of a slot stands: die index s mod D, entry s div D (R249). -/
def Index.sketchAddr (x : Index) (slot : Nat) : Nat := x.allocs.getD (slot % x.spans) 0 + slot / x.spans * x.params.entryBytes

/-- Where an identifier's directory entry stands (R250). -/
def Index.dirAddr (x : Index) (node : Nat) : Nat := x.allocs.getD x.spans 0 + 5 * node

/-- Where a slot's bit of the bitmap stands (R250). -/
def Index.tombAddr (x : Index) (slot : Nat) : Nat := x.allocs.getD (x.spans + 1) 0 + slot / 8

/-- A write of a table in near memory, whose content the index holds: the die cache and the marks follow it (R163, R221). -/
def State.tableWrite (s : State) (addr n : Nat) : State :=
  { s.cacheWrite addr n with integ := s.integ.wrote addr n }.noteMarks (s.integ.armedMarks addr n)

/-! ### Flash copies (R246, R251): a layout of the model's own (log entry 31) -/

/-- Changes the index of a namespace. -/
def State.updIndex (s : State) (ns : Nat) (f : Index → Index) : State := { s with indexes := mapIf (fun x => x.ns = ns) f s.indexes }

/-- Pages of table `k` (0 sketches, 1 directory, 2 tombstones) that `n` bytes from `off` lie in. -/
def tablePages (k off n : Nat) : List (Nat × Nat) := (List.range ((off + n - 1) / 16384 + 1 - off / 16384)).map (fun i => (k, off / 16384 + i))

/-- Pages of the sketch table that a slot's entry lies in, as the flash copy counts them (log entry 31). -/
def Index.sketchPages (x : Index) (slot : Nat) : List (Nat × Nat) := tablePages 0 (slot * x.params.entryBytes) x.params.entryBytes
/-- Pages of the directory that an identifier's entry lies in. -/
def Index.dirPages (node : Nat) : List (Nat × Nat) := tablePages 1 (5 * node) 5
/-- The page of the bitmap that a slot's bit lies in. -/
def Index.tombPages (slot : Nat) : List (Nat × Nat) := tablePages 2 (slot / 8) 1

/-- Bytes of table `k`. -/
def IdxParams.tableLen (p : IdxParams) (k : Nat) : Nat :=
  match k with
  | 0 => p.slots * p.entryBytes
  | 1 => 5 * p.idLimit
  | _ => ceilDiv p.slots 8

/-- The map unit that holds page `pg` of table `k`: the tables lie one after another above the records. -/
def IdxParams.tableUnit (p : IdxParams) (k pg : Nat) : Nat :=
  ceilDiv p.slots 4 + ((List.range k).map (fun j => ceilDiv (p.tableLen j) 16384)).sum + pg

/-- The entry that the sketch table holds for a slot. -/
def Index.sketchEntry (x : Index) (slot : Nat) : Bytes :=
  match alookup slot x.sketches with
  | some e => padTo (x.params.sketchBits / 8) (e.1.take (x.params.sketchBits / 8)) ++ leBytes 8 e.2
  | none => zeros x.params.entryBytes

/-- What the directory holds for an identifier, complemented: an entry that names no slot reads as zero in the flash copy. -/
def Index.dirEntry (x : Index) (node : Nat) : Bytes :=
  match alookup node x.directory with
  | some slot => leBytes 5 (2 ^ 40 - 1 - slot)
  | none => zeros 5

/-- Eight bits of the tombstone bitmap. -/
def Index.tombByte (x : Index) (i : Nat) : Bytes := leBytes 1 (((List.range 8).filter (fun b => decide (8 * i + b ∈ x.tombstones))).map (2 ^ ·)).sum

/-- The 16 KiB of page `pg` of table `k` as its flash copy holds them. -/
def Index.pageBytes (x : Index) (k pg : Nat) : Bytes :=
  let off := pg * 16384
  let cut (w : Nat) (e : Nat → Bytes) : Bytes :=
    (((List.range (16384 / w + 2)).flatMap (fun i => e (off / w + i))).drop (off % w)).take 16384
  match k with
  | 0 => cut x.params.entryBytes x.sketchEntry
  | 1 => cut 5 x.dirEntry
  | _ => cut 1 x.tombByte

/-- Near memory that a page of a table is read from when it is written back. -/
def Index.pageSpans (x : Index) (k pg : Nat) : List (Nat × Nat) :=
  match k with
  | 0 => ((List.range (16384 / x.params.entryBytes + 2)).map (· + pg * 16384 / x.params.entryBytes)).map (fun s => (x.sketchAddr s, x.params.entryBytes))
  | 1 => [(x.allocs.getD x.spans 0 + pg * 16384, 16384)]
  | _ => [(x.allocs.getD (x.spans + 1) 0 + pg * 16384, 16384)]

/-! ### Staging (R249, R281) -/

/-- Units of an index's namespace that hold pages of table `k`, by page. -/
def State.tablePagesOn (s : State) (x : Index) (k : Nat) : List Nat :=
  let lo := x.params.tableUnit k 0
  let n := ceilDiv (x.params.tableLen k) 16384
  ((s.flash.map.filter (fun e => e.1.1 = x.ns && decide (lo ≤ e.1.2) && decide (e.1.2 < lo + n))).map (fun e => e.1.2 - lo))

/-- `n` bytes at `off` of table `k`'s flash copy. -/
def State.tableBytes (s : State) (x : Index) (k off n : Nat) : Bytes :=
  let first := off / 4096
  (((List.range ((off + n - 1) / 4096 + 1 - first)).flatMap (fun i => s.blockAt x.ns (4 * x.params.tableUnit k 0 + first + i))).drop (off % 4096)).take n

/-- The entries of `w` bytes that meet the pages of table `k` on flash. -/
def State.entriesOn (s : State) (x : Index) (k w : Nat) : List Nat :=
  ((s.tablePagesOn x k).flatMap (fun pg => (List.range (16384 / w + 2)).map (· + pg * 16384 / w))).eraseDups.filter (fun i => decide (w * i < x.params.tableLen k))

/-- Whether any block under some bytes of table `k`'s flash copy cannot be read. -/
def State.tableBad (s : State) (x : Index) (k off n : Nat) : Bool :=
  (List.range ((off + n - 1) / 4096 + 1 - off / 4096)).any (fun i => s.blockBad x.ns (4 * x.params.tableUnit k 0 + off / 4096 + i))

/-- The tables as their flash copies give them (R249, R280): a sketch entry that cannot be read is rebuilt from its record, a directory sector
holds poison, and the bitmap reads as zero. -/
def State.readTables (s : State) (x : Index) : Index :=
  let w := x.params.entryBytes
  let sk (i : Nat) : Option (Nat × (Bytes × Nat)) :=
    if s.tableBad x 0 (w * i) w then
      let r := s.blockAt x.ns i
      if s.blockBad x.ns i || recInsertSeq r == 0 then none else some (i, (recSketch r, recFilter r))
    else
      let b := s.tableBytes x 0 (w * i) w
      if b.all (· == 0) then none else some (i, (padTo 64 (b.take (w - 8)), field b (w - 8) 8))
  let dir (i : Nat) : Option (Nat × Nat) :=
    let v := field (s.tableBytes x 1 (5 * i) 5) 0 5
    if s.tableBad x 1 (5 * i) 5 || v = 0 then none else some (i, 2 ^ 40 - 1 - v)
  let tomb (i : Nat) : List Nat :=
    if s.tableBad x 2 i 1 then [] else (List.range 8).filterMap (fun b => if bitAt (field (s.tableBytes x 2 i 1) 0 1) b then some (8 * i + b) else none)
  let bad := (s.tablePagesOn x 1).flatMap (fun pg => ((List.range 512).map (· + 512 * pg)).filter (fun sec => s.tableBad x 1 (32 * sec) 32))
  { x with sketches := (s.entriesOn x 0 w).filterMap sk, directory := (s.entriesOn x 1 5).filterMap dir
           tombstones := ((s.tablePagesOn x 2).flatMap (fun pg => (List.range 16384).map (· + 16384 * pg))).flatMap tomb, dirPoison := bad }

/-- What an entry of the driftline log has changed in the tables since (R266, R281). -/
def Index.replayEntry (x : Index) (e : DEntry) : Index :=
  if e.seq = 0 then x
  else if e.isInsert then { x with sketches := ainsert e.slot (e.sketch, e.filter) x.sketches, directory := ainsert e.node e.slot x.directory }
  else { x with directory := if alookup e.node x.directory = some e.slot then aerase e.node x.directory else x.directory }

/-- Slots that are taken: by live nodes, by nodes deleted or folded and not yet freed, and by entries of the driftline (R276). -/
def Index.takenSlots (x : Index) : List Nat :=
  (x.directory.map (·.2) ++ x.tombstones ++ x.driftline.map (·.slot) ++ x.reclaim.flatMap (fun r => r.2.2)).eraseDups

/-! ### Copies of the entry points (R253) -/

/-- The firmware's area for copies on a die (R158): its last 512 MiB. -/
def copyArea (die : Nat) : Nat := nmBase + die * nmWindow + nmPopulated - 2 ^ 29

/-- The copy of entry point `i` of an index on a die: its record, then its sketch entry. -/
def copyAddr (die ns i : Nat) : Nat := copyArea die + (16 * ns + i) * 8192

/-- Copies the record and the sketch entry of an entry point to one die and pins the lines there (R165, R253). -/
def State.copyOne (s : State) (x : Index) (die i slot : Nat) : State :=
  let a := copyAddr die x.ns i
  let bytes := s.blockAt x.ns slot ++ x.sketchEntry slot
  ((linesOf a bytes.length).map (·.1)).foldl State.pinLine (s.devWr x.part a bytes)

/-- Copies every entry point of an index that can be read to every die that its sketch table spans; older copies go. -/
def State.copyEntries (s : State) (ns : Nat) : State :=
  match s.index? ns with
  | none => s
  | some x =>
    let s := s.dropLines (fun a => decide (copyArea (nmDie a) ≤ a) && (a - copyArea (nmDie a)) / 131072 == ns)
    let good := x.entries.filter (fun e => !s.blockBad ns e)
    let s := (s.tableDies x.part).foldl (fun s d => good.zipIdx.foldl (fun s e => s.copyOne x d e.2 e.1) s) s
    s.updIndex ns (fun x => { x with copies := good })

/-- Stages the tables of one index afresh (R249, R281): from their flash copies and the driftline log. -/
def State.restage (s : State) (x : Index) : State :=
  match s.placeTables x.part x.params with
  | none => s
  | some (s, bs) =>
    -- an insert whose record did not reach flash reads as before (R374)
    let kept (e : DEntry) : Bool := !e.isInsert || e.seq == 0 || s.blockBad x.ns e.slot || recInsertSeq (s.blockAt x.ns e.slot) == e.seq
    let x := { x with driftline := x.driftline.filter kept }
    let y := (x.driftline.foldl Index.replayEntry (s.readTables x))
    let z : Index := { y with allocs := bs, usedSlots := y.takenSlots }
    (s.updIndex x.ns (fun _ => z)).copyEntries x.ns

/-! ### The driftline pool and forced merges (R265, R270, R278) -/

/-- Entry slots of the pool. -/
def driftPool : Nat := 67108864

def State.poolFull (s : State) : Bool := decide (driftPool ≤ (s.indexes.map (fun x => x.driftline.length)).sum)

/-- A merge that begins now (R270): it folds the committed entries with B < SEQ ≤ M. -/
def Index.newMerge (x : Index) (id : Option CmdId) (bound : Nat) (sweep : Bool) : Merge :=
  let fold := x.driftline.filter (fun e => e.seq ≠ 0 && !e.folded && seqLt x.epochBase e.seq && seqLe e.seq bound)
  { id := id, bound := bound, sweep := sweep, all := fold, todo := fold, built := [], sweptTo := 0 }

def State.startMerge (s : State) (ns : Nat) (id : Option CmdId) (sweep : Bool) : State :=
  s.updIndex ns (fun x => { x with merge := some (x.newMerge id s.lastSeq sweep), rounds := [] })

/-- When the pool is full: inserts and deletes are refused until freeing brings it below full, and a merge starts of the index that holds the most
entries, unless one is running (R278). -/
def State.forceMerge (s : State) : State :=
  if !s.poolFull then s
  else
    let s := { s with flash := { s.flash with driftFull := true } }
    match leastBy (fun a b => decide (b.driftline.length < a.driftline.length)) s.indexes with
    | none => s
    | some x => if x.merge.isSome then s else s.startMerge x.ns none false

/-- Where no index is left whose merge or freeing could bring the pool below full, it is below full already (log entry 92). -/
def State.poolAlone (s : State) : State :=
  if s.poolFull || s.indexes.any (fun x => x.merge.isSome || !x.reclaim.isEmpty) then s
  else { s with flash := { s.flash with driftFull := false } }

/-- After freeing under R276 the pool takes operations again once it is below full (R278). -/
def State.poolFreed (s : State) : State := if s.poolFull then s else { s with flash := { s.flash with driftFull := false } }

end Sys2Proof.Machine
end

