-- ==== Sys2Proof/Machine/Kill.lean ====
section
/-!
DEFINITION. Stopping work: the runs under way, the kill of a run (R210), and how a command ends or starts again after an error or a fault
(R214, R222, R223, R304, R623).
-/
namespace Sys2Proof.Machine

open Sys2Proof

/-- Whether any command, queued or running, has bound a tensor (R184): through its binding, or because it stages it or writes it back. -/
def State.isBound (s : State) (h : Nat) : Bool :=
  s.bindings.any (fun b => b.inputs.any (fun d => d.handle = h) || b.shadows.any (fun x => x.tensor = h)) ||
    s.host.outst.any (fun o => o.phase = .running && (o.cmd = .tensorStage o.id h || o.cmd = .tensorSync o.id h))

/-- Makes a tensor POISONED (R172, R222). -/
def State.poisonTensor (s : State) (h : Nat) : State :=
  s.updTensor h (fun t => { t with desc := { t.desc with state := 3 } })

/-- The run of a command. -/
def State.run? (s : State) (id : CmdId) : Option Run := s.runs.find? (fun r => r.id = id)

def State.updRun (s : State) (id : CmdId) (f : Run → Run) : State := { s with runs := mapIf (fun r => r.id = id) f s.runs }

/-- The run that uses a core. -/
def State.runOn (s : State) (flat : Nat) : Option Run := s.runs.find? (fun r => r.cores.any (fun c => c.flat = flat))

/-- Clears the event counters of the clusters of some cores (R201). -/
def State.clearEvents (s : State) (flats : List Nat) : State :=
  { s with events := s.events.filter (fun e => e.1.1 ∉ flats.map (· / 8)) }

/-- The sectors of a save area that a region of a declared core takes (R185). -/
def saveSectors (core reg : Nat) : List Nat := (List.range 128).map (128 * (core * 2048 + reg) + ·)

/-- A save area whose marks of one region are replaced. -/
def Ctx.putMarks (x : Ctx) (core reg : Nat) (marks : List Nat) : Ctx :=
  { x with savePoison := x.savePoison.filter (fun k => k / 128 ≠ core * 2048 + reg) ++ marks }

/-- The marks of one region of a context's save area are replaced; each new one counts as POISONED in near memory, where the save area
lies (R185, R241). -/
def State.putMarks (s : State) (p c core reg : Nat) (marks : List Nat) : State :=
  let old := ((s.ctx? p c).map (·.savePoison)).getD []
  (s.updCtx p c (fun x => x.putMarks core reg marks)).noteMarks ((marks.filter (fun k => k ∉ old)).map (fun k => (Store.nearMemory, k)))

/-- The sectors of a region's place in a save area that take poison from the tidepool of a core (R222). -/
def State.saveMarks (s : State) (core flat reg : Nat) : List Nat :=
  (saveSectors core reg).filter (fun k => s.poisoned (tpBase flat + 32 * (k % 2 ^ 18)) 32)

/-- The words of a core's tidepool that take poison from the sectors of a save area in the regions that `p` picks (R222). -/
def Ctx.reloadMarks (x : Ctx) (core flat : Nat) (p : Nat → Bool) : List (Store × Nat) :=
  (x.savePoison.filter (fun k => k / 2 ^ 18 = core && p (k % 2 ^ 18 / 128))).flatMap (fun k => poisonKeys (tpBase flat + 32 * (k % 2 ^ 18)) 32)

/-- Restores from the save area every carried region that a run wrote (R187). -/
def State.restoreCarry (s : State) (r : Run) : State :=
  r.carryWritten.foldl (fun s key =>
    let core := key / 2048
    let reg := key % 2048
    match r.cores[core]?, s.ctx? r.part r.ctx with
    | some cr, some x =>
      let addr := tpBase cr.flat + reg * 4096
      let s := s.devWr r.part addr (x.saveArea.readN 0 (core * 2 ^ 23 + reg * 4096) 4096)
      let s := { s with tpDirty := s.tpDirty.filter (· ≠ (cr.flat, reg)) }
      s.addPoison (x.reloadMarks core cr.flat (· == reg))
    | _, _ => s) s

/-! ### Steps that a kill cuts short (R210) -/

/-- Steps of the copy engine. -/
def isTransfer : StepKind → Bool
  | .copy .. => true
  | .fill .. => true
  | .tpCopy .. => true
  | _ => false

/-- What is left of old bytes beyond the first `k`. -/
def beyond : Nat → List (Nat × Bytes) → List (Nat × Bytes)
  | _, [] => []
  | k, (a, bs) :: r => (a + min k bs.length, bs.drop k) :: beyond (k - bs.length) r

/-- Puts old bytes back: into tidepool, or in host memory, where the transfer had not come yet. -/
def State.putBack (s : State) (p : Nat) (l : List (Nat × Bytes)) : State :=
  l.foldl (fun s x =>
    if x.2.isEmpty then s
    else if inHostWindow x.1 then s.hostWr (s.hwinAddr p x.1) x.2 else s.devWr p x.1 x.2) s

/-- A step that a kill finds in flight: how far it had written is open, so a free value tells it. The copy engine ends with a whole block of
4 KiB, and its transfers that only waited have written nothing. -/
def State.cutStep (s : State) (p : Nat) (transfer first : Bool) (old : List (Nat × Bytes)) : State :=
  if transfer && !first then s.putBack p old
  else
    let total := (old.map (fun x => x.2.length)).sum
    let (s, v) := s.freeNat
    s.putBack p (beyond (if transfer then 4096 * (v % (total / 4096 + 2)) else v % (total + 1)) old)

/-- Stops the steps in flight on the cores of a run. -/
def State.cutSteps (s : State) (r : Run) : State :=
  r.cores.zipIdx.foldl (fun s c =>
    let list := r.img.steps.getD c.2 []
    let moves (j : Nat) : Bool := decide (65536 ≤ j) || ((list[j]?).map (fun w => isTransfer w.kind)).getD false
    c.1.undo.reverse.foldl (fun s u => s.cutStep r.part (moves u.1) ((c.1.inflight.find? moves) == some u.1) u.2) s) s

/-- Whether a command is an invocation at an OPTIMISER stage (R285). -/
def State.atOptimiser (s : State) (id : CmdId) : Bool :=
  s.invocations.any (fun i => i.id = id && s.accords.any (fun a => a.handle = i.accord && ((a.stages[i.stage]?).map (fun st => st.kind == 0xD)).getD false))

/-- Engine busy time of a run, by kind, charged as useful or wasted (R413, R414): what the cycle tables give for the completed steps, and
a free value for what no table gives (stalls, steps cut short, the sequencer). -/
def State.chargeEngines (s : State) (r : Run) (useful : Bool) : State :=
  let optimiser := s.atOptimiser r.id
  (List.range 5).foldl (fun s k =>
    let (s, v) := s.freeNat
    let t := r.busy.getD k 0 / 1000 + v % 2 ^ 32
    let s := if optimiser then s.updCtx r.part r.ctx (fun x => { x with optimiserNs := x.optimiserNs + t }) else s
    (s.updOutst r.id (fun o => { o with engineNs := o.engineNs + t })).chargeCmd r.id (if useful then k else 5 + k) t) s

/-- A command's shadows and bound generations go (R177, R210). -/
def State.dropShadows (s : State) (id : CmdId) : State :=
  ({ s with bindings := s.bindings.filter (fun b => b.id ≠ id) }).sweep

/-- Stops a run and discards its work (R210): engines stop and the copy engine ends its block, shadows go, queued prefetches go (R205), carried tidepool is
restored (R187), event counters are cleared (R201), its engine time is wasted (R414). -/
def State.killRun (s : State) (id : CmdId) : State :=
  match s.run? id with
  | none => s.dropShadows id
  | some r =>
    let s := (s.cutSteps r).restoreCarry r
    let s := s.clearEvents (r.cores.map (·.flat))
    (({ s with runs := s.runs.filter (fun x => x.id ≠ id) }).chargeEngines r false).dropShadows id

/-- Everything that a command holds beside its tag goes: its run, shadows, uncommitted slots, queries, invocation, waits. `st` is the
status that an operation of a ring is aborted with (R470); the charges so far are made (R414). -/
def State.abandonWith (s : State) (id : CmdId) (st : Status) : State :=
  let s := (((s.abortOps id st).killRun id).dropPend id).flushCharges id
  let s := (s.test.links.filter (fun l => l.id = id)).foldl State.endTest s
  let unWait (x : Sem) : Sem := { x with waiters := x.waiters.filter (fun w => w.id ≠ id) }
  let dropIdx (x : Index) : Index :=
    { (x.dropEntries (fun e => e.owner = some id)) with
             merge := match x.merge with
               | some m => if m.id = some id then none else some m
               | none => none }
  { s with
    queries := s.queries.filter (fun q => q.id ≠ id)
    invocations := s.invocations.filter (fun i => i.id ≠ id)
    sems := s.sems.map unWait
    indexes := s.indexes.map dropIdx
    fabric := { s.fabric with rings := s.fabric.rings.filter (fun r => r.forming ≠ some id) }
    test := { links := s.test.links.filter (fun l => l.id ≠ id), bist := s.test.bist.filter (fun b => b.id ≠ id)
              tapIr := s.test.tapIr, stack := s.test.stack, boundary := s.test.boundary }
    cfg := { s.cfg with waitingCeiling := s.cfg.waitingCeiling.filter (· ≠ id), waitingCap := s.cfg.waitingCap.filter (· ≠ id) }
    sec := { s.sec with updating := s.sec.updating.filter (fun (u : CmdId × Bytes) => decide (u.1 ≠ id)) }
    cfl := { s.cfl with op := s.cfl.op.map (fun o => if o.id = some id then { o with id := none, suspended := false } else o)
                        lowerCmd := if s.cfl.lowerCmd = some id then none else s.cfl.lowerCmd } }

/-- A command that is taken away with no status of its own. -/
def State.abandon (s : State) (id : CmdId) : State := s.abandonWith id .ringAborted

/-- The image of a command that runs, and whether it may be killed and run again (R212, R214). -/
def State.hasCollective (s : State) (id : CmdId) : Bool :=
  match s.run? id with
  | some r => r.img.hasCollective
  | none => false

/-- Puts a killed command back at the head of its queue: it waits to start again (R400, R211). -/
def State.requeue (s : State) (id : CmdId) : State := s.updOutst id (fun o => { o with phase := .waiting, readyAt := s.now, readySeq := readyNext s.host.outst, resultBad := false })

/-- The 8 bytes that a TRAIN invocation writes when it fails: the index of its stage, then 0 (R530). -/
def State.failBytes (s : State) (id : CmdId) : Bytes :=
  match s.invocations.find? (fun i => i.id = id) with
  | some i => if s.accords.any (fun a => a.handle = i.accord && a.kind == 2) then leBytes 4 i.stage ++ zeros 4 else []
  | none => []

/-- The 8 bytes that a load or a TRAIN ACCORD_RUN writes which fails with its dependencies met and before it has started (R530): no check has failed, and the
stage is the one that it names. -/
def State.unstartedFailBytes (s : State) (o : Outst) : Bytes :=
  if o.phase ≠ .waiting || !o.ready s.host.outst || !(o.hold || decide (8 ≤ o.rbufLen)) then []
  else
    match o.cmd with
    | .progLoad _ => zeros 8
    | .accordLoad .. => zeros 8
    | .accordRun _ acc start _ => if s.accords.any (fun a => a.handle = acc && a.kind == 2) then leBytes 4 start ++ zeros 4 else []
    | _ => []

/-- What stays of an invocation that is killed and runs again: the stages that a TRAIN invocation has committed (R297), or the items of a
RETRIEVE invocation with its snapshot and epoch base, once it has taken them (R256, R294). -/
def Invocation.kept (i : Invocation) (kind : Nat) : Option Invocation :=
  if kind = 2 then some { i with busy := false }
  else if i.snap.isSome then
    some { i with busy := false, stage := 0, cands := [], heads := [], snippets := [], output := [], flags := 0, saturations := 0, nanConv := 0
                  rescales := 0, emptySteps := 0 }
  else none

def State.keptInvs (s : State) (id : CmdId) : List Invocation :=
  (s.invocations.filter (fun i => i.id = id)).filterMap (fun i =>
    match s.accords.find? (fun a => a.handle = i.accord) with
    | some a => i.kept a.kind
    | none => none)

/-- Whether a command is a batch of queries that is pending, or a merge: it re-runs in place (R256, R271). -/
def State.rerunsInPlace (s : State) (id : CmdId) : Bool :=
  s.queries.any (fun q => q.id = id) || s.indexes.any (fun x => (x.merge.map (·.id)) = some (some id))

/-- A command of a class hit by a fault (R623, R214): re-run, or completed with UNIT_FAULT on the third kill. Queries start again with the
same snapshot and epoch base and stay pending meanwhile (R256); a merge repeats its round (R271). -/
def State.faultKill (s : State) (id : CmdId) (unit : Nat) : State :=
  match s.outst? id with
  | none => s
  | some o =>
    if o.phase ≠ .running then s
    else if s.rerunsInPlace id && decide (o.faultKills < 2) then
      ({ s with queries := mapIf (fun q => q.id = id) Query.restart s.queries }).updOutst id (fun o => { o with faultKills := o.faultKills + 1 })
    else
      let coll := s.hasCollective id
      let bs := s.failBytes id
      let kept := s.keptInvs id
      let s := s.abandonWith id .unitFault
      let s := s.updOutst id (fun o => { o with faultKills := o.faultKills + 1 })
      if coll || 3 ≤ o.faultKills + 1 then s.completeId id .unitFault unit bs
      else { s with invocations := s.invocations ++ kept }.requeue id

/-- A command hit by an uncorrectable error in a tier (R222, R223): re-run once, then DATA_POISONED; a collective is not re-run. -/
def State.poisonKill (tier : Nat) (s : State) (id : CmdId) : State :=
  match s.outst? id with
  | none => s
  | some o =>
    let coll := s.hasCollective id
    let bs := s.failBytes id
    let kept := s.keptInvs id
    let s := s.abandonWith id .dataPoisoned
    if coll || !o.poisonKills.isEmpty then s.completeId id .dataPoisoned 0 bs
    else ({ s with invocations := s.invocations ++ kept }.updOutst id (fun o => { o with poisonKills := o.poisonKills ++ [tier] })).requeue id

/-- A run that fails ends at once with its status (R501); everything it made is discarded. -/
def State.failRun (s : State) (id : CmdId) (st : Status) (detail : Nat) : State :=
  let bs := s.failBytes id
  (s.abandonWith id st).completeId id st detail bs

/-- Whether a tensor is a weight of a bound model (R299). -/
def State.isWeight (s : State) (h : Nat) : Bool := s.models.any (fun m => m.weights.contains h)

/-- Tensors that a command has bound. -/
def State.boundInputs (s : State) (id : CmdId) : List Nat := ((s.binding? id).map (fun b => b.inputs.map (·.handle))).getD []

/-- A tensor is found unreadable (R172, R222): where it is a weight of a bound model, every invocation that has bound it and still runs ends,
without a re-run (R304). -/
def State.loseTensor (s : State) (h : Nat) : State :=
  let s := s.poisonTensor h
  let hit := s.invocations.filter (fun i => s.isWeight h && (s.boundInputs i.id).contains h)
  hit.foldl (fun s i => s.failRun i.id .weightsUnreadable i.stage) s

end Sys2Proof.Machine
end

