-- ==== Sys2Proof/Machine/Checks.lean ====
section
/-!
DEFINITION. What a checker's finding does (chapter *Memory integrity*): correctable errors and hard faults (R218, R229 to R233), and the
*Uncorrectable data* table (R222).
-/
namespace Sys2Proof.Machine

open Sys2Proof

/-- The checked unit that holds an address: a 64-bit word, or a 32-byte sector of near memory (R217, R229). -/
def checkedUnit (st : Store) (addr : Nat) : Nat := if st = .nearMemory then addr / 32 * 32 else addr / 8 * 8

/-- The tidepool bank of an address: the powered banks lie one after another (R151). Answers flat core × 16 + bank. -/
def State.bankOf (s : State) (addr : Nat) : Nat :=
  let core := addr / 0x800000
  let nth := addr % 0x800000 / 0x60000
  let mask := match s.clusterOwner (core / 8) with
    | some p => (s.entry p).tpBankMask
    | none => 0xFFFF
  core * 16 + (maskList 16 mask).getD nth 0

/-- The tracker and the spares that serve an address (R231, R232): a tidepool bank, a core's accumulator memory, a die cache, or a
pseudo-channel. Accumulator addresses count 2^20 bytes to a core; a die-cache line is named by its near-memory address. -/
def State.trackerOf (s : State) (st : Store) (addr : Nat) : Nat :=
  match st with
  | .tidepool => s.bankOf addr
  | .accumulator => addr / 2 ^ 20
  | .dieCache => nmDie addr
  | .nearMemory => let l := nmLocate addr; l.1 * 64 + l.2.2
  | _ => 0

/-- Addresses that one tracker follows (R231). -/
def trackerSize : Store → Nat
  | .tidepool => 16
  | .accumulator => 16
  | _ => 64

/-- The granule that a remap moves (R232). -/
def granuleOf (st : Store) (addr : Nat) : Nat :=
  match st with
  | .tidepool => addr / 64 * 64
  | .accumulator => addr / 512 * 512
  | .dieCache => addr / 128 * 128
  | _ => addr / 32 * 32

/-- Bytes of a granule. -/
def granuleLen : Store → Nat
  | .tidepool => 64
  | .accumulator => 512
  | .dieCache => 128
  | _ => 32

/-- Spares for the tracker of a store (R232); for the die cache, disabled lines in one set. -/
def spareCount : Store → Nat
  | .tidepool => 8
  | .accumulator => 4
  | .dieCache => 4
  | _ => 64

/-- Where the spares of an address are counted: the die cache counts a set of 16 lines, 32,768 sets to a die. -/
def State.spareKey (s : State) (st : Store) (addr : Nat) : Nat :=
  if st = .dieCache then nmDie addr * 32768 + addr / 128 % 32768 else s.trackerOf st addr

/-- Forgets counts and latent errors of a granule that has been remapped. -/
def IntegSt.forget (g : IntegSt) (st : Store) (lo n : Nat) : IntegSt :=
  let out (k : Store × Nat) : Bool := !(k.1 = st && decide (lo ≤ k.2) && decide (k.2 < lo + n))
  { g with weak := g.weak.filter out, counted := g.counted.filter out, injected := g.injected.filter out
           trackers := g.trackers.filter (fun t => out (t.1, t.2.1)) }

/-- A unit that a hard fault has used up (R232): its containment follows the finding (`State.settleFaults`). -/
def State.faultDue (s : State) (u : Nat) : State := { s with integ := { s.integ with due := addOnce u s.integ.due } }

/-- A core, cluster or die that has run out of spares: the remap tables take the retirement (R232, R236). -/
def State.retireUnit (s : State) (u : Nat) : State :=
  { s with integ := { s.integ with retiredUnits := s.integ.retiredUnits.filter (fun x => x.1 ≠ u) ++ [(u, false)] } }

/-- The way of its set that a line stands in; where the line has gone by now, the first way that may still be filled. -/
def State.wayOf (s : State) (line : Nat) : Nat :=
  match s.dcache.find? (fun x => x.addr = line) with
  | some l => l.way
  | none => (s.fillWays line).headD 0

/-- A line leaves its way and is fetched again from memory, into a way that may still be filled; a pinned one stays pinned (R165, R222, R232). -/
def State.refetch (s : State) (line : Nat) : State :=
  match s.dcache.find? (fun x => x.addr = line) with
  | none => s
  | some l =>
    let s := s.dropLines (· == line)
    if l.pinned then s.pinLine line else s.touchLine line false true

/-- Remaps a hard fault (R230, R232, R233, R235): a spare takes the granule's corrected contents, or the table's last column holds. -/
def State.remap (s : State) (st : Store) (addr : Nat) : State :=
  let g := granuleOf st addr
  let key := s.spareKey st addr
  let used := (s.integ.remaps.filter (fun r => r.store = st && r.key == key)).length
  let s := { s with integ := s.integ.forget st g (granuleLen st) }
  if used < spareCount st then
    let e : Remap := { store := st, addr := g, key := key, saved := false, way := if st = .dieCache then s.wayOf g else 0 }
    let s : State := { s with integ := { s.integ with remaps := s.integ.remaps ++ [e] } }
    (if st = .dieCache then s.refetch g else s).integrity (Store.tier st) clsRemapped
  else
    match st with
    | .tidepool => (s.integrity 0 clsRetired).faultDue (0x6000 + s.bankOf addr)
    | .accumulator => ((s.integrity 1 clsRetired).retireUnit (0x4000 + s.trackerOf st addr)).faultDue (0x4000 + s.trackerOf st addr)
    | .dieCache => ((s.integrity 2 clsRetired).retireUnit (0xA000 + nmDie addr)).faultDue (0xA000 + nmDie addr)
    | .nearMemory =>
      let unit := addr / 65536 * 65536
      if s.integ.withheld.any (fun w => w.1 == unit) then s
      else
        let s : State := { s with integ := { s.integ with withheld := s.integ.withheld ++ [(unit, false)] } }
        s.integrity 4 clsRetired
    | _ => s

/-- Counts a correctable error toward the hard-fault rule (R230, R231). -/
def State.track (s : State) (st : Store) (unit : Nat) : State :=
  match s.integ.trackers.find? (fun t => t.1 = st && t.2.1 == unit) with
  | some t =>
    if 3 ≤ t.2.2 + 1 then s.remap st unit
    else
      let bump (x : Store × Nat × Nat) : Store × Nat × Nat := (x.1, x.2.1, x.2.2 + 1)
      { s with integ := { s.integ with trackers := mapIf (fun x => x.1 = st && x.2.1 == unit) bump s.integ.trackers } }
  | none =>
    let mine := s.integ.trackers.filter (fun x => x.1 = st && s.trackerOf st x.2.1 == s.trackerOf st unit)
    let out := if mine.length < trackerSize st then none else leastBy (fun a b => decide (a.2.2 < b.2.2)) mine
    let rest := match out with
      | some v => s.integ.trackers.filter (· ≠ v)
      | none => s.integ.trackers
    { s with integ := { s.integ with trackers := rest ++ [(st, unit, 1)] } }

/-- A checker finds a correctable error (R229, R241): counted once until the place is next written, scrubbed or remapped; an injected
one does not count toward a hard fault (R242). -/
def State.correctable (s : State) (st : Store) (addr : Nat) : State :=
  let k := (st, checkedUnit st addr)
  if k ∈ s.integ.counted then s
  else
    let inj : Bool := decide (k ∈ s.integ.injected)
    let s : State := { s with integ := { s.integ with counted := s.integ.counted ++ [k], weak := addOnce k s.integ.weak } }
    let s := s.integrity (Store.tier st) clsCorrected
    if inj then s else s.track st k.2

/-! ### Uncorrectable data (R222, R223) -/

/-- Whether an address lies in one of the parts of a descriptor. -/
def Desc.covers (d : Desc) (addr : Nat) : Bool :=
  (List.range 5).any (fun k => d.bases.getD k 0 != 0 && decide (d.bases.getD k 0 ≤ addr) && decide (addr < d.bases.getD k 0 + d.regionBytes k))

/-- The commands whose shadows hold an address. -/
def State.shadowOwners (s : State) (addr : Nat) : List CmdId :=
  (s.bindings.filter (fun b => b.shadows.any (fun sh =>
    s.allocs.any (fun a => sh.bases.contains a.base && decide (a.base ≤ addr) && decide (addr < a.base + a.size))))).map (·.id)

/-- Which table of an index an address lies in, and the 32-byte sector of the table that holds it: 0 sketches, 1 directory, 2 tombstones
(R249, R250); `allocs` holds the sketch table's part on each die, then the directory and the bitmap. -/
def State.tableAt (s : State) (x : Index) (addr : Nat) : Option (Nat × Nat) :=
  (x.allocs.zipIdx.find? (fun b => s.allocs.any (fun a => a.base == b.1 && decide (b.1 ≤ addr) && decide (addr < b.1 + a.size)))).map (fun b =>
    (b.2 + 2 - x.allocs.length + (if b.2 + 2 < x.allocs.length then 0 else 1), (addr - b.1) / 32))

/-- Forgets the poison marks of near memory that a test picks. -/
def State.dropMarks (s : State) (f : Nat → Bool) : State :=
  { s with integ := { s.integ with poison := s.integ.poison.filter (fun k => !(k.1 = .nearMemory && f k.2)) } }

/-- The index tables' rows of the *Index damage* table (R280): a directory sector holds poison and a sector of the bitmap reads as zero, both
until a sweep rebuilds them; a sketch entry is rebuilt from its record, so its mark goes at once. -/
def State.reactTables (s : State) (addr : Nat) : State :=
  s.indexes.foldl (fun s x =>
    match s.tableAt x addr with
    | none => s
    | some (0, _) => s.dropMarks (fun a => a == addr / 32 * 32)
    | some (1, sec) => { s with indexes := mapIf (fun y => y.ns = x.ns) (fun (y : Index) => { y with dirPoison := addOnce sec y.dirPoison }) s.indexes }
    | some (_, sec) =>
      { s with indexes := mapIf (fun y => y.ns = x.ns) (fun (y : Index) => { y with tombstones := y.tombstones.filter (fun n => n / 256 ≠ sec) }) s.indexes }) s

/-- Marks accord `n` as one whose state is poisoned (R301): its invocations that run complete with DATA_POISONED. -/
def State.poisonAccord (s : State) (n : Nat) : State :=
  match s.accords[n % s.accords.length]? with
  | none => s
  | some a =>
    let mark (x : Accord) : Accord := { x with poisoned := true }
    let hit := s.invocations.filter (fun i => i.accord = a.handle)
    hit.foldl (fun s i => s.failRun i.id .dataPoisoned 0) { s with accords := mapIf (fun x => x.handle = a.handle) mark s.accords }

/-- Marks a driftline entry of an index as poisoned (R280). -/
def State.poisonDrift (s : State) (n entry : Nat) : State :=
  let mark (e : DEntry) : DEntry := { e with poisoned := true }
  let hit (x : Index) : Index :=
    { x with driftline := x.driftline.zipIdx.map (fun e => if e.2 = entry % x.driftline.length then mark e.1 else e.1) }
  { s with indexes := s.indexes.zipIdx.map (fun x => if x.2 = n % s.indexes.length then hit x.1 else x.1) }

/-- A driftline entry of an index whose log copy is unreadable too: queries on the index fail until it is destroyed (R280). -/
def State.loseDrift (s : State) (n : Nat) : State :=
  match s.indexes[n % s.indexes.length]? with
  | none => s
  | some x =>
    if x.driftline.isEmpty then s
    else
      let s := { s with indexes := mapIf (fun y => y.ns = x.ns) (fun (y : Index) => { y with lost := true }) s.indexes }
      (((s.queries.filter (fun q => q.ns == x.ns)).map (·.id)).eraseDups).foldl (fun s id => s.failRun id .dataPoisoned 0) s

/-- Marks a sector of the save area of context `n` as poisoned (R222). -/
def State.poisonSave (s : State) (n sector : Nat) : State :=
  let mark (x : Ctx) : Ctx := { x with savePoison := addOnce sector x.savePoison }
  { s with ctxs := s.ctxs.zipIdx.map (fun x => if x.2 = n % s.ctxs.length then mark x.1 else x.1) }

/-- Marks what a running command is to post (R225). -/
def State.poisonResult (s : State) (n : Nat) : State :=
  let live := s.host.outst.filter (fun o => o.phase = .running)
  match live[n % live.length]? with
  | some o => s.updOutst o.id (fun o => { o with resultBad := true })
  | none => s

/-- Whether an address lies in the firmware reservation of its die (R158). -/
def State.isReserved (s : State) (addr : Nat) : Bool :=
  decide (nmBase ≤ addr) && decide (nmDie addr < Variant.dies s.variant) && decide (s.nmLimit (nmDie addr) ≤ (addr - nmBase) % nmWindow)

/-- The firmware reservation's row of R222. What a sector of it holds is private to the device, so a free value tells it: accord state, a
driftline entry, one whose log copy is unreadable too, a sector of a context's save area, result data that waits to be posted (R225), or nothing
of which the manual states an effect. -/
def State.reactReserved (s : State) : State :=
  let (s, u) := s.freeNat
  let n := u / 8 % 65536
  let k := u / 2 ^ 19
  match u % 8 with
  | 0 => s.poisonAccord n
  | 1 => s.poisonDrift n k
  | 2 => s.loseDrift n
  | 3 => s.poisonSave n (k % 2 ^ 26)
  | 4 => s.poisonResult n
  | _ => s

/-- An uncorrectable error in near memory: the tensor that it lies in is lost, or the command whose shadow it lies in is re-run; index tables
and the reservation have rows of their own. -/
def State.reactNear (s : State) (addr : Nat) : State :=
  -- a copy of an entry point is read again from its record (R280)
  if (copyNs addr).isSome then s
  else if s.isReserved addr then s.reactReserved
  else
    let hit := (s.tensors.filter (fun t => (t.desc.tier == 1 || t.desc.tier == 3) && t.desc.covers addr)).map (·.desc.handle)
    let s := hit.foldl State.loseTensor s
    ((s.shadowOwners addr).foldl (State.poisonKill 4) s).reactTables addr

/-- The declared core of a flat core in the run that uses it. -/
def Run.declared (r : Run) (flat : Nat) : Nat := (r.cores.findIdx? (fun c => c.flat = flat)).getD 0

/-- Reloads one tidepool region of a core from the save area of the context whose state it holds (R222). -/
def State.reloadRegion (s : State) (p c core flat reg : Nat) : State :=
  match s.ctx? p c with
  | none => s
  | some x =>
    s.devWr p (tpBase flat + 4096 * reg) (x.saveArea.readN 0 (core * 2 ^ 23 + 4096 * reg) 4096)

/-- Whether the save area holds poison where a region's copy stands. -/
def State.saveBad (s : State) (p c core reg : Nat) : Bool :=
  ((s.ctx? p c).map (fun x => x.savePoison.any (fun k => k / 128 == core * 2048 + reg))).getD false

/-- An uncorrectable error in tidepool (the three tidepool rows of the table). -/
def State.reactTidepool (s : State) (addr : Nat) : State :=
  let flat := addr / 0x800000
  let reg := addr % 0x800000 / 4096
  match s.runOn flat with
  | none => s
  | some r =>
    let core := r.declared flat
    if r.img.carry ≤ reg * 4096 || (core * 2048 + reg) ∈ r.carryWritten then s.poisonKill 0 r.id
    else if (flat, reg) ∈ s.tpDirty || s.saveBad r.part r.ctx core reg then s.failRun r.id .dataPoisoned 0
    else (s.reloadRegion r.part r.ctx core flat reg).poisonKill 0 r.id

/-- A word or sector with an uncorrectable error takes the poison mark (R220, R241). -/
def State.marked (s : State) (st : Store) (addr : Nat) : State :=
  let k := (st, checkedUnit st addr)
  let mark := st = .tidepool || st = .nearMemory || st = .accumulator
  let s := { s with integ := { s.integ with
      poison := if mark then addOnce k s.integ.poison else s.integ.poison
      bad := s.integ.bad.filter (· ≠ k), weak := s.integ.weak.filter (· ≠ k) } }
  if mark then s.integrity (Store.tier st) clsPoisoned else s

/-- The die-cache rows (R163, R222): a clean line is fetched again from memory; of a dirty one, the sector that holds the bad word is written
back poisoned, and its owner meets what an error in near memory brings. -/
def State.reactCache (s : State) (addr : Nat) : State :=
  match s.dcache.find? (fun l => l.addr = lineOf addr) with
  | none => s
  | some l =>
    if l.dirty then
      let s := s.dropLines (· == l.addr)
      if (Store.nearMemory, addr / 32 * 32) ∈ s.integ.poison then s else (s.marked .nearMemory addr).reactNear addr
    else (s.refetch l.addr).integrity 2 clsRecovered

/-- The running commands that move the data of a device address over the on-die paths and the links between dies (R217, R222): the run on a
tidepool's core; of near memory, the commands that have bound an allocation there, and those whose queries walk an index that has a table there. -/
def State.movers (s : State) (addr : Nat) : List CmdId :=
  if addr < 0x80000000 then ((s.runOn (addr / 0x800000)).map (·.id)).toList
  else
    let here := s.allocs.filter (fun a => decide (a.base ≤ addr) && decide (addr < a.base + a.size))
    let has (bs : List Nat) : Bool := here.any (fun a => bs.contains a.base)
    ((s.bindings.filter (fun b => b.inputs.any (fun d => has d.bases) || b.shadows.any (fun h => has h.bases))).map (·.id) ++
      (s.queries.filter (fun q => s.indexes.any (fun x => x.ns = q.ns && has x.allocs))).map (·.id)).filter
        (fun id => ((s.outst? id).map (fun o => o.phase == .running)).getD false)

/-- The reaction of R222 to an uncorrectable error first found at an address. -/
def State.react (s : State) (st : Store) (addr : Nat) : State :=
  match st with
  | .tidepool => s.reactTidepool addr
  | .nearMemory => s.reactNear addr
  | .accumulator => (match s.runOn (addr / 2 ^ 20) with
    | some r => s.poisonKill 1 r.id
    | none => s)
  | .path => (match (s.movers addr).head? with
    | some id => s.poisonKill 3 id
    | none => s)
  | .dieCache => s.reactCache addr
  | .flash => s

/-- A checker finds an uncorrectable error (R220, R222, R241): the place takes the poison mark, and the reaction follows. -/
def State.uncorrectable (s : State) (st : Store) (addr : Nat) : State :=
  if (st, checkedUnit st addr) ∈ s.integ.poison then s else (s.marked st addr).react st addr

/-- What the checkers find when `n` bytes from `addr` are read, other than by a scrub (R218, R222): latent errors of the model's own
marks. The read goes through the die cache, with the no-allocate hint or without (R163). -/
def State.lookHint (hint : Bool) (s : State) (addr n : Nat) : State :=
  let hits (l : List (Store × Nat)) : List (Store × Nat) :=
    l.filter (fun k => touchedBy addr n k && (k.1 != .dieCache || s.dcache.any (fun x => x.addr == lineOf k.2)))
  let s := s.cacheRead addr n hint
  let s := (hits s.integ.weak).foldl (fun s k => s.correctable k.1 k.2) s
  (hits s.integ.bad).foldl (fun s k => s.uncorrectable k.1 k.2) s

/-- A read that fills the lines that it misses. -/
def State.look (s : State) (addr n : Nat) : State := s.lookHint false addr n

/-- What the checkers find when the device reads for itself, where the data goes on with its poison and no command is the reader: marks and
counts alone (R218, R220, R241). -/
def State.findAll (s : State) (addr n : Nat) : State :=
  let hits (l : List (Store × Nat)) : List (Store × Nat) := l.filter (fun k => touchedBy addr n k)
  let s := s.cacheRead addr n false
  let s := (hits s.integ.weak).foldl (fun s k => s.correctable k.1 k.2) s
  (hits s.integ.bad).foldl (fun s k => s.marked k.1 k.2) s

end Sys2Proof.Machine
end

