-- ==== Sys2Proof/Machine/Runs.lean ====
section
/-!
DEFINITION. Binding, shadows, staging and write-back (R172 to R184), the start and the kill of a run (R193, R210, R211), and
the parts of the commit that all commands share (R207).
-/
namespace Sys2Proof.Machine

open Sys2Proof

/-! ### Descriptors with allocated parts -/

def Desc.setBases (d : Desc) (b : List Nat) : Desc :=
  { d with base := b.getD 0 0, expBase := b.getD 1 0, scaleBase := b.getD 2 0, sumsBase := b.getD 3 0, statsBase := b.getD 4 0 }

/-- Allocates the parts that `want` picks, all on one die (R168); 0 stands for a part that is not there. -/
def State.allocParts (s : State) (p die : Nat) (want : Nat → Nat) : List Nat → Option (State × List Nat)
  | [] => some (s, [])
  | k :: ks =>
    match (if want k = 0 then some (s, 0) else s.alloc p die (want k)) with
    | none => none
    | some (s, b) =>
      match State.allocParts s p die want ks with
      | none => none
      | some (s, bs) => some (s, b :: bs)

/-- The dies that an allocation with a HOME considers, in order (R161). -/
def State.homeDies (s : State) (p home : Nat) : List Nat :=
  let own := (s.partDies p).filter s.dieUp
  let others := (List.range (Variant.dies s.variant)).filter (fun d => s.dieUp d && d ∉ own)
  if home = 0xFF then s.autoOrder own ++ (if s.cfg.inForce.isolation = 1 then [] else s.autoOrder others) else [home]

/-- Allocates all five parts of a tensor, and a dirty bitmap as part 5, on its home die, the first die of R161 that takes them all. -/
def State.allocTensor (s : State) (p home : Nat) (want : Nat → Nat) : Option (State × List Nat) :=
  (s.homeDies p home).findSome? (fun d => State.allocParts s p d want [0, 1, 2, 3, 4, 5])

/-- Bytes of a dirty bitmap: one bit to a page of 16 KiB (R168, R180). -/
def Desc.mapBytes (d : Desc) : Nat := ceilDiv d.maxPages 8

/-- Allocates what staging needs: the five parts and the dirty bitmap (R168, R180). -/
def State.allocStaged (s : State) (p home : Nat) (d : Desc) : Option (State × List Nat) :=
  s.allocTensor p home (fun k => if k = 5 then d.mapBytes else d.regionBytes k)

/-! ### Flash backing (R676, R180 to R184) -/

/-- Namespace and object of a BACKING field (R168). -/
def backingOf (b : Nat) : Nat × Nat := (b % 256, b / 256 % 2 ^ 48)

/-- First logical block of page `pg` of part `k` in the backing object. -/
def Desc.pageBlock (d : Desc) (o : Obj) (k pg : Nat) : Nat := o.first + 4 * (d.firstPage k + pg)

/-- Writes blocks of a namespace of generation `gen` straight to NAND, carrying a unit's other blocks over (R183); the blocks in `bad` are
written as poisoned. None where a unit finds no place. -/
def State.writeThrough (s : State) (gen ns lba count : Nat) (data : Bytes) (bad : List Nat := []) : Option State :=
  (unitsOf lba count).foldl (fun o u => o.bind (fun s =>
    let blocks := (List.range 4).flatMap (fun b =>
      if bitAt u.2 b then slice data ((4 * u.1 + b - lba) * 4096) 4096 else s.blockAt ns (4 * u.1 + b))
    (if u.2 = 15 then s else s.readPage ns u.1).writeUnit gen ns u.1 u.2 blocks ((List.range 4).filter (fun b => bad.contains (4 * u.1 + b))))) (some s)

/-- The blocks, from `lba` on, of the 16 KiB that `n` bytes of near memory give which hold poison: a write-back carries it into flash, so that no
later read takes the data for good (R222, R224; log entry 84). -/
def State.badBlocks (s : State) (addr n lba : Nat) : List Nat :=
  ((List.range 4).filter (fun b => s.poisoned (addr + 4096 * b) (min 4096 (n - 4096 * b)))).map (· + lba)

/-- Counts blocks that have been written to flash as poisoned (POISONED, R241). -/
def State.noteBad (s : State) (bad : List Nat) : State := bad.foldl (fun s _ => s.integrity 5 clsPoisoned) s

/-- A staged tensor without a dirty page is STAGED, no longer DIRTY (R172, R183). -/
def Tensor.settled (t : Tensor) : Tensor := if t.desc.state = 2 && t.dirty.isEmpty then { t with desc := { t.desc with state := 1 } } else t

/-- Clears the dirty bit of a page. -/
def Tensor.cleaned (t : Tensor) (k pg : Nat) : Tensor := ({ t with dirty := t.dirty.filter (fun e => !(e.1 = k && e.2.1 = pg)) } : Tensor).settled

/-- Writes one dirty page of a tensor back and clears its bit; a backing object that is gone or too short poisons the tensor (R304, R676). Where
the flash store has no place for it now, the page stays dirty. -/
def State.writeBackPage (s : State) (h k pg : Nat) : State :=
  match s.tensor? h with
  | none => s
  | some t =>
    let clear (x : Tensor) : Tensor := x.cleaned k pg
    let (ns, o) := backingOf t.desc.backing
    match s.obj? ns o with
    | none => (s.updTensor h clear).loseTensor h
    | some obj =>
      if obj.length < (t.desc.firstPage k + pg + 1) * 16384 then (s.updTensor h clear).loseTensor h
      else
        let n := min 16384 (t.desc.partBytes k - pg * 16384)
        let addr := t.desc.bases.getD k 0 + pg * 16384
        let s := s.look addr n
        let bad := s.badBlocks addr n (t.desc.pageBlock obj k pg)
        let gen := ((t.dirty.find? (fun e => e.1 = k && e.2.1 = pg)).map (·.2.2)).getD s.lastSeq
        match s.writeThrough gen ns (t.desc.pageBlock obj k pg) 4 (padTo 16384 (s.rd addr n)) bad with
        | none => s
        | some u => ((u.noteBad bad).charge t.desc.part t.ctx 15 s.unitTraffic).updTensor h clear

/-- Writes back every dirty page in ascending order; a clean staged tensor is STAGED (R172, R183). -/
def State.writeBackAll (s : State) (h : Nat) : State :=
  match s.tensor? h with
  | none => s
  | some t =>
    let pages := sortBy (fun a b => decide (a.1 < b.1) || (a.1 == b.1 && decide (a.2.1 < b.2.1))) t.dirty
    let s := pages.foldl (fun s e => s.writeBackPage h e.1 e.2.1) s
    s.updTensor h Tensor.settled

/-- Whether a tensor has no dirty page left. -/
def State.isClean (s : State) (h : Nat) : Bool := ((s.tensor? h).map (fun t => t.dirty.isEmpty)).getD true

/-- A dirty page of near memory: of a tensor (its handle, part and page) or of an index table (its namespace, table and page). -/
inductive DirtyPage where
  | tensor (h k pg : Nat)
  | index (ns k pg : Nat)
  deriving DecidableEq, Repr

/-- Every dirty page with the commit sequence number of its generation (R181, R251). -/
def State.dirtyPages (s : State) : List (DirtyPage × Nat) :=
  s.tensors.flatMap (fun t => t.dirty.map (fun e => (DirtyPage.tensor t.desc.handle e.1 e.2.1, e.2.2))) ++
    s.indexes.flatMap (fun x => x.dirty.map (fun e => (DirtyPage.index x.ns e.1 e.2.1, e.2.2)))

/-- The oldest dirty page, by committed generation (R181). -/
def State.oldestDirty (s : State) : Option DirtyPage := (leastBy (fun a b => seqLt a.2 b.2) s.dirtyPages).map Prod.fst

/-- The blocks of a table page's flash copy whose near memory holds poison: those of the directory alone stay so (R280). -/
def Index.badPieces (x : Index) (k pg : Nat) : List Nat :=
  if k = 1 then
    ((List.range 4).filter (fun b => x.dirPoison.any (fun sec => sec / 128 == 4 * pg + b))).map (fun b => 4 * x.params.tableUnit k pg + b)
  else []

/-- Writes back one dirty page of an index table to its flash copy (R251); it stays dirty where there is no place for it now. -/
def State.writeBackTable (s : State) (ns k pg : Nat) : State :=
  match s.index? ns with
  | none => s
  | some x =>
    let clear (y : Index) : Index := { y with dirty := y.dirty.filter (fun e => !(e.1 = k && e.2.1 = pg)) }
    let s := (x.pageSpans k pg).foldl (fun s a => s.look a.1 a.2) s
    let x := (s.index? ns).getD x
    let bad := x.badPieces k pg
    let gen := ((x.dirty.find? (fun e => e.1 = k && e.2.1 = pg)).map (·.2.2)).getD s.lastSeq
    match s.writeThrough gen ns (4 * x.params.tableUnit k pg) 4 (x.pageBytes k pg) bad with
    | none => s
    | some u => ((u.noteBad bad).charge x.part x.ctx 15 s.unitTraffic).updIndex ns clear

/-- Writes back one dirty page. -/
def State.writeBackOne (s : State) : DirtyPage → State
  | .tensor h k pg => s.writeBackPage h k pg
  | .index ns k pg => s.writeBackTable ns k pg

/-- Writes back dirty pages, oldest first, until the pieces that a commit would add fit the ceiling (R181, order 2 of the commit). A page that
goes clean here and that the commit dirties again counts among them. -/
def State.makeRoom (adds : State → Nat) : Nat → State → State
  | 0, s => s
  | fuel + 1, s =>
    if s.dirtyPieces + adds s ≤ s.ceilingPieces then s
    else
      match s.oldestDirty with
      | none => s
      | some d => State.makeRoom adds fuel (s.writeBackOne d).settleCeiling

/-- Releases the near-memory copy of a staged tensor that is clean: it is VALID again (R172). -/
def State.unstage (s : State) (h : Nat) : State :=
  (s.updTensor h (fun t => { t with staged := false, desc := { (t.desc.setBases []) with state := if t.desc.state = 3 then 3 else 0, dirtyMap := 0 } })).sweep

/-- The tensor that the device may evict next: EVICTABLE, staged, bound by nobody, no weight of a bound model, least recently bound (R183,
R299). -/
def State.evictable (s : State) (p : Nat) : Option Nat :=
  (leastBy (fun a b => decide (a.lastBound < b.lastBound))
    (s.tensors.filter (fun t => t.desc.part = p && t.staged && bitAt t.desc.flags 3 && !s.isBound t.desc.handle
      && !s.models.any (fun m => m.weights.contains t.desc.handle)))).map (·.desc.handle)

/-- Every page of the parts that a tensor holds, by part. -/
def Desc.allPages (d : Desc) : List (Nat × Nat) := (List.range 5).flatMap (fun k => (List.range (d.pagesOf k)).map (fun pg => (k, pg)))

/-- Copies one page of a backing object into near memory for a command, which is charged for it (R413); the bytes of a block that cannot be read
take the poison mark (R222). -/
def State.stagePage (id : CmdId) (ns : Nat) (obj : Obj) (d : Desc) (bases : List Nat) (s : State) (x : Nat × Nat) : State :=
  let n := min 16384 (d.regionBytes x.1 - x.2 * 16384)
  let lba := d.pageBlock obj x.1 x.2
  let addr := bases.getD x.1 0 + x.2 * 16384
  let bytes := ((List.range 4).flatMap (fun b => s.blockAt ns (lba + b))).take n
  let bad := (List.range 4).filter (fun b => s.blockBad ns (lba + b) && decide (4096 * b < n))
  let s := (((s.noteReads ns lba 4).noteLost ns lba 4).chargeBytes id 14 (s.readTraffic ns lba 4)).devWr d.part addr bytes
  s.addPoison (bad.flatMap (fun b => poisonKeys (addr + 4096 * b) (min 4096 (n - 4096 * b))))

/-- Copies the parts of a backing object into near memory; an unreadable block poisons the tensor, and one that was POISONED stays so
(R172, R222). -/
def State.fillStaged (s : State) (id : CmdId) (h : Nat) (obj : Obj) (d : Desc) (bases : List Nat) : State :=
  let ns := (backingOf d.backing).1
  let bad := d.allPages.any (fun x => (List.range 4).any (fun b => s.blockBad ns (d.pageBlock obj x.1 x.2 + b)))
  let s := d.allPages.foldl (State.stagePage id ns obj d bases) s
  let s := s.updTensor h (fun t =>
    { t with staged := true
             desc := { (t.desc.setBases bases) with state := if t.desc.state = 3 then 3 else 1, dirtyMap := bases.getD 5 0 } })
  if bad then s.loseTensor h else s

/-- Stages a flash-backed tensor for a command, evicting others to make room (R172, R183); none when it cannot fit. -/
def State.stage (id : CmdId) (h : Nat) : Nat → State → Option State
  | 0, _ => none
  | fuel + 1, s =>
    match s.tensor? h with
    | none => some s
    | some t =>
      if t.staged || t.desc.tier ≠ 3 then some s
      else
        let (ns, o) := backingOf t.desc.backing
        match s.obj? ns o with
        | none => some (s.loseTensor h)
        | some obj =>
          match s.allocStaged t.desc.part t.home t.desc with
          | some (s, bases) => some (s.fillStaged id h obj t.desc bases)
          | none =>
            match s.evictable t.desc.part with
            | none => none
            | some e =>
              let s := (s.writeBackAll e).settleCeiling
              if s.isClean e then State.stage id h fuel (s.unstage e) else none

/-- The die that RESOURCE_EXHAUSTED names when a tensor finds no room: its home, or no single die (R540). -/
def State.fullDie (s : State) (h : Nat) : Nat := ((s.tensor? h).map (fun t => if t.home = 0xFF then 0xFFFF else t.home)).getD 0xFFFF

/-! ### Binding (R173 to R178) -/

/-- Whether a host-window tensor's window is enabled; any other tensor passes (R487). -/
def State.windowOpen (s : State) (t : Tensor) : Bool :=
  t.desc.tier != 2 || (s.host.hwin.getD t.desc.part { base := 0, port := 0, enable := false }).enable

/-- Counts a binding of a tensor (R183). -/
def State.noteBound (s : State) (h : Nat) : State :=
  { (s.updTensor h (fun t => { t with lastBound := s.bindCount + 1 })) with bindCount := s.bindCount + 1 }

/-- Binds tensors as inputs: each is staged where flash-backed; a POISONED one fails (R172, R178). -/
def State.bindInputs (s : State) (id : CmdId) (poisonStatus : Status) (poisonDetail : Nat) (l : List Nat) (wher : Nat → Nat := fun _ => 0x08) : Chk State :=
  match l with
  | [] => .ok s
  | h :: hs => do
    if ((s.tensor? h).map (fun t => t.desc.state == 3)).getD false then failKeep s poisonStatus poisonDetail
    let s ← match s.stage id h (s.tensors.length + 1) with
      | none => failWith .resourceExhausted (s.fullDie h)
      | some s => .ok s
    match s.tensor? h with
    | none => failWith .notFound 0
    | some t => do
      if t.desc.state = 3 then failKeep s poisonStatus poisonDetail
      if !s.windowOpen t then failKeep s .resourceAbsent (wher h)
      let s := s.noteBound h
      let s := s.updBinding id (fun b => { b with inputs := b.inputs ++ [t.desc] })
      State.bindInputs s id poisonStatus poisonDetail hs wher

/-- Binds tensors as outputs: a shadow of the full size for each near-memory or flash-backed one (R174, R175); a tensor that the command
already writes keeps its shadow. -/
def State.bindOutputs (s : State) (id : CmdId) (l : List Nat) (wher : Nat → Nat := fun _ => 0x08) : Chk State :=
  match l with
  | [] => .ok s
  | h :: hs =>
   if (s.shadow? id h).isSome then State.bindOutputs s id hs wher
   else do
    let s ← match s.stage id h (s.tensors.length + 1) with
      | none => failWith .resourceExhausted (s.fullDie h)
      | some s => .ok s
    match s.tensor? h with
    | none => failWith .notFound 0
    | some t =>
      let s := s.noteBound h
      let add (d : Desc) (b : Binding) : Binding := { b with inputs := if b.inputs.any (fun x => x.handle = d.handle) then b.inputs else b.inputs ++ [d] }
      let s := s.updBinding id (add t.desc)
      if !s.windowOpen t then failKeep s .resourceAbsent (wher h)
      let host := t.desc.tier = 2
      let home := if host || t.desc.base = 0 then t.home else nmDie t.desc.base
      let want (k : Nat) : Nat := if host && k = 0 then 0 else if k = 5 then (if t.desc.tier = 3 && t.desc.dirtyMap = 0 then t.desc.mapBytes else 0) else t.desc.partBytes k
      match s.allocTensor t.desc.part home want with
      | none => failKeep s .resourceExhausted (if home = 0xFF then 0xFFFF else home)
      | some (s, bases) =>
        let sh : Shadow := { tensor := h, bases := if host then setAt 0 t.desc.base bases else bases, written := [], setFlags := 0 }
        State.bindOutputs (s.updBinding id (fun b => { b with shadows := b.shadows ++ [sh] })) id hs wher

/-- Opens an empty binding for a command that starts. -/
def State.openBinding (s : State) (id : CmdId) : State :=
  { s with bindings := s.bindings.filter (fun b => b.id ≠ id) ++ [{ id := id, inputs := [], shadows := [] }] }

/-- Pieces that writing a tensor can dirty (R182). -/
def State.tensorPieces (s : State) (h : Nat) : Nat :=
  match s.tensor? h with
  | some t => if t.desc.tier = 3 then t.desc.maxPages else 0
  | none => 0

/-- The judgement of R182 on everything a command can dirty. -/
def State.dirtyFits (s : State) (pieces : Nat) : Chk Unit := need (decide (pieces ≤ s.ceilingPieces)) .resourceExhausted 0xFFFF

/-- A view of a tensor that a command has bound: its bound generation, and its shadow where it writes it. -/
def State.boundView (s : State) (id : CmdId) (h : Nat) : Option View :=
  match s.binding? id with
  | none => none
  | some b =>
    match b.inputs.find? (fun d => d.handle = h) with
    | none => none
    | some d => some { desc := d, bases := d.bases, shadow := if b.shadows.any (fun x => x.tensor = h) then some h else none, loc := none }

/-! ### Commit of shadows (R174, R207, orders 1 and 3) -/

/-- The parts of a tensor that a shadow holds: a host-window tensor's element array is written in place (R167). -/
def sideFrom (d : Desc) : List Nat := if d.tier = 2 then [1, 2, 3, 4] else [0, 1, 2, 3, 4]

/-- Whether a run wrote every element and all the side data that the tensor holds (R172): the element array row by row, since what lies between
the rows of a strided tensor is no part of it. -/
def Shadow.whole (sh : Shadow) (d : Desc) : Bool :=
  (sideFrom d).all (fun k =>
    if k = 0 then (List.range d.rows).all (fun r => spansCover sh.wrote 0 (d.rowOff r + d.rowBytes) (sh.wrote.length + 1) (d.rowOff r))
    else spansCover sh.wrote k (d.regionBytes k) (sh.wrote.length + 1) 0)

/-- Fills the pages of a shadow that the run did not write from the current generation (R174); poison there, or in what a page written in
part took from the bound generation, fails (R178, R222), and so does a page of a tensor whose backing object could not be read at all. -/
def State.fillShadow (s : State) (sh : Shadow) : Chk State :=
  match s.tensor? sh.tensor with
  | none => .ok s
  | some t =>
    let todo := (sideFrom t.desc).flatMap (fun k => ((List.range (t.desc.pagesOf k)).filter (fun pg => (k, pg) ∉ sh.written)).map (fun pg => (k, pg)))
    let len (k pg : Nat) : Nat := min 16384 (t.desc.regionBytes k - pg * 16384)
    let s := if t.desc.base = 0 then s else todo.foldl (fun s x => s.look (t.desc.bases.getD x.1 0 + x.2 * 16384) (len x.1 x.2)) s
    if t.desc.base = 0 then (if sh.whole t.desc then .ok s else failKeep s .dataPoisoned 0)
    else if todo.any (fun x => s.poisoned (t.desc.bases.getD x.1 0 + x.2 * 16384) (len x.1 x.2)) ||
        sh.written.any (fun x => s.poisoned (sh.bases.getD x.1 0 + x.2 * 16384) (len x.1 x.2)) then failKeep s .dataPoisoned 0
    else .ok (todo.foldl (fun s x => s.devWr t.desc.part (sh.bases.getD x.1 0 + x.2 * 16384)
      (s.rd (t.desc.bases.getD x.1 0 + x.2 * 16384) (len x.1 x.2))) s)

/-- Pages of a flash-backed tensor that a commit of a shadow dirties (R180): those written, and, where the tensor gains side data, every page
of its side data, whose place in the backing object moves (R676). -/
def Shadow.dirties (sh : Shadow) (d : Desc) : List (Nat × Nat) :=
  let d' : Desc := { d with flags := d.flags ||| sh.setFlags }
  if d'.flags == d.flags then sh.written
  else sh.written ++ ((([2, 3, 4].flatMap (fun k => (List.range (d'.pagesOf k)).map (fun pg => (k, pg)))).filter (fun x => x ∉ sh.written)))

/-- Switches a descriptor to a shadow (R174): its bases, flags, generation, state, and its dirty pages (R180). -/
def Tensor.switch (t : Tensor) (sh : Shadow) (seq : Nat) : Tensor :=
  let keep (k : Nat) : Bool := k < 2 || t.desc.holds k || bitAt sh.setFlags (k - 2)
  let bases := (List.range 5).map (fun k => if keep k then sh.bases.getD k 0 else 0)
  let st := if t.desc.state = 3 && !sh.whole t.desc then 3 else if t.desc.tier = 3 then 2 else 0
  { t with
    desc := { (t.desc.setBases bases) with flags := t.desc.flags ||| sh.setFlags, generation := (t.desc.generation + 1) % 2 ^ 64, state := st
                                           dirtyMap := if t.desc.dirtyMap = 0 then sh.bases.getD 5 0 else t.desc.dirtyMap }
    staged := t.staged || t.desc.tier = 3
    dirty := if t.desc.tier = 3 then
        t.dirty.filter (fun e => (e.1, e.2.1) ∉ sh.dirties t.desc) ++ (sh.dirties t.desc).map (fun w => (w.1, w.2, seq))
      else t.dirty }

/-- Pages that a command's shadows dirty (R181). -/
def State.shadowPieces (s : State) (b : Binding) : Nat :=
  (b.shadows.map (fun sh => match s.tensor? sh.tensor with
    | some t => if t.desc.tier = 3 then ((sh.dirties t.desc).filter (fun w => !t.dirty.any (fun e => e.1 = w.1 && e.2.1 = w.2))).length else 0
    | none => 0)).sum

/-- Order 1 of the commit for a binding: the pages that the run did not write (R207). -/
def State.prepareShadows (s : State) (b : Binding) : Chk State := b.shadows.foldlM (fun s sh => s.fillShadow sh) s

/-- Order 3 of the commit for a binding's shadows; the write-back of what they dirty is charged to the context that commits (R413). -/
def State.switchShadows (s : State) (b : Binding) (seq : Nat) : State :=
  b.shadows.foldl (fun s sh => s.updTensor sh.tensor (fun t => { t.switch sh seq with ctx := qCtx b.id.queue })) s

/-! ### Writes through a view -/

/-- A first write to a page of a shadow reads the page's other bytes from the bound generation: the checkers see them (R217, R222). -/
def State.lookPages (s : State) (id : CmdId) (v : View) (k off n : Nat) : State :=
  match v.shadow.bind (s.shadow? id) with
  | none => s
  | some sh =>
    if v.bases.getD k 0 = 0 || inHostWindow (v.bases.getD k 0) then s
    else
      (((pagePieces (n / 16384 + 2) off n).map (fun x => x.1 / 16384)).filter (fun pg => (k, pg) ∉ sh.written)).foldl (fun s pg =>
        s.look (v.bases.getD k 0 + pg * 16384) (min 16384 (v.desc.partBytes k - pg * 16384))) s

/-- Whether byte `i` of part `k` of a shadow has been written by its command, or is no part of the tensor's data at all. -/
def Shadow.doneByte (sh : Shadow) (d : Desc) (k i : Nat) : Bool :=
  sh.wrote.any (fun x => x.1 == k && decide (x.2.1 ≤ i) && decide (i < x.2.1 + x.2.2)) ||
    !(if k = 0 then (List.range d.rows).any (fun r => decide (d.rowOff r ≤ i) && decide (i < d.rowOff r + d.rowBytes)) else decide (i < d.partBytes k))

/-- A sector of a shadow that its command has written whole by now, be it in several writes, holds nothing of the poison that its page took from
the bound generation (R221, R305; log entry 85). -/
def State.dropOver (s : State) (id : CmdId) (h : Nat) (d : Desc) (k off n : Nat) : State :=
  match s.shadow? id h with
  | none => s
  | some sh =>
    let base := sh.bases.getD k 0
    let done (a : Nat) : Bool := decide (base + off < a + 32) && decide (a < base + off + n) &&
      (List.range 32).all (fun i => decide (a + i < base) || sh.doneByte d k (a + i - base))
    if s.poisoned (base + off) n then s.dropMarks done else s

/-- The same after a write through a view. -/
def State.dropView (s : State) (id : CmdId) (v : View) (k off n : Nat) : State :=
  match v.shadow with
  | none => s
  | some h => s.dropOver id h v.desc k off n

/-- Writes bytes at `off` of part `k` of a view: into its shadow, page by page, or in place. A command that has lost its shadow meanwhile, because
it has been killed, writes nothing. -/
def State.viewPut (s : State) (p : Nat) (id : CmdId) (v : View) (k off : Nat) (bs : Bytes) : State :=
  if v.shadow.isSome && (v.shadow.bind (s.shadow? id)).isNone then s else (s.viewWr p id v k off bs).dropView id v k off bs.length

/-! ### Runs -/

/-- The slot whose template a tensor index is (R191). -/
def Image.slotOf (g : Image) (idx : Nat) : Option Nat := g.slots.findIdx? (fun x => x.1 = idx)

/-- What a slot of a run reaches: an input slot of a PROG_RUN reads the generation bound (R173), any other slot, and every slot of an
invocation's stage, the command's own earlier writes as well (R196), with the side data that they have set. -/
def State.slotView (s : State) (r : Run) (access : Nat) (v : View) : View :=
  if access = 0 && !s.invocations.any (fun i => i.id = r.id) then { v with shadow := none }
  else
    match v.shadow.bind (s.shadow? r.id) with
    | some sh => { v with desc := { v.desc with flags := v.desc.flags ||| sh.setFlags } }
    | none => v

/-- The view behind an operand index of a step on a core: a program-local tensor of that core, or the tensor bound to the slot (R191, R196). -/
def State.operand (s : State) (r : Run) (flat idx : Nat) : Option View :=
  match r.img.tensors[idx]? with
  | none => none
  | some d =>
    if d.tier = 0 then
      some { desc := { d with flags := d.flags ||| ((alookup (flat, idx) r.localFlags).getD 0) }
             bases := (tpBase flat + d.base) :: (List.range 4).map (fun k => sideBase flat idx (k + 1)), shadow := none, loc := some (flat, idx) }
    else
      match r.img.slotOf idx with
      | none => none
      | some k =>
        let h := r.slotT.getD k 0
        (s.boundView r.id h).map (s.slotView r (r.img.slots.getD k (0, 0)).2)

/-- The constant of R125. -/
def rngMul : Nat := 0x9E3779B97F4A7C15

/-- One draw (R124). -/
def rngStep (x : W64) : W64 :=
  let x := x ^^^ (x <<< 13)
  let x := x ^^^ (x >>> 7)
  x ^^^ (x <<< 17)

/-- Sixteen discarded draws. -/
def rngSkip : Nat → W64 → W64
  | 0, x => x
  | n + 1, x => rngSkip n (rngStep x)

/-- The state of generator `g` of core `c` at the start of a run (R125). -/
def rngInit (seed : W64) (c g : Nat) : W64 :=
  let x := seed ^^^ BitVec.ofNat 64 ((c * 256 + g + 1) * rngMul)
  rngSkip 16 (if x = 0 then 1 else x)

/-- The engines of a core at the start of a run: weight sets and accumulator cleared (R85), scale registers cleared (R137),
generators seeded (R125). Each stage of an ACCORD_RUN that runs a model starts so, where R85 speaks of a command's first matrix step alone
(DESIGN CHOICE, log entry 28). -/
def Core.atStart (seed : W64) : Core :=
  { active := [], shadow := [], loaded := [false, false], acc := [], colSums := [], sregs := [], rngSeed := seed, rng := [] }

/-- Zeroed accumulator memory (R85) holds no mark, and nothing has been counted in it (R221, R229). -/
def State.zeroAcc (s : State) (flat : Nat) : State :=
  let other (k : Store × Nat) : Bool := !(k.1 = .accumulator && decide (k.2 / 2 ^ 20 = flat))
  { s with integ := { s.integ with poison := s.integ.poison.filter other, weak := s.integ.weak.filter other, bad := s.integ.bad.filter other
                                   counted := s.integ.counted.filter other } }

/-- Starts a run from step 0 of every list (R193, R194, R201, R211). A zero SEED takes a fresh one (R125). -/
def State.startRun (s : State) (id : CmdId) (p c : Nat) (img : Image) (slotT rings : List Nat) (seed : W64) : State :=
  let flats := (s.runCores p).take img.cores
  let (s, sd) := if seed = 0 then
      ({ s with sec := { s.sec with drbg := s.sec.drbg + 1 } }, Config.entropy s.sec.drbg) else (s, seed)
  let cr (f : Nat) : CoreRun := { flat := f, pc := 0, inflight := [], layer := 0, pfIssued := [], pfDone := [], atCommit := false, pendingSwap := [false, false] }
  let r : Run := { id := id, part := p, ctx := c, img := img, slotT := slotT, rings := rings, seed := seed, started := s.now
                   cores := flats.map cr, flags := 0, saturations := 0, nanConv := 0, rescales := 0, emptySteps := 0, carryWritten := []
                   localFlags := [], failed := none }
  let s := flats.foldl (fun s f => (s.setCore f (Core.atStart sd)).zeroAcc f) s
  { (s.clearEvents flats) with runs := s.runs.filter (fun x => x.id ≠ id) ++ [r] }

end Sys2Proof.Machine
end

