-- ==== Sys2Proof/Machine/Queues.lean ====
section
/-!
DEFINITION. Doorbells, registers, interrupts, functions and links (chapter *Host interface and queues*).
-/
namespace Sys2Proof.Machine

open Sys2Proof

/-! ### Functions and reach -/

/-- Whether PCIe traffic has stopped: in a flush, in FLUSHED, and in a drain that no fault started (R361, R362, R607, R625). -/
def State.pcieStopped (s : State) : Bool := s.power.flushing || s.power.flushed || (s.power.draining && !s.power.fault)

/-- Whether a function is there: a PF of a port that the layout presents (R477), or a VF that its port has enabled (R478), while PCIe runs; a hub
die that has failed answers nothing on PCIe (R625, R682). -/
def State.fnAlive (s : State) (f : Fn) : Bool :=
  !s.pcieStopped && !s.unitDown 0 0 &&
  match f with
  | .pf p => p == 0 || (p == 1 && s.host.splitSampled)
  | .vf p n => (p == 0 || (p == 1 && s.host.splitSampled)) && (s.host.ports.getD p Port.reset).vfEnable
      && decide (n < (s.host.ports.getD p Port.reset).numVfs)

/-- Whether a function may reach a queue's block (BAR0 map, R484). -/
def State.reaches (s : State) (f : Fn) (q : QId) : Bool :=
  s.fnAlive f && f ∉ s.host.fnD3 &&
    match f, q with
    | .pf p, .admin k => p == k
    | .pf _, .io i => decide (i < 128)
    | .vf _ _, .admin _ => false
    | .vf _ n, .io i => i / 16 == n && decide (i < 128)

def State.port (s : State) (p : Nat) : Port := s.host.ports.getD p Port.reset

def State.updPort (s : State) (p : Nat) (f : Port → Port) : State :=
  { s with host := { s.host with ports := modifyAt f p s.host.ports } }

/-! ### Q_CONFIG (R490, R491, R518, R678) -/

/-- Takes every command of a queue away: killed when uncommitted, no completion posted, held results freed (R516). -/
def State.dropQueueCommands (s : State) (q : QId) : State :=
  let mine := s.host.outst.filter (fun o => o.id.queue = q)
  let s := mine.foldl (fun s o => if o.phase = .posted then s else s.abandon o.id) s
  ({ s with host := { s.host with outst := s.host.outst.filter (fun o => o.id.queue ≠ q), held := s.host.held.filter (fun h => h.id.queue ≠ q) } }).sweep

/-- The queue stands disabled; with tags in use that has the effect of a function-level reset on it (R491, R681). -/
def State.disableQueue (s : State) (q : QId) : State :=
  if s.host.outst.any (fun o => o.id.queue = q) then (s.dropQueueCommands q).setQueue q Queue.reset
  else
    (s.dropQueueCommands q).updQueue q (fun x => { x with
      enabled := false, orphaned := false, owner := none, unreported := 0, events := [], heldCpls := [], sqTail := 0, rung := [], cqHead := 0 })

/-- Writes the held completions of a queue that has been taken over, in order, with TAKEN_OVER (R518). -/
def State.writeHeld (q : QId) : List Cpl → State → State
  | [], s => s
  | c :: cs, s =>
    let i := (s.queue q).cqTail
    let s := s.updOutst { queue := q, tag := c.tag } (fun o => { o with cplIndex := i })
    State.writeHeld q cs (s.writeCpl q { c with takenOver := true })

/-- The event that tells of an orphaned queue (event 0x00B, R509). -/
def orphanWord (q : QId) : Nat :=
  match q with
  | .admin k => eventWord 0xB .device k
  | .io i => eventWord 0xB (.ctx (i / 16) (i % 16)) i

/-- What becomes of a queue's fetched commands when a new owner takes it: those whose entries were written or discarded before are forgotten, and
those of an admin queue that still run finish without a completion (R518, R519). -/
def State.partOwner (s : State) (q : QId) : State :=
  let held := (s.queue q).heldCpls.map (·.tag)
  let left := s.host.outst.filter (fun o => !(o.id.queue = q && o.phase = .posted && o.id.tag ∉ held))
  { s with host := { s.host with outst :=
      if (qPart q).isNone then mapIf (fun o => o.id.queue = q) (fun o => { o with discarded := true }) left else left } }

/-- ENABLE takes effect: ownership, pointers at 0, and after a takeover the held completions and the event (R490, R493, R518). -/
def State.enableQueue (s : State) (f : Fn) (q : QId) (vector : Nat) (irqEn : Bool) : State :=
  let old := s.queue q
  let s := if old.orphaned then s.partOwner q else s
  let s := s.setQueue q { old with
    vector := vector, irqEn := irqEn, enabled := true, orphaned := false, owner := some f, sqHead := 0, sqTail := 0, rung := [], cqTail := 0, cqHead := 0
    phase := true, unreported := 0, heldCpls := [] }
  match q with
  | .admin _ => s
  | .io _ =>
    if old.orphaned then
      (State.writeHeld q old.heldCpls s).deliver (orphanWord q) ((old.owner.map fnPort).getD 0) q
    else s

/-- A write of Q_CONFIG (R490, R491, R678). What R678 does not list is the model's choice (log 69): with ENABLE 0 a write sets VECTOR and
IRQ_EN of a disabled queue, changes nothing of an ORPHANED one but where its owner writes, and leaves what it wrote in a queue that it disables with no
tag in use. -/
def State.writeQConfig (s : State) (f : Fn) (q : QId) (v : Nat) : State :=
  if !s.reaches f q || s.silent then s
  else
    let qu := s.queue q
    let vector := bits v 16 10
    let irqEn := bitAt v 1
    let bad := s.updQueue q (fun x => { x with configError := true })
    let live := qu.enabled && !qu.orphaned
    if live && qu.owner ≠ some f then bad
    else if bitAt v 0 then
      if fnVectors f ≤ vector then bad
      else if live then (s.setQueue q { qu with irqEn := irqEn, vector := vector }).irqCheck q
      else
        match q with
        | .io i => if (s.ctx? (i / 16) (i % 16)).isSome then s.enableQueue f q vector irqEn else bad
        | .admin _ => s.enableQueue f q vector irqEn
    else if live || (qu.orphaned && qu.owner == some f) then
      if s.host.outst.any (fun o => o.id.queue = q) then s.disableQueue q
      else (s.disableQueue q).updQueue q (fun x => { x with vector := vector, irqEn := irqEn })
    else if qu.orphaned then s
    else s.setQueue q { qu with vector := vector, irqEn := irqEn }

/-- QUEUE_ENABLE: a write of Q_CONFIG with ENABLE set (R490, R518). -/
def execQueueEnable (f : Fn) (q : QId) (v : W32) (s : State) : Res := .next (s.writeQConfig f q (v.toNat ||| 1))

/-- QUEUE_DISABLE: a write of Q_CONFIG with ENABLE clear (R491). -/
def execQueueDisable (f : Fn) (q : QId) (v : W32) (s : State) : Res := .next (s.writeQConfig f q (v.toNat / 2 * 2))

/-- Q_CONFIG_UPDATE: the owner's write of Q_CONFIG with ENABLE 1 on its enabled queue (R678). -/
def execQConfigUpdate (f : Fn) (q : QId) (v : W32) (s : State) : Res := .next (s.writeQConfig f q (v.toNat ||| 1))

/-! ### Doorbells -/

/-- SQ_TAIL (R492, R678): accepted from the owner of an enabled queue; any other write sets DB_ERROR. -/
def State.ringSqTail (s : State) (f : Fn) (q : QId) (v : Nat) : State :=
  if !s.reaches f q then s
  else
    let qu := s.queue q
    if qu.enabled && !qu.orphaned && qu.owner = some f then
      let fresh := (v % 32 + 32 - qu.sqHead) % 32
      let rung := (qu.rung ++ List.replicate 32 (s.host.doorbells, s.host.cflWait)).take fresh
      let s := s.setQueue q { qu with sqTail := v % 32, rung := rung }
      { s with host := { s.host with doorbells := s.host.doorbells + 1 } }
    else s.setQueue q { qu with dbError := true }

/-- SQ_TAIL. -/
def execSqTail (f : Fn) (q : QId) (v : W32) (s : State) : Res := .next (s.ringSqTail f q v.toNat)

/-- Whether completion index `i` lies in the entries that CQ_HEAD moves past, from `a` up to `b`. -/
def passed (a b i : Nat) : Bool := decide ((i + 32 - a % 32) % 32 < (b + 32 - a % 32) % 32)

/-- CQ_HEAD (R494): frees the tags of the entries moved past. -/
def State.ringCqHead (s : State) (f : Fn) (q : QId) (v : Nat) : State :=
  if !s.reaches f q then s
  else
    let qu := s.queue q
    if qu.enabled && !qu.orphaned && qu.owner = some f then
      let s := s.setQueue q { qu with cqHead := v % 32 }
      { s with host := { s.host with outst := s.host.outst.filter (fun o =>
          !(o.id.queue = q && o.phase = .posted && passed qu.cqHead (v % 32) o.cplIndex)) } }
    else s.setQueue q { qu with dbError := true }

/-- CQ_HEAD. -/
def execCqHead (f : Fn) (q : QId) (v : W32) (s : State) : Res := .next (s.ringCqHead f q v.toNat)

/-- COMMAND_FETCH: the next entry of a ring is taken and checked (R492, R520, R529); nothing is fetched once the power-loss
sequence or a drain runs (R362). -/
def execCommandFetch (q : QId) (s : State) : Res :=
  .next (if s.silent then s else s.fetchOne q)

/-! ### Registers -/

/-- Q_STATUS as a function reads it. -/
def State.qStatus (s : State) (f : Fn) (q : QId) : Nat :=
  let x := s.queue q
  let tags := (s.host.outst.filter (fun o => o.id.queue = q)).length
  let b (c : Bool) (i : Nat) : Nat := if c then 2 ^ i else 0
  x.cqTail * 2 ^ 24 + x.sqHead * 2 ^ 16 + tags * 2 ^ 8 + b x.eventLost 7 + b x.configError 6 + b x.fetchError 5 + b x.tagError 4
    + b x.dbError 3 + b x.orphaned 2 + b (x.enabled && x.owner ≠ some f) 1 + b x.enabled 0

/-- DEV_ID (R1, device register fields). -/
def State.devId (s : State) : Nat := 0x03000000 + Variant.dies s.variant * 2 ^ 16 + 0xB000

/-- DEV_STATE as port `p` reads it. -/
def State.devState (s : State) (p : Nat) : Nat :=
  let b (c : Bool) (i : Nat) : Nat := if c then 2 ^ i else 0
  s.devStateLow (s.port p).linkUp + b s.power.flushing 5 + b s.power.flushed 6 + b s.power.fault 7
    + b (s.host.splitSampled && (s.port (1 - p)).linkUp) 8

/-- DEV_STATUS. -/
def State.devStatus (s : State) : Nat :=
  s.power.opp * 2 ^ 16 + s.cfl.protLevel * 2 ^ 8 + (if s.cfg.defaulted then 2 else 0) + (if s.configPending then 1 else 0)

/-- CAPS. -/
def State.caps (s : State) : Nat :=
  (s.power.groupsInUse.map (2 ^ ·)).sum * 2 ^ 16 + (s.power.diesInService.map (2 ^ ·)).sum * 2 ^ 8 + (2 ^ Variant.dies s.variant - 1)

/-- HWIN[p] as it reads. -/
def Hwin.code (h : Hwin) : Nat := h.base + (if h.port = 1 then 2 else 0) + (if h.enable then 1 else 0)

/-- Partition of a function's HWIN and queues. -/
def fnPart : Fn → Nat
  | .pf _ => 0
  | .vf _ n => n

def isVf : Fn → Bool
  | .pf _ => false
  | .vf .. => true

/-- The queue block and the offset in it of a BAR0 offset. -/
def queueAt (off : Nat) : Option (QId × Nat) :=
  if 0x8000 ≤ off && off < 0x8200 then some (.admin ((off - 0x8000) / 0x100), off % 0x100)
  else if 0x10000 ≤ off && off < 0x18000 then some (.io ((off - 0x10000) / 0x100), off % 0x100)
  else none

/-- A 4-byte read of BAR0 (R483, R484, R8): what each register reads in a function. -/
def State.readReg4 (s : State) (f : Fn) (off : Nat) : Nat :=
  let p := fnPort f
  let half (v : Nat) : Nat := if off % 8 = 0 then v % 2 ^ 32 else v / 2 ^ 32 % 2 ^ 32
  match queueAt off with
  | some (q, o) =>
    if !s.reaches f q then 0
    else
      let x := s.queue q
      if o < 8 then half x.sqBase
      else if o < 16 then half x.cqBase
      else if o = 0x10 then x.vector * 2 ^ 16 + (if x.irqEn then 2 else 0) + (if x.enabled then 1 else 0)
      else if o = 0x14 then x.delay * 2 ^ 8 + x.count
      else if o = 0x18 then x.resultTmo
      else if o = 0x1C then s.qStatus f q
      else 0
  | none =>
    if off = 0 then s.devId
    else if off = 4 then 0x00010000
    else if off = 8 then (if s.host.splitSampled then 2 ^ 8 else 0) + fnPart f * 4 + p * 2 + (if isVf f then 1 else 0)
    else if off = 0xC then s.caps
    else if off = 0x10 || off = 0x14 then half s.sec.serial
    else if off = 0x100 then s.devState p
    else if off = 0x104 then s.devStatus
    else if off = 0x108 || off = 0x10C then half s.power.uptimeUs
    else if 0x300 ≤ off && off < 0x340 then
      let i := (off - 0x300) / 8
      if isVf f && i ≠ fnPart f then 0 else half ((s.host.hwin.map Hwin.code).getD i 0)
    else if off = 0x400 then (if isVf f then 0 else s.host.cflWait)
    else if 0x20000 ≤ off && off < 0x20000 + 16 * fnVectors f then
      ofLe ((List.range 4).map (fun i => s.msixByte f (off - 0x20000 + i)))
    else if 0x24000 ≤ off && off < 0x24000 + fnVectors f / 8 then
      (((List.range 32).filter (fun i => (f, (off - 0x24000) * 8 + i) ∈ s.host.msixPba)).map (2 ^ ·)).sum
    else 0

/-- A read of BAR0 (R485): 4 or 8 bytes aligned to their size, else all ones. A function that is not there answers nothing. -/
def State.readBar0 (s : State) (f : Fn) (off size : Nat) : Option Nat :=
  if !s.fnAlive f || f ∈ s.host.fnD3 then none
  else if size = 4 && off % 4 = 0 then some (s.readReg4 f off)
  else if size = 8 && off % 8 = 0 then some (s.readReg4 f off + 2 ^ 32 * s.readReg4 f (off + 4))
  else some (2 ^ (8 * size) - 1)

/-- Replaces one 32-bit half of a 64-bit register. -/
def putHalf (old off v : Nat) : Nat := if off % 8 = 0 then old / 2 ^ 32 * 2 ^ 32 + v else old % 2 ^ 32 + v * 2 ^ 32

/-- Clears the low 12 bits of a ring or window base. -/
def page4k (v : Nat) : Nat := v / 4096 * 4096

/-- A 4-byte write inside a queue block (R678, queue block fields). -/
def State.writeQueueReg (s : State) (f : Fn) (q : QId) (o v : Nat) : State :=
  if !s.reaches f q then s
  else
    let x := s.queue q
    let live := x.enabled && !x.orphaned
    if o = 0x10 then s.writeQConfig f q v
    else if o = 0x20 then s.ringSqTail f q v
    else if o = 0x24 then s.ringCqHead f q v
    else if live && x.owner ≠ some f then s
    else if o < 0x10 then
      if live then s.setQueue q { x with configError := true }
      else if o < 8 then s.setQueue q { x with sqBase := page4k (putHalf x.sqBase o v) }
      else s.setQueue q { x with cqBase := page4k (putHalf x.cqBase o v) }
    else if o = 0x14 then (s.setQueue q { x with delay := bits v 8 8, count := bits v 0 6 }).irqCheck q
    else if o = 0x18 then s.setQueue q { x with resultTmo := bits v 0 16 }
    else if o = 0x1C then
      s.setQueue q { x with eventLost := x.eventLost && !bitAt v 7, configError := x.configError && !bitAt v 6
                            fetchError := x.fetchError && !bitAt v 5, tagError := x.tagError && !bitAt v 4, dbError := x.dbError && !bitAt v 3 }
    else s

/-- Sends the messages of vectors that have just been unmasked. -/
def State.firePending (s : State) (f : Fn) (v : Nat) : State :=
  if (f, v) ∈ s.host.msixPba && !(s.msixByte f (16 * v + 12)).getLsbD 0 then
    ({ s with host := { s.host with msixPba := s.host.msixPba.filter (· ≠ (f, v)) } }).fireVector f v
  else s

/-- A 4-byte write of BAR0 by its access code (R7, R8, R483, R484). The manual gives no field map of an MSI-X table entry: the model stores
and reads back every bit of it, those that the PCI Express standard reserves in vector control included (log 11). -/
def State.writeReg4 (s : State) (f : Fn) (off v : Nat) : State :=
  match queueAt off with
  | some (q, o) => s.writeQueueReg f q o v
  | none =>
    if off = 0x104 then { s with cfg := { s.cfg with defaulted := s.cfg.defaulted && !bitAt v 1 } }
    else if 0x300 ≤ off && off < 0x340 then
      let i := (off - 0x300) / 8
      if isVf f && i ≠ fnPart f then s
      else
        let upd (h : Hwin) : Hwin :=
          let c := putHalf h.code off v
          { base := page4k c, port := if bitAt c 1 then 1 else 0, enable := bitAt c 0 }
        { s with host := { s.host with hwin := modifyAt upd i s.host.hwin } }
    else if off = 0x400 then (if isVf f then s else { s with host := { s.host with cflWait := v % 32 } })
    else if 0x20000 ≤ off && off < 0x20000 + 16 * fnVectors f then
      let a := off - 0x20000
      let bs := (leBytes 4 v).zipIdx.map (fun x => x.1 ^^^ msixDefault (a + x.2))
      let m := ((alookup f s.host.msixTable).getD []).writeN 0 a bs
      ({ s with host := { s.host with msixTable := ainsert f m s.host.msixTable } }).firePending f (a / 16)
    else s

/-- CFL_WAIT: a write of the window wait states by a PF (R35, R40). -/
def execCflWait (f : Fn) (v : W32) (s : State) : Res :=
  .next (if s.fnAlive f && f ∉ s.host.fnD3 && !isVf f then { s with host := { s.host with cflWait := v.toNat % 32 } } else s)

/-- IRQ_DELAY_TIMEOUT: DELAY has passed since the first unreported entry (R506). -/
def execIrqDelayTimeout (q : QId) (s : State) : Res :=
  let qu := s.queue q
  .next (if qu.enabled && !qu.orphaned && qu.irqEn && decide (0 < qu.unreported) then (s.sendIrq q).chargeQueue q 17 ((s.sendIrq q).messageBytes s) else s)

/-- RESULT_TIMEOUT: frees a held result whose entry has been written, not one whose entry waits for a takeover (R514, R517). -/
def execResultTimeout (h : Nat) (s : State) : Res :=
  .next (
    match s.host.held.find? (fun x => x.handle = h) with
    | none => s
    | some x =>
      if x.isDone && !(s.queue x.id.queue).heldCpls.any (fun c => c.held && c.handle == h) then
        ({ s with host := { s.host with held := s.host.held.filter (fun y => y.handle ≠ h) } }).sweep
      else s)

/-! ### Functions, ports and links -/

/-- A function-level reset (R516, R681): every queue that the function owns is reset, a PF's own admin block whether it is enabled or not, its MSI-X table
and pending bits too. -/
def State.flr (s : State) (f : Fn) : State :=
  let owned := (s.host.queues.filter (fun x => x.2.owner = some f)).map (·.1)
  let qs := match f with
    | .pf p => addOnce (QId.admin p) owned
    | .vf .. => owned
  let s := qs.foldl (fun s q => (s.dropQueueCommands q).setQueue q Queue.reset) s
  { s with host := { s.host with msixTable := aerase f s.host.msixTable, msixPba := s.host.msixPba.filter (fun x => x.1 ≠ f) }
           sec := { s.sec with ide := aerase f s.sec.ide } }

/-- FUNCTION_LEVEL_RESET; nothing arrives while PCIe traffic has stopped (R362). -/
def execFunctionLevelReset (f : Fn) (s : State) : Res :=
  let t := s.flr f
  .next (if s.pcieStopped then s else { t with host := { t.host with fnD3 := t.host.fnD3.filter (· ≠ f) } })

/-- D3HOT_ENTRY: the effect of a function-level reset (R482), and the function no longer takes register accesses. -/
def execD3hotEntry (f : Fn) (s : State) : Res :=
  let t := s.flr f
  .next (if s.pcieStopped then s else { t with host := { t.host with fnD3 := addOnce f t.host.fnD3 } })

/-- VF_ENABLE: NumVFs may change while VF Enable is clear, and applies when it is set (R28); at most 8 (R35). -/
def execVfEnable (p numVfs : Nat) (enable : Bool) (s : State) : Res :=
  let old := s.port p
  .next (
    if s.pcieStopped then s
    else if old.vfEnable then
      if enable then s
      else ((List.range 8).foldl (fun s n => s.flr (.vf p n)) s).updPort p (fun x => { x with vfEnable := false, numVfs := min numVfs 8 })
    else s.updPort p (fun x => { x with numVfs := min numVfs 8, vfEnable := enable }))

/-- A dword with the bits from `lo` on, `w` of them, holding `x`. -/
def withBits (v lo w x : Nat) : Nat := v - bits v lo w * 2 ^ lo + x % 2 ^ w * 2 ^ lo

/-- A BAR of the type 0 header, or a VF BAR, by its dword (R480): type bits of a 64-bit BAR, the address bits below its size zero, the rest as the host
has set it, free. A PF has BAR0 of 2 ^ 18 bytes and a prefetchable BAR2 of 2 ^ 28, a VF only BAR0 (places and type bits: log 64). -/
def barDword (bar2 : Bool) (free : Nat) (i : Nat) : Nat :=
  match i with
  | 0 => withBits free 0 18 4
  | 1 => free
  | 2 => if bar2 then withBits free 0 28 0xC else 0
  | 3 => if bar2 then free else 0
  | _ => 0

/-- A dword of a port's SR-IOV capability by its offset in the capability (R28, R35, R476, R479): VF Enable, InitialVFs and TotalVFs 8, NumVFs
as it reads back, First VF Offset 1, VF Stride 1 and the VF Device ID; the places are the standard's (log 64), the other bits free. -/
def State.sriovDword (s : State) (p o : Nat) : Option Nat :=
  let free (w : Nat) : Nat := Config.pcieConfig false (Config.sriovAt + o) / 2 ^ w * 2 ^ w
  match o with
  | 8 => some (free 1 + (if (s.port p).vfEnable then 1 else 0))
  | 0xC => some (8 * 2 ^ 16 + 8)
  | 0x10 => some (Config.pcieConfig false (Config.sriovAt + o) / 2 ^ 16 * 2 ^ 16 + (s.port p).numVfs)
  | 0x14 => some (1 * 2 ^ 16 + 1)
  | 0x18 => some ((0x4E40 + Variant.dies s.variant) * 2 ^ 16)
  | _ => if 0x24 ≤ o && o < 0x3C then some (barDword false (Config.pcieConfig false (Config.sriovAt + o)) ((o - 0x24) / 4)) else none

/-- What the *PCIe capabilities* table fixes in the capability structures of the standard (R476; places: log 64): payloads up to 512 bytes, function-level
reset, the link's width and ASPM L1 alone, 10-bit tags both ways and no LTR; MSI-X's vectors with table and PBA in BAR0; ECRC generation and checking. -/
def State.capDword (s : State) (vf : Bool) (off : Nat) : Option Nat :=
  let free := Config.pcieConfig vf off
  let is (cap o : Nat) : Bool := off == Config.capAt vf cap + o
  let vectors := if vf then 64 else 1024
  if is 0x10 4 then some (withBits (withBits free 0 3 2) 28 1 1)
  else if is 0x10 0xC then some (withBits (withBits free 4 6 (if s.host.splitSampled then 8 else 16)) 10 2 2)
  else if is 0x10 0x24 then some (withBits (withBits free 16 2 3) 11 1 0)
  else if is 0x11 0 then some (withBits (withBits free 16 11 (vectors - 1)) 0 8 0x11)
  else if is 0x11 4 then some 0x20000
  else if is 0x11 8 then some 0x24000
  else if is 0x101 0x18 then some (withBits (withBits free 5 1 1) 7 1 1)
  else none

/-- A dword of a function's configuration space (R478 to R480, R476): what the manual gives, the rest from the PCIe standard. -/
def State.configDword (s : State) (f : Fn) (off : Nat) : Nat :=
  let dev := (if isVf f then 0x4E40 else 0x4E30) + Variant.dies s.variant
  if off = 0 then dev * 2 ^ 16 + 0x1F7A
  else if off = 8 then 0x1200 * 2 ^ 16 + 0xB0
  else if 0x10 ≤ off && off < 0x28 then (if isVf f then 0 else barDword true (Config.pcieConfig false off) ((off - 0x10) / 4))
  else if off = 0x2C then dev * 2 ^ 16 + 0x1F7A
  else if off = 0x3C then
    let v := Config.pcieConfig (isVf f) off
    v - bits v 8 8 * 2 ^ 8
  else
    match s.capDword (isVf f) off with
    | some v => v
    | none =>
      if !isVf f && decide (Config.sriovAt ≤ off) then
        (s.sriovDword (fnPort f) (off - Config.sriovAt)).getD (Config.pcieConfig false off)
      else Config.pcieConfig (isVf f) off

/-- CONFIG_REQUEST (R611): Retry Status until 100 ms after PERST_N is released, then the dword asked for. -/
def execConfigRequest (f : Fn) (off : Nat) (s : State) : Res :=
  let p := s.port (fnPort f)
  .next (
    if !s.fnAlive f || !p.linkUp then s
    else if p.perstN && p.releasedAt + 100000 ≤ s.now then { s with out := s.out ++ [.configData f (s.configDword f off)] }
    else { s with out := s.out ++ [.configRetry f] })

/-- PCIE_LINK_UP: link training of a port whose PERST_N is released ends, so its PCLKn runs; LINK_UP is set (R476, R489, R598, R615). -/
def execPcieLinkUp (p : Nat) (s : State) : Res :=
  .next (
    if (s.port p).perstN && s.power.adminReady && s.fnAlive (.pf p) then
      let s := { s with power := { s.power with clocks := ainsert (if p = 0 then .pclk0 else .pclk1) true s.power.clocks } }
      s.updPort p (fun x => { x with linkUp := true })
    else s)

/-- A port's link goes down: the queues its functions own become ORPHANED, with event 0x00B (R517, R509). -/
def State.linkDown (s : State) (p : Nat) : State :=
  let qs := (s.host.queues.filter (fun x => x.2.enabled && !x.2.orphaned && (x.2.owner.map fnPort) = some p)).map (·.1)
  let s := s.updPort p (fun x => { x with linkUp := false })
  let s := qs.foldl (fun s q => s.updQueue q (fun x => { x with orphaned := true })) s
  qs.foldl (fun s q =>
    let s := match q with
      | .admin _ => s.mgmtPush (orphanWord q) p
      | .io _ => s
    (s.deliver (orphanWord q) p (.admin 0)).deliver (orphanWord q) p (.admin 1)) s

/-- PCIE_LINK_DOWN. -/
def execPcieLinkDown (p : Nat) (s : State) : Res := .next (s.linkDown p)

end Sys2Proof.Machine
end

