-- ==== Sys2Proof/Machine/Record.lean ====
section
/-!
DEFINITION. The configuration record (R25 to R41, R382 to R386): its layout, the checks of R36 in their order, and what
storing a record changes.
-/
namespace Sys2Proof.Machine

open Sys2Proof

/-! ### Layout -/

/-- Reads a partition entry from its 48 bytes (R26). -/
def pEntryOf (b : Bytes) : PEntry :=
  { clusterMask := field b 0 4, nmQuota := field b 4 2, tpBankMask := field b 6 2, nsMask := field b 8 8, fabMask := field b 0x10 2
    wayMask := field b 0x12 2, powerCap := field b 0x14 2, ctxMax := field b 0x16 1, prioCeil := field b 0x17 1
    rateNm := field b 0x18 2, rateD2d := field b 0x1A 2, rateFlash := field b 0x1C 2, rateFabric := field b 0x1E 2
    ratePcie := field b 0x20 2, slice := field b 0x22 2, ageing := field b 0x24 4, valid := field b 0x28 1 }

/-- Lays a partition entry out in 48 bytes (R26). -/
def PEntry.bytes (e : PEntry) : Bytes :=
  leBytes 4 e.clusterMask ++ leBytes 2 e.nmQuota ++ leBytes 2 e.tpBankMask ++ leBytes 8 e.nsMask ++ leBytes 2 e.fabMask
    ++ leBytes 2 e.wayMask ++ leBytes 2 e.powerCap ++ leBytes 1 e.ctxMax ++ leBytes 1 e.prioCeil ++ leBytes 2 e.rateNm
    ++ leBytes 2 e.rateD2d ++ leBytes 2 e.rateFlash ++ leBytes 2 e.rateFabric ++ leBytes 2 e.ratePcie ++ leBytes 2 e.slice
    ++ leBytes 4 e.ageing ++ leBytes 1 e.valid ++ zeros 7

/-- Reads a record from its 512 bytes (R25). -/
def recOf (b : Bytes) : Rec :=
  { format := field b 0 2, length := field b 2 2, generation := field b 8 8, isolation := field b 0x10 1, defaultOpp := field b 0x11 1
    cflWaitBoot := field b 0x12 1, pkgPowerCap := field b 0x14 2, holdupEnergy := field b 0x16 2, dirtyCeiling := field b 0x18 4
    fabricModes := field b 0x1C 4, partCount := field b 0x20 1
    parts := (List.range 8).map (fun p => pEntryOf (slice b (0x40 + 0x30 * p) 48)) }

/-- A record's bytes before its CRC (R25). -/
def Rec.body (r : Rec) : Bytes :=
  leBytes 2 r.format ++ leBytes 2 r.length ++ zeros 4 ++ leBytes 8 r.generation ++ leBytes 1 r.isolation ++ leBytes 1 r.defaultOpp
    ++ leBytes 1 r.cflWaitBoot ++ zeros 1 ++ leBytes 2 r.pkgPowerCap ++ leBytes 2 r.holdupEnergy ++ leBytes 4 r.dirtyCeiling
    ++ leBytes 4 r.fabricModes ++ leBytes 1 r.partCount ++ zeros 31
    ++ (List.range 8).flatMap (fun p => (r.parts.getD p {}).bytes) ++ zeros 60

/-- Lays a record out in 512 bytes with its CRC (R25). -/
def Rec.bytes (r : Rec) : Bytes := r.body ++ leBytes 4 (crc32 r.body)

/-! ### Check 1: structure (R27, R36, R383) -/

/-- The first offending offset of a 48-byte entry. -/
def entryFault (b : Bytes) : Option Nat :=
  let e := pEntryOf b
  let v := e.valid == 1
  let bad : List (Nat × Bool) :=
    [ (0x16, v && (e.ctxMax == 0 || decide (16 < e.ctxMax)))
    , (0x17, v && decide (3 < e.prioCeil))
    , (0x22, v && (decide (e.slice < 10) || decide (10000 < e.slice)))
    , (0x24, v && e.ageing != 0 && (decide (e.ageing < 1000) || decide (10000000 < e.ageing)))
    , (0x28, decide (1 < e.valid))
    , (0x29, !zeroAt b 0x29 7) ]
  (bad.find? (·.2)).map (·.1)

/-- The first offending offset of a 512-byte record, the CRC last. -/
def recFault (b : Bytes) : Option Nat :=
  let r := recOf b
  let head : List (Nat × Bool) :=
    [ (0x000, r.format != 1), (0x002, r.length != 0x200), (0x004, !zeroAt b 4 4), (0x010, decide (1 < r.isolation))
    , (0x011, decide (3 < r.defaultOpp)), (0x012, decide (31 < r.cflWaitBoot)), (0x013, !zeroAt b 0x13 1)
    , (0x01C, (List.range 16).any (fun p => bits r.fabricModes (2 * p) 2 == 3))
    , (0x020, r.partCount != (r.parts.filter (fun e => e.valid = 1)).length), (0x021, !zeroAt b 0x21 31) ]
  let ents := (List.range 8).map (fun p => (entryFault (slice b (0x40 + 0x30 * p) 48)).map (· + (0x40 + 0x30 * p)))
  let tail : List (Nat × Bool) := [(0x1C0, !zeroAt b 0x1C0 60), (0x1FC, field b 0x1FC 4 != crc32 (slice b 0 0x1FC))]
  (((head.find? (·.2)).map (·.1)).orElse (fun _ => ents.findSome? id)).orElse (fun _ => (tail.find? (·.2)).map (·.1))

/-! ### Checks 3 to 7 -/

/-- Record offset of a field of entry `p`. -/
def entryOff (p off : Nat) : Nat := 0x40 + 0x30 * p + off

/-- The valid entries of a record, with their numbers. -/
def Rec.valid (r : Rec) : List (Nat × PEntry) := (r.parts.zipIdx.map (fun x => (x.2, x.1))).filter (fun x => x.2.valid = 1)

/-- Check 3: identifiers outside the variant (R12, R35). Only valid entries are checked, here and in the checks after it: what the masks of
an entry whose VALID is 0 hold is not looked at (log 71). -/
def checkIdents (v : Variant) (r : Rec) : Chk Unit := do
  need (decide (r.fabricModes < 4 ^ Variant.ports v)) .resourceAbsent 0x1C
  r.valid.forM (fun x => do
    need (decide (x.2.clusterMask < 2 ^ Variant.clusters v)) .resourceAbsent (entryOff x.1 0)
    need (decide (x.2.fabMask < 2 ^ Variant.ports v)) .resourceAbsent (entryOff x.1 0x10))

/-- Whether a cluster mask is made of whole dies. -/
def wholeDies (mask : Nat) : Bool := (List.range 8).all (fun d => bits mask (4 * d) 4 == 0 || bits mask (4 * d) 4 == 15)

/-- The first entry at which a running sum passes a total. -/
def sumPasses (total : Nat) (f : PEntry → Nat) (es : List (Nat × PEntry)) : Option Nat :=
  (es.foldl (fun (acc : Nat × Option Nat) x =>
    let t := acc.1 + f x.2
    (t, acc.2.orElse (fun _ => if total < t then some x.1 else none))) (0, none)).2

/-- The sum check of one field (R35, R386). -/
def checkSum (total off : Nat) (f : PEntry → Nat) (es : List (Nat × PEntry)) : Chk Unit :=
  match sumPasses total f es with
  | some p => failWith .modeConflict (entryOff p off)
  | none => .ok ()

/-- Total of RATE_FLASH in GB/s (R386). -/
def FlashSt.totalRate (f : FlashSt) : Nat :=
  (f.groups.map (fun g => match alookup g f.profile with
    | some pr => 16 * pr.mts
    | none => 0)).sum / 1000

/-- Enabled ports under FABRIC_MODES. -/
def portsOn (modes : Nat) : Nat := ((List.range 16).filter (fun p => bits modes (2 * p) 2 ≠ 0)).length

/-- Near memory outside the reservation over the dies in service, in GiB (R35). -/
def State.nonReserved (s : State) (parts : List PEntry) : Nat :=
  ((s.power.diesInService.map (fun d => nmPopulated - reservation s.variant s.newMap parts d)).sum) / 2 ^ 30

/-- Check 4: isolation and partition layout (R35), `now` telling that the entries take effect as the command completes. -/
def State.checkLayout (s : State) (r : Rec) (now : Bool) : Chk Unit := do
  let es := r.valid
  let fenced := r.isolation = 1
  es.forM (fun x => do
    let others := es.filter (fun y => decide (y.1 < x.1))
    need (x.2.clusterMask != 0 && others.all (fun y => x.2.clusterMask &&& y.2.clusterMask == 0) && (!fenced || wholeDies x.2.clusterMask))
      .modeConflict (entryOff x.1 0)
    need (!fenced || x.2.nmQuota == 0) .modeConflict (entryOff x.1 4)
    need (if fenced then x.2.wayMask != 0 else x.2.wayMask == 0) .modeConflict (entryOff x.1 0x12)
    need (!fenced || x.2.rateNm == 0) .modeConflict (entryOff x.1 0x18)
    need (!fenced || x.2.rateD2d == 0) .modeConflict (entryOff x.1 0x1A))
  if fenced then pure () else checkSum (s.nonReserved r.parts) 4 (·.nmQuota) es
  checkSum s.flash.totalRate 0x1C (·.rateFlash) es
  checkSum (200 * (if now then min (portsOn r.fabricModes) (portsOn s.cfg.inForce.fabricModes) else portsOn r.fabricModes)) 0x1E (·.rateFabric) es
  checkSum 256 0x20 (·.ratePcie) es

/-- R35: a change to an entry whose partition has a context; R384: an entry dropped while a ring is formed through it. Made when entries take
effect now. -/
def State.checkBusy (s : State) (r : Rec) : Chk Unit :=
  (List.range 8).forM (fun p => do
    let new := r.parts.getD p {}
    need (new == s.entry p || !s.ctxs.any (fun c => c.part = p)) .resourceBusy 0
    need (new.valid == 1 || !s.fabric.rings.any (fun r => r.part = p)) .resourceBusy 0)

/-- R35: FABRIC_MODES does not change for a port that carries a formed ring, whenever the change would take effect. -/
def State.checkModes (s : State) (r : Rec) : Chk Unit :=
  need ((List.range 16).all (fun p => bits r.fabricModes (2 * p) 2 == bits s.stored.fabricModes (2 * p) 2 || !s.portRing p)) .resourceBusy 0

/-- The package cap of a record in W. -/
def Rec.pkgCap (v : Variant) (r : Rec) : Nat := if r.pkgPowerCap = 0 then Variant.maxPower v else r.pkgPowerCap

/-- Check 5: power caps (R35, R602, POWER_CAP_INFEASIBLE in R540). -/
def checkCaps (v : Variant) (r : Rec) : Chk Unit := do
  r.valid.forM (fun x => need (x.2.powerCap == 0 || decide (25 * popCount 32 x.2.clusterMask ≤ x.2.powerCap)) .powerCapInfeasible x.1)
  need (decide (Variant.lowestDraw v ≤ r.pkgCap v)) .powerCapInfeasible 0xFFFF
  need (decide ((r.valid.map (fun x => x.2.powerCap)).sum ≤ r.pkgCap v)) .powerCapInfeasible 0xFFFF

/-- Check 6: the dirty ceiling (R35, R368), made when the ceiling or the energy changes. -/
def checkCeiling (v : Variant) (r old : Rec) : Chk Unit :=
  need ((r.dirtyCeiling == old.dirtyCeiling && r.holdupEnergy == old.holdupEnergy) || r.dirtyCeiling == 0 ||
    decide (r.dirtyCeiling ≤ largestCovered v r.holdupEnergy)) .ceilingUncovered (largestCovered v r.holdupEnergy / 1024)

/-- Check 7: the reservation under the new entries against near memory already allocated (R36, R159). -/
def State.checkReserve (s : State) (r : Rec) : Chk Unit :=
  (List.range (Variant.dies s.variant)).forM (fun d =>
    let limit := nmBase + d * nmWindow + (nmPopulated - reservation s.variant s.newMap r.parts d)
    need (s.allocs.all (fun a => nmDie a.base != d || decide (a.base + a.size ≤ limit))) .resourceExhausted d)

/-- Checks 3 to 7 of R36 with the refusals of R35 that depend on contexts and rings. -/
def State.checkRecord (s : State) (r : Rec) : Chk Unit := do
  let now := r.isolation == s.cfg.inForce.isolation
  checkIdents s.variant r
  s.checkLayout r now
  s.checkModes r
  if now then s.checkBusy r else pure ()
  checkCaps s.variant r
  checkCeiling s.variant r s.stored
  if now then s.checkReserve r else pure ()

/-! ### Storing and applying -/

/-- Writes a record into the copy that does not hold the current generation, one generation on (R25, R37, R544). -/
def State.storeRecord (s : State) (r : Rec) : State :=
  let r := { r with generation := (s.stored.generation + 1) % 2 ^ 64 }
  let toB : Bool := match s.cfg.recA, s.cfg.recB with
    | some a, some b => !seqLt a.generation b.generation
    | some _, none => true
    | none, _ => false
  if toB then { s with cfg := { s.cfg with recB := some r } } else { s with cfg := { s.cfg with recA := some r } }

/-- Zero-fills a core's tidepool, check bits included (R154): marks go with the bytes. -/
def State.zeroTidepool (s : State) (flat : Nat) : State :=
  let s := s.zeroMarks flat
  { s with mem := s.mem.clear (tpBase flat) 0x800000, tpDirty := s.tpDirty.filter (fun d => d.1 ≠ flat), tpOwner := aerase flat s.tpOwner }

/-- Cores of an entry, whether in service or not. -/
def PEntry.cores (e : PEntry) : List Nat := (maskList 32 e.clusterMask).flatMap (fun k => (List.range 8).map (8 * k + ·))

/-- A core's service after its partition's mask has changed (R234): out of service while the mask powers a retired bank, and back again when
nothing else has taken it out. -/
def State.syncBanks (s : State) (core : Nat) : State :=
  let lost := (List.range 16).any (fun b => s.bankPowered core b && s.unitDown 6 (16 * core + b))
  let listed := s.integ.bankOut.contains core
  if lost && !s.unitDown 4 core then { (s.putOut (0x4000 + core)) with integ := { s.integ with bankOut := addOnce core s.integ.bankOut } }
  else if !lost && listed then
    { s with integ := { s.integ with bankOut := s.integ.bankOut.filter (· ≠ core) }
             health := { s.health with log := { s.health.log with outOfService := s.health.log.outOfService.filter (· ≠ 0x4000 + core) } } }
  else s

/-- Whether an entry's rate on a path differs from another's; RATE_FABRIC is split over the ports (R386). -/
def PEntry.rateDiffers (a b : PEntry) : RegPath → Bool
  | .nm => a.rateNm != b.rateNm
  | .d2d => a.rateD2d != b.rateD2d
  | .flash => a.rateFlash != b.rateFlash
  | .fabric => a.rateFabric != b.rateFabric || a.fabMask != b.fabMask
  | .pcie => a.ratePcie != b.ratePcie

/-- Applies partition entries (R28, R34, R388): a regulator whose rate changes starts full, and the tidepools of an entry's cores
are zero (banks powered up are filled; with no context in the partition nothing else is lost). -/
def State.applyParts (s : State) (parts : List PEntry) : State :=
  (List.range 8).foldl (fun s p =>
    let old := s.entry p
    let new := parts.getD p {}
    if old == new then s
    else
      let cores := old.cores ++ new.cores.filter (· ∉ old.cores)
      let s := cores.foldl (fun s c => s.zeroTidepool c) s
      let s : State := if old.valid ≠ 1 then { s with parts := aerase p s.parts } else s
      let s := if new.valid = 1 then s.updPart p (fun r => { r with regs := r.regs.filter (fun g => !old.rateDiffers new g.1.1) }) else s
      cores.foldl State.syncBanks { s with cfg := { s.cfg with inForce := { s.cfg.inForce with parts := setAt p new s.cfg.inForce.parts } } }) s.computeMoved

/-- The owner of committed slots whose partition is gone: programming them charges no partition (R385, R413). -/
def ownerless : CmdId := { queue := .admin 2, tag := 64 }

/-- What PART_DESTROY does to what the partition holds (R385, R321). -/
def State.dissolvePart (s : State) (p : Nat) : State :=
  let mine := (s.tensors.filter (fun t => t.desc.part = p)).map (·.desc.handle)
  let s := mine.foldl (fun s h => s.writeBackAll h) s
  let disown (x : Slot) : Slot := { x with owner := ownerless }
  let leave (a : (RegPath × Nat) × Arbiter) : (RegPath × Nat) × Arbiter := (a.1, { a.2 with waiting := a.2.waiting.filter (fun w => w.1 ≠ p) })
  ({ s with
    flash := { s.flash with slots := mapIf (fun x => qPart x.owner.queue = some p && x.seq.isSome) disown s.flash.slots }
    accords := s.accords.filter (fun a => a.part ≠ p)
    models := s.models.filter (fun m => m.part ≠ p)
    progs := s.progs.filter (fun x => x.part ≠ p)
    tensors := s.tensors.filter (fun t => t.desc.part ≠ p)
    sems := s.sems.filter (fun x => x.part ≠ p)
    host := { s.host with held := s.host.held.filter (fun h => h.part ≠ p || (qPart h.id.queue).isNone) }
    allocs := s.allocs.filter (fun a => a.part ≠ p)
    indexes := mapIf (fun i => i.part = p) (fun i => { i with allocs := [] }) s.indexes
    parts := aerase p s.parts
    arbiters := s.arbiters.map leave }).sweep

/-- The partition that a namespace belongs to: the lowest-numbered whose mask in force holds its bit (R319). -/
def State.nsOwner (s : State) (ns : Nat) : Option Nat :=
  (List.range 8).find? (fun p => s.hasPart p && bitAt (s.entry p).nsMask ns)

end Sys2Proof.Machine
end

