-- ==== Sys2Proof/Machine/Sched.lean ====
section
/-!
DEFINITION. Slices, handovers, semaphores, regulators and energy accounting (chapter *Partitions, contexts and scheduling*).
-/
namespace Sys2Proof.Machine

open Sys2Proof

/-! ### Ready and running sliced commands (R394, R396, R397) -/

/-- The sliced commands of a context that have not completed. -/
def State.slicedOf (s : State) (p c : Nat) : List Outst :=
  s.host.outst.filter (fun o => o.id.queue = .io (16 * p + c) && sliced o.cmd && o.phase != .posted)

def State.readySliced (s : State) (p c : Nat) : List Outst :=
  (s.slicedOf p c).filter (fun o => o.phase = .waiting && o.ready s.host.outst)

def State.runningSliced (s : State) (p c : Nat) : Option Outst := (s.slicedOf p c).find? (fun o => o.phase = .running)

/-- A sliced command that has been killed and put back at the head of its queue (R400). -/
def Outst.requeued (o : Outst) : Bool := decide (0 < o.sliceKills + o.faultKills + o.poisonKills.length)

/-- The next sliced command that the holder starts: a requeued one first, then in the order of becoming ready (R396, R400). -/
def State.nextSliced (s : State) (p c : Nat) : Option Outst :=
  leastBy (fun a b => (a.requeued && !b.requeued) ||
    (a.requeued == b.requeued && (decide (a.readySeq < b.readySeq) || (a.readySeq == b.readySeq && decide (a.serial < b.serial)))))
    (s.readySliced p c)

/-- Whether a sliced command may start now (R395, R396). -/
def State.sliceAllows (s : State) (id : CmdId) : Bool :=
  match qPart id.queue with
  | none => false
  | some p =>
    let c := qCtx id.queue
    let r := s.partRt p
    r.holder == some c && !r.overrun && (s.runningSliced p c).isNone && (s.nextSliced p c).map (·.id) == some id

/-! ### The next holder (R397, R403, R408, R409) -/

/-- When the oldest ready sliced command of a context became ready. -/
def State.oldestReady (s : State) (p c : Nat) : Nat :=
  ((leastBy (fun a b => decide (a.readyAt < b.readyAt)) (s.readySliced p c)).map (·.readyAt)).getD s.now

/-- The pseudocode effective_priority (R397). -/
def State.effective (s : State) (p c : Nat) : Nat :=
  match s.ctx? p c with
  | none => 0
  | some x =>
    let e := s.entry p
    if (s.partRt p).holder = some c || e.ageing = 0 then x.base
    else
      let w := s.now - max (s.oldestReady p c) x.lastSliceEnd
      max x.base (min e.prioCeil (x.base + w / e.ageing))

/-- Whether a context has a sliced command ready, or running at its slice end. -/
def State.hasWork (s : State) (p c : Nat) : Bool := !(s.readySliced p c).isEmpty || (s.runningSliced p c).isSome

/-- The wait through which a context donates, and to whom (R408). -/
def State.donates (s : State) (p w : Nat) : Option (Sem × Waiter × Nat) :=
  if s.hasWork p w then none
  else
    s.sems.findSome? (fun sem =>
      match sem.holder with
      | none => none
      | some h =>
        if sem.part = p && h ≠ w && (s.partRt p).holder ≠ some h && !(s.readySliced p h).isEmpty then
          (sem.waiters.find? (fun x => x.ctx = w)).map (fun x => (sem, x, h))
        else none)

/-- The contexts among which choose_next picks. -/
def State.candidates (s : State) (p : Nat) (excl : List Nat) : List Nat :=
  (List.range 16).filter (fun c => (s.ctx? p c).isSome && c ∉ excl && (s.hasWork p c || (s.donates p c).isSome))

/-- First context of highest effective priority after the last holder, wrapping. -/
def State.pick (s : State) (p : Nat) (cs : List Nat) : Option Nat :=
  let top := (cs.map (s.effective p)).foldl max 0
  let after := (s.partRt p).lastHolder
  ((List.range 16).map (fun i => (after + 1 + i) % 16)).find? (fun c => c ∈ cs && s.effective p c = top)

def State.updSem (s : State) (h : Nat) (f : Sem → Sem) : State := { s with sems := mapIf (fun x => x.handle = h) f s.sems }

def State.debtOf (s : State) (p c : Nat) : Nat := ((s.ctx? p c).map (·.debtUs)).getD 0

/-- Rounds in which choose_next has surely chosen: each but the last passes a context over or ends a wait. -/
def State.chooseRounds (s : State) : Nat := 17 + (s.sems.map (fun x => x.waiters.length)).sum

/-- choose_next with the rules of debt (R403) and donation (R408, R409): who runs the slice, if anybody. -/
def State.chooseNext (p : Nat) : Nat → List Nat → State → State × Option Nat
  | 0, _, s => (s, none)
  | fuel + 1, excl, s =>
    let cs := s.candidates p excl
    let slice := 10 * (s.entry p).slice
    match s.pick p cs with
    | none => (s, none)
    | some c =>
      let alone := (cs.filter (· ≠ c)).isEmpty
      match s.donates p c with
      | some (sem, w, h) =>
        if w.donations ≥ w.donateMax then
          let s := s.updSem sem.handle (fun x => { x with waiters := x.waiters.filter (fun y => y.id ≠ w.id) })
          State.chooseNext p fuel excl (s.completeId w.id .semHeldPreempted w.donations [])
        else if slice ≤ s.debtOf p h then
          if alone then (s.updCtx p h (fun x => { x with debtUs := 0 }), some h)
          else State.chooseNext p fuel (c :: excl) (s.updCtx p h (fun x => { x with debtUs := x.debtUs - slice }))
        else
          (s.updSem sem.handle (fun x => { x with waiters := mapIf (fun y => y.id = w.id) (fun y => { y with donations := y.donations + 1 }) x.waiters }),
            some h)
      | none =>
        if slice ≤ s.debtOf p c then
          if alone then (s.updCtx p c (fun x => { x with debtUs := 0 }), some c)
          else
            State.chooseNext p fuel (c :: excl) (s.updCtx p c (fun x => { x with debtUs := x.debtUs - slice, lastSliceEnd := s.now }))
        else (s, some c)

/-! ### Tidepool save and reload (R188, R189) -/

/-- The entries of a store in `n` bytes from `a`, moved to start at `b`. -/
def Mem.moved (m : Mem) (a n b : Nat) : Mem := (m.filter (fun c => decide (a ≤ c.1) && decide (c.1 < a + n))).map (fun c => (c.1 - a + b, c.2))

/-- Replaces the `n` bytes of a store from `a` by the entries of another, which lie there. -/
def Mem.replace (m : Mem) (a n : Nat) (src : Mem) : Mem :=
  m.filter (fun c => decide (c.1 < a)) ++ src ++ m.filter (fun c => decide (a + n ≤ c.1))

/-- Saves the dirty regions of one core's tidepool to a context's save area (R185, R188), with what the checkers find in them. -/
def State.saveCore (s : State) (p c core flat : Nat) : State :=
  let dirty := (s.tpDirty.filter (fun d => d.1 = flat)).map (·.2)
  let s := dirty.foldl (fun s r =>
    let addr := tpBase flat + 4096 * r
    let area := core * 2 ^ 23 + 4096 * r
    let s := s.findAll addr 4096
    let moved := Mem.moved s.mem addr 4096 area
    let marks := s.saveMarks core flat r
    (s.updCtx p c (fun x => { x with saveArea := Mem.replace x.saveArea area 4096 moved })).putMarks p c core r marks) s
  { s with tpDirty := s.tpDirty.filter (fun d => d.1 ≠ flat) }

/-- Loads one core's tidepool from a context's save area (R188), with its marks and what armed ERR_INJECTs leave (R242); nothing is dirty then. -/
def State.loadCore (s : State) (p c core flat : Nat) : State :=
  match s.ctx? p c with
  | none => s
  | some x =>
    let s := s.zeroMarks flat
    let armed := s.integ.armedMarks (tpBase flat) 0x800000
    ({ s with mem := Mem.replace s.mem (tpBase flat) 0x800000 (Mem.moved x.saveArea (core * 2 ^ 23) (2 ^ 23) (tpBase flat))
              tpDirty := s.tpDirty.filter (fun d => d.1 ≠ flat)
              integ := s.integ.inject (tpBase flat) 0x800000 }.noteMarks armed).addPoison (x.reloadMarks core flat (fun _ => true))

/-- Hands the cores of a partition from one context's tidepool to another's. -/
def State.swapTidepool (s : State) (p out inn : Nat) : State :=
  if out = inn then s
  else (s.runCores p).zipIdx.foldl (fun s x => (s.saveCore p out x.2 x.1).loadCore p inn x.2 x.1) s

/-! ### Granting a slice -/

/-- Grants a slice (R398, R399): less the debt, which is cleared; the tidepool is swapped when the holder is another. -/
def State.grant (s : State) (p c : Nat) : State :=
  let r := s.partRt p
  let s := if r.lastHolder = c then s else s.swapTidepool p r.lastHolder c
  let len := 10 * (s.entry p).slice - s.debtOf p c
  let s := s.updCtx p c (fun x => { x with debtUs := 0 })
  let s := s.updPart p (fun r => { r with holder := some c, lastHolder := c, sliceStart := s.now, sliceLen := len, overrun := false })
  s.charge p c 21 1

/-- The outgoing holder's slice has ended. -/
def State.endSliceOf (s : State) (p : Nat) : State :=
  match (s.partRt p).holder with
  | none => s
  | some h => s.updCtx p h (fun x => { x with lastSliceEnd := s.now })

/-- A handover (R397 to R399, R403): the choice, then the grant, or idle cores. -/
def State.doHandover (s : State) (p : Nat) : State :=
  match State.chooseNext p s.chooseRounds [] s with
  | (s, none) => (s.endSliceOf p).updPart p (fun r => { r with holder := none, overrun := false })
  | (s, some c) =>
    let s := if (s.partRt p).holder = some c then s else s.endSliceOf p
    s.grant p c

/-- Whether a sliced command runs on past its slice end (R212, R294, R401). -/
def State.runsOn (s : State) (o : Outst) : Bool :=
  decide (2 ≤ o.sliceKills) ||
    (match s.run? o.id with
     | some r => r.img.hasCollective || r.img.atomicRun
     | none => false) ||
    (match s.invocations.find? (fun i => i.id = o.id) with
     | some i =>
       (match s.accords.find? (fun a => a.handle = i.accord) with
        | some a => a.kind == 0 && (decide (2 < i.stage) || (i.stage == 2 && i.busy))
        | none => false)
     | none => false)

/-- Kills the running sliced command of a holder at its slice end (R400): requeued with its tag. A TRAIN invocation keeps the
stages that it has committed (R297). -/
def State.sliceKill (s : State) (p c : Nat) (o : Outst) : State :=
  let keep := s.keptInvs o.id
  let s := s.abandon o.id
  let s := { s with invocations := s.invocations ++ keep }
  ((s.updOutst o.id (fun x => { x with sliceKills := x.sliceKills + 1 })).requeue o.id).charge p c 22 1

/-- The end of a slice (R399 to R402). -/
def State.doSliceEnd (s : State) (p : Nat) : State :=
  let r := s.partRt p
  match r.holder with
  | none => s
  | some h =>
    if r.overrun then s
    else
      match s.runningSliced p h with
      | none => s.doHandover p
      | some o =>
        if s.runsOn o then s.updPart p (fun r => { r with overrun := true, sliceLen := s.now - r.sliceStart })
        else
          match State.chooseNext p s.chooseRounds [] s with
          | (s, none) => s
          | (s, some c) => if c = h then s.grant p c else ((s.sliceKill p h o).endSliceOf p).grant p c

/-- SLICE_END: the slice of partition `p`'s holder ends. -/
def execSliceEnd (p : Nat) (s : State) : Res := .next (if s.hasPart p then s.doSliceEnd p else s)

/-- HANDOVER: takes place when nobody holds the slice, when the holder has no sliced command running or ready, or when the
command that ran on has ended (R397, R402). -/
def execHandover (p : Nat) (s : State) : Res :=
  .next (
    if !s.hasPart p then s
    else
      match (s.partRt p).holder with
      | none => s.doHandover p
      | some h =>
        if (s.runningSliced p h).isSome then s
        else if (s.partRt p).overrun || (s.readySliced p h).isEmpty then s.doHandover p
        else s)

/-! ### Run bound (R213, R401) -/

/-- RUN_BOUND_EXPIRY: a run that is not pre-empted, the program of a RETRIEVE that runs on among them, has reached its RUN_BOUND before its commit point
(R213, R401, R404). -/
def execRunBoundExpiry (id : CmdId) (s : State) : Res :=
  .next (
    match s.outst? id, s.run? id with
    | some o, some r =>
      if o.phase = .running && s.runsOn o then
        s.failRun id .runBoundExceeded r.img.runBound
      else s
    | _, _ => s)

/-! ### Semaphores (R405 to R411) -/

/-- SEM_TIMEOUT: a waiting SEM_ACQUIRE's timeout passes (R406); one without a timeout waits on. -/
def execSemTimeout (id : CmdId) (s : State) : Res :=
  .next (
    if s.sems.any (fun x => x.waiters.any (fun w => w.id = id && w.timeout != 0)) then
      let leave (x : Sem) : Sem := { x with waiters := x.waiters.filter (fun w => w.id ≠ id) }
      let s := { s with sems := s.sems.map leave }
      s.completeId id .semTimeout 0 []
    else s)

/-- Gives a free semaphore to its first waiter (R407); the result tells whether it was abandoned (R410). -/
def State.passSem (s : State) (h : Nat) : State :=
  match s.sems.find? (fun x => x.handle = h) with
  | none => s
  | some x =>
    match x.holder, x.waiters with
    | none, w :: ws =>
      let s := s.updSem h (fun y => { y with holder := some w.ctx, waiters := ws, abandoned := false })
      s.completeId w.id .ok 0 (leBytes 4 (if x.abandoned then 1 else 0))
    | _, _ => s

/-- Releases every semaphore that a destroyed context held (R410). -/
def State.abandonSems (s : State) (p c : Nat) : State :=
  let mine := (s.sems.filter (fun x => x.part = p && x.holder = some c)).map (·.handle)
  mine.foldl (fun s h => (s.updSem h (fun x => { x with holder := none, abandoned := true })).passSem h) s

/-! ### Regulators (R386 to R389) -/

/-- The rate of a partition on a path in GB/s, and the share n/m of it that one enforcement place applies (R386). -/
def State.regRate (s : State) (p : Nat) (path : RegPath) : Nat × Nat × Nat :=
  let e := s.entry p
  match path with
  | .nm => (e.rateNm, 1, 1)
  | .d2d => (e.rateD2d, 1, 1)
  | .flash => (e.rateFlash, 1, 1)
  | .fabric => (e.rateFabric, 1, max 1 ((List.range 16).filter (fun q => bitAt e.fabMask q && bits s.cfg.inForce.fabricModes (2 * q) 2 ≠ 0)).length)
  | .pcie => (e.ratePcie, 1, 1)

/-- Share of RATE_FLASH at a flash-interface die: its channels in use over all channels in use (R386). -/
def State.flashShare (s : State) (fd : Nat) : Nat × Nat :=
  ((s.flash.groups.filter (fun g => g / 2 = fd)).length, max 1 s.flash.groups.length)

/-- The rate of a partition at one place of a path, as GB/s and a share. -/
def State.rateAt (s : State) (p : Nat) (path : RegPath) (unit : Nat) : Nat × Nat × Nat :=
  match path with
  | .flash => ((s.entry p).rateFlash, s.flashShare (unit / 2))
  | _ => s.regRate p path

/-- Refilled at `now` (R387). Rates count bytes per µs. -/
def Regulator.fill (reg : Regulator) (rate n m now : Nat) : Regulator :=
  let depth : Int := max 65536 (rate * 20000 * n / m : Nat)
  { tokens := min depth (reg.tokens + (rate * 1000 * n * (now - reg.last) / m : Nat)), last := now }

/-- The pseudocode of R387: refill, then take the request's bytes when tokens are above 0. -/
def Regulator.take (reg : Regulator) (rate n m now bytes : Nat) : Regulator :=
  let r := reg.fill rate n m now
  { r with tokens := if 0 < r.tokens then r.tokens - bytes else r.tokens }

/-- A partition's regulator at a place: full when new (R388). -/
def State.regAt (s : State) (p : Nat) (path : RegPath) (unit : Nat) : Regulator :=
  let (rate, n, m) := s.rateAt p path unit
  (alookup (path, unit) (s.partRt p).regs).getD { tokens := max 65536 (rate * 20000 * n / m : Nat), last := s.now }

/-- Whether a partition holds tokens at a place; one without a rate needs none (R387, R389). -/
def State.holdsTokens (s : State) (p : Nat) (path : RegPath) (unit : Nat) : Bool :=
  let (rate, n, m) := s.rateAt p path unit
  rate = 0 || decide (0 < ((s.regAt p path unit).fill rate n m s.now).tokens)

/-- Takes an admitted request's bytes from the regulator, where there is one. -/
def State.takeTokens (s : State) (p : Nat) (path : RegPath) (unit bytes : Nat) : State :=
  let (rate, n, m) := s.rateAt p path unit
  if rate = 0 then s else s.updPart p (fun r => { r with regs := ainsert (path, unit) ((s.regAt p path unit).take rate n m s.now bytes) r.regs })

/-- The arbiter of a place: before it has served anybody its turn starts at partition 0 (log entry 81). -/
def State.arbiter (s : State) (path : RegPath) (unit : Nat) : Arbiter := (alookup (path, unit) s.arbiters).getD { waiting := [], last := 7 }

/-- The partition whose request is served next: the first in ascending number after the one served last that holds tokens and waits (R389). -/
def State.servedNext (s : State) (path : RegPath) (unit : Nat) : Option Nat :=
  let a := s.arbiter path unit
  ((List.range 8).map (fun i => (a.last + 1 + i) % 8)).find? (fun p => s.hasPart p && a.waiting.any (fun w => w.1 = p) && s.holdsTokens p path unit)

/-- Serves one waiting request of a path, if any partition that waits holds tokens (R387, R389). -/
def State.servePath (s : State) (path : RegPath) (unit : Nat) : State :=
  match s.servedNext path unit with
  | none => s
  | some p =>
    let a := s.arbiter path unit
    let bytes := ((a.waiting.find? (fun w => w.1 = p)).map (·.2)).getD 0
    { (s.takeTokens p path unit bytes) with
      arbiters := ainsert (path, unit) { waiting := a.waiting.erase (p, bytes), last := p } s.arbiters }

/-- Whether a path has such a place for a partition (R386): a die in service, each direction of its links, each direction of a flash-interface
die with channels in use, an enabled port of the partition's mask, or each direction of the host ports together. -/
def State.hasPlace (s : State) (p : Nat) (path : RegPath) (unit : Nat) : Bool :=
  match path with
  | .nm => s.dieUp unit
  | .d2d => s.dieUp (unit / 2)
  | .flash => decide (0 < (s.flashShare (unit / 2)).1)
  | .fabric => decide (unit < 16) && bitAt (s.entry p).fabMask unit && bits s.cfg.inForce.fabricModes (2 * unit) 2 != 0
  | .pcie => decide (unit < 2)

/-- REGULATOR_ADMIT (R387 to R389): a partition's request of at most 4 KiB comes to one place of a path and waits there; then the path serves one of the
requests that wait, in the turn of R389. With no bytes no request comes, and the path serves one that waits; a place that the path does not
have takes nothing (log entry 81). -/
def execRegulatorAdmit (p : Nat) (path : RegPath) (unit bytes : Nat) (s : State) : Res :=
  .next (
    if !s.hasPart p || !s.hasPlace p path unit || 4096 < bytes then s
    else
      let a := s.arbiter path unit
      let come : State := { s with arbiters := ainsert (path, unit) { a with waiting := a.waiting ++ [(p, bytes)] } s.arbiters }
      (if bytes = 0 then s else come).servePath path unit)

/-! ### Energy (R415, R416) -/

/-- Divides one rail's energy among the contexts by their activity on it; the share of activity that no context of the package bears (background flash
work, scrubbing, idle cycles, a context that is gone) and what the division leaves go to the device account (R415, R416). -/
def State.shareRail (s : State) (i energy : Nat) (activity : List (Nat × Nat × List Nat)) : State :=
  let live := activity.filter (fun a => (s.ctx? a.1 a.2.1).isSome)
  let total := (activity.map (fun a => a.2.2.getD i 0)).sum
  if total = 0 then s.chargeDevice 20 energy
  else
    let given := (live.map (fun a => energy * a.2.2.getD i 0 / total)).sum
    (live.foldl (fun s a => s.charge a.1 a.2.1 20 (energy * a.2.2.getD i 0 / total)) s).chargeDevice 20 (energy - given)

/-- ENERGY_SAMPLE: each rail's energy over 1 ms, divided by activity; a rail without activity is idle power (R415, R416). -/
def execEnergySample (energy : List Nat) (activity : List (Nat × Nat × List Nat)) (s : State) : Res :=
  .next (if s.power.powered then energy.zipIdx.foldl (fun s e => s.shareRail e.2 e.1 activity) s else s)

end Sys2Proof.Machine
end

