-- ==== Sys2Proof/Machine/Admin.lean ====
section
/-!
DEFINITION. Admin and partition commands (groups 0x0 and 0x1): the record, operating points, store tunables, partitions
and contexts.
-/
namespace Sys2Proof.Machine

open Sys2Proof

/-- NOP: completes with OK (R522). -/
def execNop (id : CmdId) (s : State) : Res :=
  .next (s.startCmd id (.nop id) (fun s o => do
    noHold o
    okDone s))

/-! ### Supplies (R599, R600) -/

/-- Engine-logic supply in mV at an engine clock (R599). -/
def engineMv : Nat → Nat
  | 0 => 650
  | 1 => 700
  | 2 => 780
  | _ => 850

/-- Each die's supply at the highest engine clock of its clusters in service (R600); a die whose clusters are all power-gated keeps its own (log entry 57). -/
def State.setSupplies (s : State) : State :=
  let runs (d p : Nat) : Bool := s.hasPart p && (List.range 4).any (fun k => bitAt (s.entry p).clusterMask (4 * d + k) && s.clusterUp (4 * d + k))
  let mv (d old : Nat) : Nat :=
    let pts := ((List.range 8).filter (runs d)).map s.enginePoint
    if pts.isEmpty then old else engineMv (pts.foldl max 0)
  { s with power := { s.power with vdd := s.power.vdd.zipIdx.map (fun x => mv x.2 x.1) } }

/-! ### The record -/

/-- CFG_READ: the 512-byte stored record, pending fields as written (R25). -/
def execCfgRead (id : CmdId) (s : State) : Res :=
  .next (s.startCmd id (.cfgRead id) (fun s o => do
    needRbuf o 512
    okResult s s.stored.bytes))

/-- Protection of the reset-effective fields at level 2 (R35, R563). -/
def State.checkProtected (s : State) (r : Rec) : Chk Unit :=
  let old := s.stored
  need (s.cfl.protLevel != 2 || (r.isolation == old.isolation && r.fabricModes == old.fabricModes && r.holdupEnergy == old.holdupEnergy))
    .protectionDenied s.cfl.protLevel

/-- The caps that a record puts in force: the package cap and each partition's. -/
def State.capsNow (s : State) : Nat × List Nat := (s.stored.pkgPowerCap, s.cfg.inForce.parts.map (·.powerCap))

/-- Partitions that new entries make unused give back what they hold (R385). -/
def State.dropParts (s : State) (parts : List PEntry) : State :=
  (List.range 8).foldl (fun s p => if s.hasPart p && (parts.getD p {}).valid ≠ 1 then s.dissolvePart p else s) s

/-- Stores a checked record and puts in force what takes effect when the command completes (R28, R29, R31, R37), the dies' supplies with the new layout (R600). -/
def State.adoptRecord (s : State) (r : Rec) : State :=
  if r.isolation = s.cfg.inForce.isolation then (((s.dropParts r.parts).storeRecord r).applyParts r.parts).setSupplies else s.storeRecord r

/-- Whether a configuration command still waits: for dirty data to fall under a lowered ceiling (R33), or for a cap step (R604). -/
def State.awaitConfig (s s' : State) (id : CmdId) : State × Done :=
  let cap := s.capsNow ≠ s'.capsNow
  let ceil := decide (s'.ceilingPieces < s'.dirtyPieces)
  if cap || ceil then
    ({ s' with cfg := { s'.cfg with
        waitingCap := if cap then s'.cfg.waitingCap ++ [id] else s'.cfg.waitingCap
        waitingCeiling := if ceil then s'.cfg.waitingCeiling ++ [id] else s'.cfg.waitingCeiling } }, .runs 0)
  else (s', .now .ok 0 [])

/-- CFG_WRITE: a whole record, checked in the order of R36 before any part is stored (R30). -/
def execCfgWrite (id : CmdId) (s : State) : Res :=
  .next (s.startConfig id (.cfgWrite id) (fun s o => do
    noHold o
    needIbuf o 512
    let (s, bs) ← s.takeIbuf o 512
    match recFault bs with
    | some off => failWith .configMalformed off
    | none => do
      let r := recOf bs
      s.checkProtected r
      s.checkRecord r
      .ok (s.awaitConfig (s.adoptRecord r) id)))

/-! ### Operating points -/

/-- The smallest WAIT of each operating point (*Wait states by operating point*, R550). -/
def minWait : Nat → Nat
  | 0 => 10
  | 1 => 15
  | 2 => 17
  | _ => 23

/-- Engine clocks are never above the operating point in force (R599). -/
def State.holdClocks (s : State) : State :=
  ((List.range 8).foldl (fun s p =>
    if s.hasPart p then s.updPart p (fun r => { r with clockPoint := min r.clockPoint s.power.opp }) else s) s).setSupplies

/-- SET_OPP: the operating point, checked against CFL_WAIT in force (R35, R40, R550, R599). -/
def execSetOpp (id : CmdId) (opp : Nat) (s : State) : Res :=
  .next (s.startConfig id (.setOpp id opp) (fun s o => do
    noHold o
    inRange (decide (opp ≤ 3)) 0x08
    need (decide (minWait opp ≤ o.rung.2)) .cflWaitTooLow (minWait opp)
    okDone ({ s with power := { s.power with opp := opp } }.holdClocks)))

/-! ### Store tunables -/

/-- The ranges of the *Store tunables* table (R346). -/
def tuneOk (tunable v : Nat) : Bool :=
  match tunable with
  | 0 => decide (10000 ≤ v) && decide (v ≤ 16000000)
  | 1 => decide (1 ≤ v) && decide (v ≤ 30)
  | 2 => decide (v ≤ 128)
  | 3 => decide (1 ≤ v) && decide (v ≤ 168)
  | _ => decide (1 ≤ v) && decide (v ≤ 20)

/-- STORE_TUNE: one package-wide tunable (R346). -/
def execStoreTune (id : CmdId) (tunable value : Nat) (s : State) : Res :=
  .next (s.startCmd id (.storeTune id tunable value) (fun s o => do
    noHold o
    inRange (decide (tunable ≤ 4)) 0x08
    inRange (tuneOk tunable value) 0x0C
    let t := setAt tunable value s.cfg.tunables
    okDone { s with cfg := { s.cfg with tunables := t, tunablesSaved := t, tunablesLost := false } }))

/-! ### Partitions -/

/-- The stored record with one entry replaced and PARTITION_COUNT kept equal to the valid entries (R27). -/
def Rec.withEntry (r : Rec) (p : Nat) (e : PEntry) : Rec :=
  let parts := setAt p e r.parts
  { r with parts := parts, partCount := (parts.filter (fun x => x.valid = 1)).length }

/-- PART_CREATE and PART_MODIFY after their identifier checks: the entry's structure (R382, R383), the record as it would stand
(R36), no memory test on a cluster that the entry names (R668), then the new layout. -/
def State.rewriteEntry (s : State) (id : CmdId) (o : Outst) (p : Nat) (waits : Bool) : Chk (State × Done) := do
  let (s, bs) ← s.takeIbuf o 48
  need (!s.layoutPending) .modeConflict 0x10
  match entryFault bs with
  | some off => failWith .configMalformed (entryOff p off)
  | none => do
    let e := pEntryOf bs
    need (e.valid == 1) .configMalformed (entryOff p 0x28)
    let r := s.stored.withEntry p e
    s.checkRecord r
    need (!s.test.bist.any (fun b => b.target = 0 && bitAt e.clusterMask b.index)) .resourceBusy 0
    let t := s.adoptRecord r
    if waits then .ok (s.awaitConfig t id) else okDone t

/-- PART_CREATE (R382). -/
def execPartCreate (id : CmdId) (p : Nat) (s : State) : Res :=
  .next (s.startConfig id (.partCreate id p) (fun s o => do
    noHold o
    inRange (decide (p < 8)) 0x08
    need (!s.hasPart p) .idInUse 0
    needIbuf o 48
    s.rewriteEntry id o p false))

/-- PART_MODIFY (R382, R34, R604). -/
def execPartModify (id : CmdId) (p : Nat) (s : State) : Res :=
  .next (s.startConfig id (.partModify id p) (fun s o => do
    noHold o
    inRange (decide (p < 8)) 0x08
    need (s.hasPart p) .notFound 0
    needIbuf o 48
    s.rewriteEntry id o p true))

/-- PART_DESTROY (R382, R384, R385). -/
def execPartDestroy (id : CmdId) (p : Nat) (s : State) : Res :=
  .next (s.startConfig id (.partDestroy id p) (fun s o => do
    noHold o
    inRange (decide (p < 8)) 0x08
    need (s.hasPart p) .notFound 0
    need (!s.layoutPending) .modeConflict 0x10
    let r := s.stored.withEntry p {}
    s.checkRecord r
    okDone (s.adoptRecord r)))

/-! ### Contexts -/

/-- Checks the partition and context fields of a context command. -/
def State.ctxFields (s : State) (p c : Nat) : Chk Unit := do
  inRange (decide (p < 8)) 0x08
  inRange (decide (c < 16)) 0x09
  need (s.hasPart p) .notFound 0
  need (s.ctx? p c).isSome .notFound 0

/-- A new context (R391, R413): counters at zero, nothing saved. -/
def Ctx.fresh (p c base now : Nat) : Ctx :=
  { part := p, num := c, base := base, flags := 0, debtUs := 0, lastSliceEnd := now, acct := Acct.zero, saveArea := [], savePoison := [], optimiserNs := 0 }

/-- CTX_CREATE: the lowest free context number (R391), its queue in the result (R392). -/
def execCtxCreate (id : CmdId) (p priority : Nat) (s : State) : Res :=
  .next (s.startCmd id (.ctxCreate id p priority) (fun s o => do
    inRange (decide (p < 8)) 0x08
    inRange (decide (priority ≤ 3)) 0x09
    need (s.hasPart p) .notFound 0
    needRbuf o 4
    match firstBelow (s.entry p).ctxMax (fun c => (s.ctx? p c).isNone) with
    | none => failWith .resourceExhausted 0xFFFF
    | some c => okResult { s with ctxs := s.ctxs ++ [Ctx.fresh p c priority s.now] } (leBytes 1 c ++ [0] ++ leBytes 2 (16 * p + c))))

/-- What destroying a context does (R393): its queue is disabled (R491), its semaphores pass on (R410), its tidepool is zeroed (R188). -/
def State.dropContext (s : State) (p c : Nat) : State :=
  let s := s.disableQueue (.io (16 * p + c))
  let s := s.abandonSems p c
  let s := if (s.partRt p).lastHolder = c then (s.entry p).cores.foldl (fun s f => s.zeroTidepool f) s else s
  let s := s.updPart p (fun r => { r with holder := if r.holder = some c then none else r.holder })
  { s with ctxs := s.ctxs.filter (fun x => !(x.part = p && x.num = c)) }

/-- Whether a queue holds a command (R393): one rung and not yet fetched, or one fetched and not yet posted. -/
def State.holdsCommand (s : State) (q : QId) : Bool :=
  (s.queue q).sqHead != (s.queue q).sqTail || s.host.outst.any (fun x => x.id.queue = q && x.phase != .posted)

/-- CTX_DESTROY (R393). -/
def execCtxDestroy (id : CmdId) (p c : Nat) (s : State) : Res :=
  .next (s.startCmd id (.ctxDestroy id p c) (fun s o => do
    noHold o
    s.ctxFields p c
    need (!s.holdsCommand (.io (16 * p + c))) .resourceBusy 0
    okDone (s.dropContext p c)))

/-- CTX_MODIFY: the base priority, which counts from the partition's next handover (R28). -/
def execCtxModify (id : CmdId) (p c priority : Nat) (s : State) : Res :=
  .next (s.startCmd id (.ctxModify id p c priority) (fun s o => do
    noHold o
    inRange (decide (p < 8)) 0x08
    inRange (decide (c < 16)) 0x09
    inRange (decide (priority ≤ 3)) 0x0A
    s.ctxFields p c
    okDone (s.updCtx p c (fun x => { x with base := priority }))))

/-- The 16 bytes of CTX_STATUS (R531). -/
def State.ctxStatus (s : State) (p c : Nat) (x : Ctx) : Bytes :=
  let tags := (s.host.outst.filter (fun o => o.id.queue = .io (16 * p + c))).length
  leBytes 1 x.flags ++ leBytes 1 x.base ++ leBytes 1 (s.effective p c) ++ leBytes 1 (if (s.partRt p).holder = some c then 1 else 0)
    ++ leBytes 4 x.debtUs ++ leBytes 2 (s.readySliced p c).length ++ leBytes 1 tags ++ zeros 5

/-- CTX_STATUS (R531). -/
def execCtxStatus (id : CmdId) (p c : Nat) (s : State) : Res :=
  .next (s.startCmd id (.ctxStatus id p c) (fun s o => do
    s.ctxFields p c
    needRbuf o 16
    match s.ctx? p c with
    | none => failWith .notFound 0
    | some x => okResult s (s.ctxStatus p c x)))

/-- CTX_FLAGS_CLEAR: clears the chosen flags of the context alone (R123). -/
def execCtxFlagsClear (id : CmdId) (p c mask : Nat) (s : State) : Res :=
  .next (s.startCmd id (.ctxFlagsClear id p c mask) (fun s o => do
    noHold o
    inRange (decide (p < 8)) 0x08
    inRange (decide (c < 16)) 0x09
    inRange (decide (mask < 32)) 0x0A
    s.ctxFields p c
    okDone (s.updCtx p c (fun x => { x with flags := x.flags &&& (31 - mask) }))))

end Sys2Proof.Machine
end

