-- ==== Sys2Proof/Machine/Reduce.lean ====
section
/-!
DEFINITION. Collective operations on a ring (chapter *Ring reduction*): sending and taking segments, scale agreement, the link adder
of R468, gathering, the completion of an operation and its failures.
-/
namespace Sys2Proof.Machine

open Sys2Proof

/-! ### Sending segments (R434, R437, R439, R465) -/

/-- The effective sending window of a stripe: its own, up to the credit (R434, R439). -/
def SendStripe.room (x : SendStripe) : Bool := lsLe x.nextSeq x.credit && decide (x.unacked.length < x.window)

/-- Sends what the credit and the window of a stripe let through, in order (R434). -/
def State.pump (h st : Nat) : Nat → State → State
  | 0, s => s
  | fuel + 1, s =>
    match s.ring? h with
    | none => s
    | some r =>
      let x := r.sendOf st
      match x.queued with
      | [] => s
      | q :: qs =>
        if x.room then
          let p := s.header r 1 true st x.plane x.nextSeq
          let p : LsPkt := { p with chunk := q.chunk, block := q.block, blocks := q.blocks }
          let s := s.updRing h (fun r => r.setSend st { x with queued := qs, nextSeq := (x.nextSeq + 1) % 2 ^ 32, unacked := x.unacked ++ [p] })
          State.pump h st fuel (s.sendPkt h true p)
        else s

/-- Sends on every stripe of a ring what may go. -/
def State.pumpAll (s : State) (h : Nat) : State :=
  match s.ring? h with
  | none => s
  | some r => (List.range r.planeList.length).foldl (fun s st => State.pump h st ((r.sendOf st).queued.length + 1) s) s

/-- Queues a segment on a stripe. -/
def State.enqueue (s : State) (h st chunk block : Nat) (blocks : List Lb32) : State :=
  match s.ring? h with
  | none => s
  | some r =>
    let p : LsPkt := { s.header r 1 true st 0 0 with chunk := chunk, block := block, blocks := blocks }
    s.updRing h (fun r => r.setSend st { r.sendOf st with queued := (r.sendOf st).queued ++ [p] })

/-- Queues the next segment of an operation's traffic to the successor: segment `g` goes on stripe g mod R (R465's text). -/
def State.sendNext (s : State) (h chunk block : Nat) (blocks : List Lb32) : State :=
  match s.ring? h with
  | none => s
  | some r =>
    let g := (r.current.map (·.segments)).getD 0
    let count (op : RingOp) : RingOp := { op with segments := op.segments + 1 }
    (s.enqueue h (g % max 1 r.planeList.length) chunk block blocks).updRing h (fun r => { r with current := r.current.map count })

/-- Sends the blocks of a chunk in segments of up to 40. -/
def State.sendChunk (s : State) (h chunk : Nat) (blocks : List Lb32) : State :=
  ((List.range (ceilDiv blocks.length 40)).foldl (fun s g => s.sendNext h chunk (40 * g) ((blocks.drop (40 * g)).take 40)) s).pumpAll h

/-- Sends an unacknowledged segment again on its stripe's present plane, with RETRANSMIT set (R437, R441). -/
def State.resend (s : State) (h st seq : Nat) : State :=
  match s.ring? h with
  | none => s
  | some r =>
    let x := r.sendOf st
    match x.unacked.find? (fun p => p.seq = seq) with
    | none => s
    | some p =>
      let hd := s.header r 1 true st x.plane seq
      let p' : LsPkt := { p with retransmit := true, plane := x.plane, ackSeq := hd.ackSeq, credit := hd.credit }
      let s := s.updRing h (fun r => r.setSend st { x with unacked := mapIf (fun q => q.seq = seq) (fun _ => p') x.unacked })
      let s := match s.lportOf x.plane with
        | some l => s.countPort l 7 1
        | none => s
      s.sendPkt h true p'

/-! ### Chunks (R462, R463, R464) -/

/-- Units in one chunk at most: C. -/
def chunkMax (units members : Nat) : Nat := ceilDiv units members

/-- Units of chunk `c`. -/
def chunkLen (units members c : Nat) : Nat := min units ((c + 1) * chunkMax units members) - min units (c * chunkMax units members)

/-- Blocks that an operation moves as its units: LB32 blocks, or RAW blocks of 96 bytes. -/
def RingOp.blocks (op : RingOp) : Nat := if op.cop = 1 then op.units else ceilDiv op.units 96

/-- The hop at which a chunk of the first pass stands at this member (R462). -/
def Ring.hop (r : Ring) (c : Nat) : Nat := (r.index + 2 * r.members - c - 1) % r.members

/-- The chunk that this member starts (R462). -/
def Ring.ownStart (r : Ring) : Nat := (r.index + r.members - 1) % r.members

/-- A RAW block of 96 bytes of data (R455, R459). -/
def rawBlock (bs : Bytes) : Lb32 :=
  let e := (List.range 32).map (fun i => signedOf 24 (field bs (3 * i) 3))
  ⟨e, 0, false, true, lbResidue e⟩

/-- The 96 bytes that a RAW block carries. -/
def rawBytes (b : Lb32) : Bytes := b.e.flatMap (fun x => leBytes 3 (codeOf 24 x))

/-- m of one block of 32 F32 elements (R458). -/
def scaleMax (bs : Bytes) : Nat :=
  (List.range 32).foldl (fun m i =>
    let e := bits (field bs (4 * i) 4) 23 8
    if e = 255 || m = 255 then 255 else max m e) 0

/-- The headroom of R458: 0 means 8. -/
def headroomOf (h : Nat) : Nat := if h = 0 then 8 else h

/-- The view of an operand of the operation's step. -/
def State.opView (s : State) (op : RingOp) (idx : Nat) : Option View :=
  match s.run? op.id with
  | none => none
  | some r => s.operand r op.flat idx

/-- The local block at a unit of the first pass: SRC's LB32 block, or a RAW block of scale maxima (R459, R463). -/
def State.localBlock (s : State) (p : Nat) (op : RingOp) (v : View) (u : Nat) : Lb32 :=
  if op.cop = 1 then lbOfBytes (s.viewRd p op.id v 0 (100 * u) 100)
  else
    let n := min 96 (op.units - 96 * u)
    rawBlock (padTo 96 ((List.range n).map (fun j => BitVec.ofNat 8 (scaleMax (s.viewRd p op.id v 0 (128 * (96 * u + j)) 128)))))

/-- RAW block `u` of SRC in ALL_GATHER (R464). -/
def State.shardBlock (s : State) (p : Nat) (op : RingOp) (v : View) (u : Nat) : Lb32 :=
  let n := min 96 (op.units - 96 * u)
  rawBlock (padTo 96 (s.viewRd p op.id v 0 (96 * u) n))

/-! ### The link adder (R468) -/

/-- What a link adder answers: a failed check, or the combined block and whether it was rescaled. -/
inductive AddResult where
  | failed (residue : Bool)
  | sum (b : Lb32) (rescaled : Bool)
  deriving DecidableEq, Repr

/-- The pseudocode add_hop (R468): `i` arriving, `l` local, at hop `h` with agreed exponent `a`. -/
def addHop (i l : Lb32) (h a : Nat) : AddResult :=
  if lbResidue i.e ≠ i.residue || lbResidue l.e ≠ l.residue then .failed true
  else if l.exp ≠ a || l.raw != i.raw then .failed false
  else if i.exp ≠ 255 && !(decide (a ≤ i.exp) && decide (i.exp + 1 ≤ a + h)) then .failed false
  else if i.exp = 255 || l.exp = 255 then .sum (lbNan i.rescaled i.raw) false
  else
    let le := if l.exp < i.exp then l.e.map (fun x => rneShift x (i.exp - l.exp)) else l.e
    let lr := if l.exp < i.exp then lbResidue le else l.residue
    let se := (i.e.zip le).map (fun x => x.1 + x.2)
    if lbResidue se ≠ (i.residue + lr) % 65521 then .failed true
    else if se.any (fun x => decide (x < -8388608) || decide (8388607 < x)) then
      if i.exp + 1 = 255 then .sum (lbNan true i.raw) true
      else
        let he := se.map (fun x => rneShift x 1)
        .sum ⟨he, i.exp + 1, true, i.raw, lbResidue he⟩ true
    else .sum ⟨se, i.exp, i.rescaled, i.raw, lbResidue se⟩ false

/-- The maximum hop of SCALE_AGREE: byte by byte, with both residues checked (R459). -/
def maxHop (i l : Lb32) : AddResult :=
  if lbResidue i.e ≠ i.residue || lbResidue l.e ≠ l.residue then .failed true
  else .sum (rawBlock (((rawBytes i).zip (rawBytes l)).map (fun x => if x.1.toNat < x.2.toNat then x.2 else x.1))) false

/-! ### Writing DST (R458, R461, R463, R464, R473) -/

/-- The bytes of one reduced block as DST holds it: as it is, or 32 F32 elements (R461), with what their conversion raised (R65, R68). -/
def dstBlock (fmt : Nat) (b : Lb32) : Bytes × Ev :=
  if fmt = 0x11 then (lbBytes b, {})
  else if b.exp = 255 then (b.e.flatMap (fun _ => leBytes 4 0x7FC00000), {})
  else
    let each := b.e.map (fun x => toF32 rndRne (lbValue x b.exp) 0)
    (each.flatMap (fun x => leBytes 4 x.1.toNat), (each.map (·.2)).foldl Ev.add {})

/-- A write of a collective operation through a view: the checkers see what its first write to a page reads (R217). -/
def State.ringPut (s : State) (p : Nat) (id : CmdId) (v : View) (k off : Nat) (bs : Bytes) : State :=
  (s.lookPages id v k off bs.length).viewPut p id v k off bs

/-- Writes a segment's reduced blocks to DST from block `b0` on, and counts what their conversion raises. -/
def State.putBlocks (s : State) (p : Nat) (id : CmdId) (v : View) (b0 : Nat) (bs : List Lb32) : State :=
  let w := if v.desc.format = 0x11 then 100 else 128
  let out := bs.map (dstBlock v.desc.format)
  let s := s.updRun id (fun x => { x with saturations := x.saturations + (out.map (fun o => o.2.sats)).sum })
  s.ringPut p id v 0 (w * b0) (out.flatMap (·.1))

/-- DST of SCALE_AGREE for the blocks that RAW block `u` covers (R458). -/
def State.writeScale (s : State) (p : Nat) (op : RingOp) (v : View) (u : Nat) (b : Lb32) : State :=
  let n := min 96 (op.units - 96 * u)
  let h := headroomOf op.headroom
  let out := ((rawBytes b).take n).flatMap (fun g => [BitVec.ofNat 8 (if g.toNat = 255 then 255 else min (g.toNat + h) 254), BitVec.ofNat 8 h])
  s.ringPut p op.id v 0 (192 * u) out

/-- Zero elements in the positions of DST beyond this member's chunk (R463). -/
def State.padDst (s : State) (p : Nat) (r : Ring) (op : RingOp) (v : View) : State :=
  let n := chunkLen op.units r.members r.index
  let w := if v.desc.format = 0x11 then 100 else 128
  s.ringPut p op.id v 0 (w * n) (zeros (w * (chunkMax op.units r.members - n)))

/-! ### Failures (R470 to R474) -/

/-- Fails a ring's running step with a status and raises the ABORT (R470). -/
def State.failOp (s : State) (h : Nat) (st : Status) (detail : Nat) : State :=
  match (s.ring? h).bind (·.current) with
  | none => s
  | some op => s.failRun op.id st detail

/-- Fails a ring's running step without raising anything: a neighbour has told of the failure, or the ring is broken. -/
def State.dropOp (s : State) (h : Nat) (st : Status) (detail aborts : Nat) : State :=
  match (s.ring? h).bind (·.current) with
  | none => s
  | some op =>
    let s := s.updRing h (fun r => let x := r.endOp op false; { x with aborts := x.aborts + aborts })
    s.failRun op.id st detail

/-- Marks a ring BROKEN, with the member that found the break, and fails its running step (R472). -/
def State.breakRing (s : State) (h origin : Nat) : State :=
  (s.updRing h (fun r => { r with isBroken := true, brokenBy := origin })).dropOp h .ringBroken origin 0

/-- A member finds a neighbour unreachable on every plane (R443, R472): BROKEN goes toward its other neighbour. -/
def State.foundBreak (s : State) (h : Nat) (succ : Bool) : State :=
  match s.ring? h with
  | none => s
  | some r =>
    if r.isBroken then s
    else
      let s := s.breakRing h r.index
      if r.two then s
      else (s.updRing h (fun r => { r with seen := r.seen ++ [(4, 0, true), (4, 0, false)] })).raiseCtl h (r.ctl 4 0 (Status.ringBroken).code r.index) (!succ)

/-! ### Plane failover (R440 to R443) -/

/-- The stripes whose traffic toward the predecessor travelled on a failed plane move (R441). -/
def Ring.moveAcks (r : Ring) (plane : Nat) : Ring :=
  let hit := (List.range r.planeList.length).filter (fun st => r.stripePlane false st = plane)
  { r with back := r.back.filter (fun b => b.1 ∉ hit) ++ hit.map (fun st => (st, r.movedTo false st)) }

/-- A plane has failed toward a neighbour: its stripes move and their unacknowledged segments go again (R441). -/
def State.failPlane (s : State) (h plane : Nat) (succ : Bool) : State :=
  match s.ring? h with
  | none => s
  | some r =>
    if r.forming.isSome || plane ∉ r.planeList || r.isDown succ plane then s
    else
      let mark (x : Ring) : Ring :=
        { x with downSucc := if succ || r.two then x.downSucc ++ [(plane, 0)] else x.downSucc
                 downPred := if !succ || r.two then x.downPred ++ [(plane, 0)] else x.downPred
                 probing := x.probing.filter (fun q => q ≠ (plane, succ)) }
      let s := s.updRing h mark
      let s := match s.lportOf plane with
        | some l => s.countPort l 8 1
        | none => s
      let s := if !succ || r.two then s.updRing h (fun x => x.moveAcks plane) else s
      match s.ring? h with
      | none => s
      | some r =>
        if (r.live succ).isEmpty then s.foundBreak h succ
        else if succ || r.two then
          let moved := (List.range r.planeList.length).filter (fun st => (r.sendOf st).plane = plane)
          moved.foldl (fun s st =>
            let s := s.updRing h (fun x => x.setSend st { x.sendOf st with plane := x.movedTo true st })
            ((r.sendOf st).unacked.map (·.seq)).foldl (fun s q => s.resend h st q) s) s
        else s

/-- The stripes whose own plane has returned move back at the start of a collective command (R442). -/
def Ring.moveBack (r : Ring) : Ring :=
  (List.range r.planeList.length).foldl (fun x st =>
    let own := x.planeList.getD st 0
    if x.isDown true own then x else x.setSend st { x.sendOf st with plane := own })
    { r with back := r.back.filter (fun b => r.isDown false (r.planeList.getD b.1 0)) }

/-! ### Completion (R467) -/

/-- Blocks that must arrive in the first pass and in the second pass or gathering. -/
def Ring.owed (r : Ring) (op : RingOp) : Nat × Nat :=
  let n := op.blocks
  match op.cop with
  | 2 => (0, (r.members - 1) * n)
  | 1 => (n - chunkLen n r.members r.ownStart, 0)
  | _ => (n - chunkLen n r.members r.ownStart, n - chunkLen n r.members r.index)

/-- Whether every segment that a member has sent is acknowledged. -/
def Ring.allAcked (r : Ring) : Bool := r.send.all (fun x => x.2.unacked.isEmpty && x.2.queued.isEmpty)

/-- A step of a core has completed. -/
def State.stepDone (s : State) (id : CmdId) (flat idx : Nat) : State :=
  s.updRun id (fun r => { r with cores := mapIf (fun c => c.flat = flat) (fun c => { c with inflight := c.inflight.filter (· ≠ idx), undo := c.undo.filter (fun u => u.1 ≠ idx) }) r.cores })

/-- Completes the operation of a ring when it has written every unit it owes and every segment it sent is acknowledged (R467). -/
def State.settleOp (s : State) (h : Nat) : State :=
  match s.ring? h with
  | none => s
  | some r =>
    match r.current with
    | none => s
    | some op =>
      let o := r.owed op
      if op.startSeen && op.first.length = o.1 && op.second.length = o.2 && r.allAcked then
        let s := match op.cop, s.opView op op.dst with
          | 1, some v => s.padDst r.part r op v
          | _, _ => s
        (s.updRing h (fun x => x.endOp op true)).stepDone op.id op.flat op.stepIdx
      else s

/-! ### Taking segments -/

/-- Notes handled blocks of a segment. -/
def State.noteBlocks (s : State) (h : Nat) (isFirst : Bool) (chunk block n : Nat) : State :=
  let ks := (List.range n).map (fun i => (chunk, block + i))
  let upd (op : RingOp) : RingOp := if isFirst then { op with first := op.first ++ ks } else { op with second := op.second ++ ks }
  s.updRing h (fun r => { r with current := r.current.map upd })

/-- Whether a segment belongs to the adding pass of the running operation: SCALE_AGREE's second copy of a chunk is its gathering. -/
def Ring.adds (r : Ring) (op : RingOp) (p : LsPkt) : Bool :=
  match op.cop with
  | 1 => true
  | 2 => false
  | _ => decide (p.chunk ≠ r.ownStart) && (p.chunk, p.block) ∉ op.first

/-- Takes a gathered segment (R459 second pass, R464): residues checked on arrival (R469), written, forwarded unless the successor is
the member that it came from first. -/
def State.takeGather (s : State) (h : Nat) (p : LsPkt) : State :=
  match s.ring? h with
  | none => s
  | some r =>
    match r.current with
    | none => s
    | some op =>
      match s.opView op op.dst with
      | none => s
      | some v =>
        if p.blocks.any (fun b => lbResidue b.e ≠ b.residue) then
          (s.updRing h (fun x => { x with residueFailures := x.residueFailures + 1 })).failOp h .reductionCheck
            ((r.index + r.members - p.chunk) % r.members)
        else
          let s := p.blocks.zipIdx.foldl (fun s b =>
            let u := p.block + b.2
            if op.cop = 2 then s.ringPut r.part op.id v 0 (p.chunk * op.units + 96 * u) ((rawBytes b.1).take (min 96 (op.units - 96 * u)))
            else s.writeScale r.part op v (p.chunk * chunkMax op.blocks r.members + u) b.1) s
          let s := s.noteBlocks h false p.chunk p.block p.blocks.length
          let s := if r.succ = p.chunk then s else (s.sendNext h p.chunk p.block p.blocks).pumpAll h
          s.settleOp h

/-- The sums of a segment at a hop: the first failed check, or the blocks with the number of rescales. -/
def State.addAll (s : State) (r : Ring) (op : RingOp) (v : View) (p : LsPkt) : Except Bool (List Lb32 × Nat) :=
  p.blocks.zipIdx.foldlM (fun acc b =>
    let l := s.localBlock r.part op v (p.chunk * chunkMax op.blocks r.members + p.block + b.2)
    match (if op.cop = 1 then addHop b.1 l (r.hop p.chunk) l.exp else maxHop b.1 l) with
    | .failed res => .error res
    | .sum x resc => .ok (acc.1 ++ [x], acc.2 + (if resc then 1 else 0))) ([], 0)

/-! ### Failing runs (R222, R304, R501) -/

/-- The status of a command that meets poison: WEIGHTS_UNREADABLE while a weight of a bound model that an invocation has bound is POISONED (R304). -/
def State.poisonStatus (s : State) (id : CmdId) : Status × Nat :=
  match s.invocations.find? (fun i => i.id = id) with
  | some i =>
    if (s.boundInputs id).any (fun h => s.isWeight h && ((s.tensor? h).map (fun t => t.desc.state == 3)).getD false) then (.weightsUnreadable, i.stage)
    else (.dataPoisoned, 0)
  | none => (.dataPoisoned, 0)

/-- A run that consumes poison fails (R222); the event counts as POISON_CONSUMED. -/
def State.consumed (s : State) (id : CmdId) (tier : Nat) : State :=
  let (st, d) := s.poisonStatus id
  (s.integrity tier clsConsumed).failRun id st d

/-- A collective's reads of `n` bytes at `off` of its SRC: what the checkers find comes first (R217, R222), then poison and host data that
arrived bad fail the run (R222, R226). True where the data is good and the step goes on. -/
def State.ringRead (s : State) (p : Nat) (id : CmdId) (v : View) (off n : Nat) : State × Bool :=
  let spans := (pagePieces (n / 16384 + 2) off n).map (fun x => (s.pageBase id v 0 (x.1 / 16384) + x.1, x.2))
  let s := spans.foldl (fun s x => s.look x.1 x.2) s
  if (s.run? id).isNone then (s, false)
  else if spans.any (fun x => s.hwinBad p x.1 x.2) then (s.failRun id .dataPoisoned 0, false)
  else
    match spans.find? (fun x => s.poisoned x.1 x.2) with
    | some x => (s.consumed id (if x.1 < 0x80000000 then 0 else 4), false)
    | none => (s, true)

/-- The bytes of SRC that stand behind `n` blocks from block `u` of an operation: the blocks of a reduction, or the elements that a RAW block of
SCALE_AGREE takes its maxima from. -/
def RingOp.srcBytes (op : RingOp) (u n : Nat) : Nat × Nat :=
  if op.cop = 1 then (100 * u, 100 * n) else (128 * 96 * u, 128 * (min op.units (96 * (u + n)) - 96 * u))

/-- Takes a segment of an adding pass (R463, R468): the sums go on to the successor, or at the last hop are written. -/
def State.takeAdd (s : State) (h : Nat) (p : LsPkt) : State :=
  match s.ring? h with
  | none => s
  | some r =>
    match r.current with
    | none => s
    | some op =>
      match s.opView op op.src, s.opView op op.dst with
      | some sv, some dv =>
        let m := op.srcBytes (p.chunk * chunkMax op.blocks r.members + p.block) p.blocks.length
        let (s, good) := s.ringRead r.part op.id sv m.1 m.2
        if !good then s else
        match s.addAll r op sv p with
        | .error res =>
          (s.updRing h (fun x => { x with residueFailures := x.residueFailures + (if res then 1 else 0) })).failOp h .reductionCheck (r.hop p.chunk)
        | .ok (bs, resc) =>
          let s := s.chargeCmd op.id 11 p.blocks.length
          let s := s.updRing h (fun x => { x with rescales := capAt max64 (x.rescales + resc) })
          let s := s.updRun op.id (fun x => { x with rescales := x.rescales + resc })
          let s := s.noteBlocks h true p.chunk p.block p.blocks.length
          let last := decide (r.hop p.chunk = r.members - 1)
          let s :=
            if !last then (s.sendNext h p.chunk p.block bs).pumpAll h
            else if op.cop = 1 then
              s.putBlocks r.part op.id dv p.block bs
            else
              let s := bs.zipIdx.foldl (fun s b => s.writeScale r.part op dv (p.chunk * chunkMax op.blocks r.members + p.block + b.2) b.1) s
              (s.sendNext h p.chunk p.block bs).pumpAll h
          s.settleOp h
      | _, _ => s

/-- Takes a staged segment out of its buffer. -/
def State.unstagePkt (s : State) (h st seq : Nat) : State :=
  s.updRing h (fun r => r.setRecv st { r.recvOf st with staged := (r.recvOf st).staged.filter (fun p => p.seq ≠ seq) })

/-- Takes every staged segment that needs no adder, once the operation runs and its START has been compared. -/
def State.drainGather (h : Nat) : Nat → State → State
  | 0, s => s
  | fuel + 1, s =>
    match s.ring? h with
    | none => s
    | some r =>
      match r.current with
      | none => s
      | some op =>
        if !op.startSeen then s
        else
          match r.recv.findSome? (fun x => (x.2.staged.find? (fun p => !r.adds op p)).map (fun p => (x.1, p))) with
          | none => s
          | some (st, p) => State.drainGather h fuel ((s.unstagePkt h st p.seq).takeGather h p)

/-- Segments staged on a ring. -/
def Ring.stagedCount (r : Ring) : Nat := (r.recv.map (fun x => x.2.staged.length)).sum

def State.drain (s : State) (h : Nat) : State :=
  match s.ring? h with
  | none => s
  | some r => State.drainGather h (r.stagedCount + 1) s

/-! ### START (R453) and the start of an operation -/

/-- The START payload of an operation. -/
def Ring.startCtl (r : Ring) (op : RingOp) : Ctl :=
  { r.ctl 2 op.op 0 0 with cop := op.cop, headroom := headroomOf op.headroom, units := op.units }

/-- Compares the predecessor's START with the step's own (R453): a difference fails the step. -/
def State.compareStart (s : State) (h : Nat) (c : Ctl) : State :=
  match s.ring? h with
  | none => s
  | some r =>
    match r.current with
    | none => s
    | some op =>
      if c.cop = op.cop && c.headroom = headroomOf op.headroom && c.units = op.units then
        let seenStart (o : RingOp) : RingOp := { o with startSeen := true }
        let s := s.updRing h (fun r => { r with current := r.current.map seenStart })
        let s := if r.two then s else s.sendCtl h (r.startCtl op) false false
        (s.drain h).settleOp h
      else s.failOp h .ringMismatch r.pred

/-- Moves the stripes back where a COLLECTIVE step is the first of its command on the ring, and no other collective command on it is under way (R442). -/
def State.moveBackFor (s : State) (h : Nat) (id : CmdId) : State :=
  let me := (s.outst? id).map (·.serial)
  let others := s.runs.any (fun x => x.id ≠ id && x.img.hasCollective && decide (h ∈ x.rings))
  s.updRing h (fun r => if r.movedFor = me && me.isSome then r else { (if others then r else r.moveBack) with movedFor := me })

/-- Starts a COLLECTIVE step on a ring that runs no other (R451, R453, R459, R463, R464). -/
def State.startOp (s : State) (h : Nat) (op : RingOp) : State :=
  match s.ring? h with
  | none => s
  | some r =>
    if r.isBroken then s.failRun op.id .ringBroken r.brokenBy
    else
      match r.doomed.find? (fun d => d.1 = r.nextOp) with
      | some d =>
        let s := s.updRing h (fun x => { x with nextOp := x.nextOp + 1, aborts := x.aborts + 1, doomed := x.doomed.filter (fun e => e.1 ≠ d.1) })
        s.failRun op.id .ringAborted d.2.1
      | none =>
        let op := { op with op := r.nextOp, startSeen := false, first := [], second := [], segments := 0 }
        let s := (s.moveBackFor h op.id).updRing h (fun x => { x with current := some op })
        match s.opView op op.src, s.opView op op.dst with
        | some sv, some dv =>
          let (s, good) := s.ringRead r.part op.id sv 0 sv.desc.arrayBytes
          if !good then s
          else
            let s := s.raiseCtl h (r.startCtl op) true
            let n := op.blocks
            let s :=
              if op.cop = 2 then
                let s := s.ringPut r.part op.id dv 0 (r.index * op.units) (s.viewRd r.part op.id sv 0 0 op.units)
                s.sendChunk h r.index ((List.range n).map (s.shardBlock r.part op sv))
              else
                s.sendChunk h r.ownStart ((List.range (chunkLen n r.members r.ownStart)).map (fun b =>
                  s.localBlock r.part op sv (r.ownStart * chunkMax n r.members + b)))
            match r.earlyStart with
            | some c => if c.op = op.op then (s.updRing h (fun x => { x with earlyStart := none })).compareStart h c else s.settleOp h
            | none => s.settleOp h
        | _, _ => s

end Sys2Proof.Machine
end

