-- ==== Sys2Proof/Machine/Storage.lean ====
section
/-!
DEFINITION. Storage commands (group 0x2): blocks, namespaces and objects (chapter *Flash store*).
-/
namespace Sys2Proof.Machine

open Sys2Proof

/-- Stages with a namespace in TARGET. -/
def Stage.hasTarget (st : Stage) : Bool := st.kind == 3 || st.kind == 8 || st.kind == 9 || st.kind == 0xA

/-- The namespaces that an accord's stages name (R284). -/
def Accord.namespaces (a : Accord) : List Nat := (a.stages.filter Stage.hasTarget).map (·.target)

/-- The namespace that a packet command names. -/
def namesNs : Instr → Option Nat
  | .blockRead _ ns .. => some ns
  | .blockWrite _ ns .. => some ns
  | .blockTrim _ ns .. => some ns
  | .nsCreate _ ns .. => some ns
  | .nsDestroy _ ns => some ns
  | .objCreate _ ns .. => some ns
  | .objWrite _ ns .. => some ns
  | .objRead _ ns .. => some ns
  | .objDelete _ ns .. => some ns
  | .idxCreate _ ns => some ns
  | .idxQuery _ ns .. => some ns
  | .idxInsert _ ns => some ns
  | .idxDelete _ ns _ => some ns
  | .idxMerge _ ns _ => some ns
  | .idxInfo _ ns => some ns
  | .idxDestroy _ ns => some ns
  | _ => none

/-- Whether a command names a namespace (R321): by its NSID, or an ACCORD_RUN by its accord's stages. -/
def State.cmdNames (s : State) (ns : Nat) (c : Instr) : Bool :=
  match c with
  | .accordRun _ acc _ _ => s.accords.any (fun a => a.handle = acc && a.namespaces.contains ns)
  | c => namesNs c == some ns

/-- Whether a namespace is encrypted. -/
def State.encrypted (s : State) (ns : Nat) : Bool := ((s.ns? ns).map (·.encrypt)).getD false

/-- Whether a protection level is being lowered (R566, R567). -/
def CflSt.isLowering (c : CflSt) : Bool := c.lowering.isSome || c.lowerCmd.isSome

/-- Whether a command on a namespace is held while a protection level is lowered (R566). -/
def State.nsHeld (s : State) (ns : Nat) : Bool := s.cfl.isLowering && s.encrypted ns

/-- Starts a command that names a namespace, unless R566 holds it. -/
def State.startNs (s : State) (id : CmdId) (ns : Nat) (c : Instr) (body : State → Outst → Chk (State × Done)) : State :=
  if s.nsHeld ns then s else s.startCmd id c body

/-- The partition of an I/O queue. -/
def ioPart (o : Outst) : Nat := (qPart o.id.queue).getD 0

/-- Whether a namespace's key cannot be read (R584), or has been erased while a protection level is lowered (R566). -/
def Ns.keyGone (x : Ns) : Bool := x.encrypt && x.keyLost

/-- The identifier checks of a namespace (R319, R528): its owner and its existence. -/
def State.nsIdent (s : State) (o : Outst) (n : Nat) : Chk Ns := do
  need (s.nsOwner n == some (ioPart o)) .resourceAbsent 0x08
  match s.ns? n with
  | none => failWith .notFound 0
  | some x => .ok x

/-- No debug access since the package reset, for an encrypted namespace (R588). -/
def State.nsUnlocked (s : State) (x : Ns) : Chk Unit := need (!(x.encrypt && s.sec.debugOpened)) .protectionDenied s.cfl.protLevel

/-- The checks of a command that names a namespace and none of its data. -/
def State.nsNamed (s : State) (o : Outst) (n : Nat) : Chk Ns := do
  let x ← s.nsIdent o n
  s.nsUnlocked x
  .ok x

/-- What a command that reads or writes a namespace checks of it after the buffer lengths (R529): no debug access (R588), its key, without which it completes
with DATA_POISONED (R584), and its type (R35). -/
def State.nsIs (s : State) (x : Ns) (t : Nat) : Chk Unit := do
  s.nsUnlocked x
  need (!x.keyGone) .dataPoisoned 0
  need (x.type == t) .namespaceTypeMismatch x.nsid

/-- A block range within the namespace's capacity. -/
def Ns.rangeOk (x : Ns) (lba count : Nat) : Chk Unit := do
  need (decide (lba < x.capacity)) .rangeExceeded 0x0C
  need (decide (lba + count ≤ x.capacity)) .rangeExceeded 0x14

/-- BLOCK_READ (R333). -/
def execBlockRead (id : CmdId) (ns lba count : Nat) (s : State) : Res :=
  .next (s.startNs id ns (.blockRead id ns lba count) (fun s o => do
    inRange (decide (ns < 64)) 0x08
    inRange (decide (1 ≤ count) && decide (count ≤ 65536)) 0x14
    let x ← s.nsIdent o ns
    needRbuf o (4096 * count)
    s.nsIs x 0
    x.rangeOk lba count
    let bs ← s.readBlocks ns lba count
    okResult ((s.noteReads ns lba count).chargeBytes id 14 (s.readTraffic ns lba count)) bs))

/-- Whether the write buffer has room for a run's slots on their home dies (R327). -/
def State.roomFor (s : State) (us : List (Nat × Nat)) : Bool :=
  us.all (fun u => s.slotRoom (s.unitDie u.1) ((us.filter (fun w => s.unitDie w.1 = s.unitDie u.1)).length))

/-- Whether a command adds dirty data while dirty data is held down to a lowered ceiling (R33). -/
def State.writesHeld (s : State) : Bool := !s.cfg.waitingCeiling.isEmpty

/-- BLOCK_WRITE: data into uncommitted slots; COMMAND_COMMIT publishes them (R327). -/
def execBlockWrite (id : CmdId) (ns lba count : Nat) (s : State) : Res :=
  .next (s.startNs id ns (.blockWrite id ns lba count) (fun s o => do
    noHold o
    inRange (decide (ns < 64)) 0x08
    inRange (decide (1 ≤ count) && decide (count ≤ 65536)) 0x14
    let x ← s.nsIdent o ns
    needIbuf o (4096 * count)
    s.nsIs x 0
    x.rangeOk lba count
    need (!s.flash.readOnly) .mediaReadOnly 0
    s.dirtyFits (unitsOf lba count).length
    if s.writesHeld || !s.roomFor (unitsOf lba count) then .ok (s, .waits)
    else do
      let (s, bs) ← s.takeIbuf o (4096 * count)
      .ok (s.writeBlocks id ns lba count bs, .runs 0)))

/-- Puts a trim of a block run among a command's changes: whole units unmapped, parts written as zeros (R331). -/
def State.trimRun (s : State) (id : CmdId) (ns lba count : Nat) : State :=
  (unitsOf lba count).foldl (fun s u => if u.2 = 15 then s.addPend id (.unmap ns u.1) else s.addSlot id ns u.1 u.2 (zeros 16384)) s

/-- The units of a run that are covered only in part. -/
def partialUnits (lba count : Nat) : List (Nat × Nat) := (unitsOf lba count).filter (fun u => u.2 ≠ 15)

/-- BLOCK_TRIM (R331). -/
def execBlockTrim (id : CmdId) (ns lba count : Nat) (s : State) : Res :=
  .next (s.startNs id ns (.blockTrim id ns lba count) (fun s o => do
    noHold o
    inRange (decide (ns < 64)) 0x08
    inRange (decide (1 ≤ count) && decide (count ≤ 65536)) 0x14
    let x ← s.nsIdent o ns
    s.nsIs x 0
    x.rangeOk lba count
    s.dirtyFits (partialUnits lba count).length
    if !s.roomFor (partialUnits lba count) then .ok (s, .waits) else .ok (s.trimRun id ns lba count, .runs 0)))

/-- STORE_FLUSH: completes when every slot committed by now has been programmed (R329); it acts for the whole package. -/
def execStoreFlush (id : CmdId) (s : State) : Res :=
  .next (s.startCmd id (.storeFlush id) (fun s o => do
    noHold o
    let wait := s.flash.slots.filter (fun x => x.seq.isSome)
    if wait.isEmpty then okDone s else .ok (wait.foldl (fun s x => s.addPend id (.slot x.sid)) s, .runs 0)))

/-! ### Namespaces -/

/-- NS_CREATE (R317, R318, R582): an encrypted namespace takes a fresh key, whose wrapped form its key slot holds. -/
def execNsCreate (id : CmdId) (ns type op encrypt capacity objects : Nat) (s : State) : Res :=
  .next (s.startNs id ns (.nsCreate id ns type op encrypt capacity objects) (fun s o => do
    noHold o
    let nsIn (c : Bool) (off : Nat) : Chk Unit := need c .nsParamInvalid off
    nsIn (decide (ns < 64)) 0x08
    nsIn (decide (type ≤ 2)) 0x09
    nsIn (op == 0 || (decide (7 ≤ op) && decide (op ≤ 50))) 0x0A
    nsIn (decide (encrypt ≤ 1)) 0x0B
    nsIn (decide (4 ≤ capacity) && capacity % 4 == 0) 0x0C
    nsIn (if type = 1 then decide (1 ≤ objects) && decide (objects ≤ capacity / 2) else objects == 0) 0x14
    need (s.nsOwner ns == some (ioPart o)) .resourceAbsent 0x08
    need (s.ns? ns).isNone .idInUse 0
    let op := if op = 0 then 12 else op
    need (decide (s.flash.allocated + nsTakes capacity op ≤ s.flash.dataCapacity)) .resourceExhausted 0xFFFF
    let key := if encrypt = 1 then s.sec.drbg + 1 else 0
    let x : Ns := { nsid := ns, type := type, capacity := capacity, op := op, encrypt := decide (encrypt = 1), objects := objects, keyGen := key, keyLost := false }
    okDone { s with
      flash := { s.flash with ns := s.flash.ns ++ [x] }
      sec := { s.sec with drbg := s.sec.drbg + encrypt, keySlots := if encrypt = 1 then setAt ns key s.sec.keySlots else s.sec.keySlots
                          keyGens := setAt ns (s.sec.keyGens.getD ns 0 + encrypt) s.sec.keyGens } }))

/-- Whether an index has a query pending or a merge running (R321, R533). -/
def State.indexBusy (s : State) (ns : Nat) : Bool :=
  s.queries.any (fun q => q.ns = ns) || s.invocations.any (fun i => (i.snap.map (·.1)) = some ns) || ((s.index? ns).map (fun i => i.merge.isSome)).getD false

/-- Unmaps every unit of a namespace in one commit, with its objects and its index (R321, R533, R566). -/
def State.emptyNs (s : State) (ns seq : Nat) : State :=
  let units := (s.flash.map.filter (fun e => e.1.1 = ns)).map (fun e => e.1.2)
  let s := (units.foldl (fun s u => s.unmapUnit seq ns u) s).settleGroups
  ({ s with flash := { s.flash with objs := s.flash.objs.filter (fun x => x.ns ≠ ns) }
            indexes := s.indexes.filter (fun i => i.ns ≠ ns) }).sweep.poolAlone

/-- NS_DESTROY (R321). -/
def execNsDestroy (id : CmdId) (ns : Nat) (s : State) : Res :=
  .next (s.startNs id ns (.nsDestroy id ns) (fun s o => do
    noHold o
    inRange (decide (ns < 64)) 0x08
    let x ← s.nsNamed o ns
    need (!s.host.outst.any (fun y => y.id ≠ id && y.phase != .posted && s.cmdNames ns y.cmd) && !s.indexBusy ns) .resourceBusy 0
    let (s, seq) := s.takeSeq
    let s := s.emptyNs ns seq
    okDone ({ s with
      flash := { s.flash with ns := s.flash.ns.filter (fun y => y.nsid ≠ ns) }
      sec := { s.sec with keySlots := if x.encrypt then setAt ns 0 s.sec.keySlots else s.sec.keySlots } }.spareEvents.settleFlush.settleCeiling)))

/-! ### Objects -/

/-- The 16 bytes of an object-table entry (R322). -/
def Obj.entryBytes (o : Obj) : Bytes :=
  leBytes 5 o.first ++ leBytes 5 o.length ++ leBytes 1 (if o.redundant then 3 else 1) ++ zeros 5

/-- Block `b` of a namespace's object table, from a list of objects. -/
def tableBlock (ns b : Nat) (objs : List Obj) : Bytes :=
  (List.range 256).flatMap (fun i =>
    match objs.find? (fun x => x.ns = ns && x.obj = 256 * b + i) with
    | some x => x.entryBytes
    | none => zeros 16)

/-- Objects that commands have placed and not yet published. -/
def State.pendingObjs (s : State) : List Obj :=
  s.flash.pend.flatMap (fun x => x.2.filterMap (fun p => match p with
    | .objNew o => some o
    | _ => none))

/-- Blocks of a new object's extent: nothing for an empty object. -/
def State.newExtent (s : State) (x : Ns) (ob len : Nat) (redundant : Bool) : Option Obj :=
  let o : Obj := { ns := x.nsid, obj := ob, first := 0, length := len, redundant := redundant }
  (s.objPlace x o.blocks redundant).map (fun f => { o with first := f })

/-- Whether both groups of some flash-interface die are in use (R324). -/
def FlashSt.canMirror (f : FlashSt) : Bool := (List.range 4).any (fun d => f.groupState.getD (2 * d) 0 == 1 && f.groupState.getD (2 * d + 1) 0 == 1)

/-- OBJ_CREATE (R302, R322 to R324): the object and its table entry appear at once; it waits while the flash store has no place for the entry. -/
def execObjCreate (id : CmdId) (ns flags ob len : Nat) (s : State) : Res :=
  .next (s.startNs id ns (.objCreate id ns flags ob len) (fun s o => do
    noHold o
    inRange (decide (ns < 64)) 0x08
    inRange (decide (len < 2 ^ 40)) 0x14
    let x ← s.nsIdent o ns
    s.nsIs x 1
    need (s.obj? ns ob).isNone .idInUse 0
    need (decide (ob < x.objects)) .rangeExceeded 0x0C
    need (!s.flash.readOnly) .mediaReadOnly 0
    need (!bitAt flags 0 || s.flash.canMirror) .resourceAbsent 0x09
    match ({ s with flash := { s.flash with objs := s.flash.objs ++ s.pendingObjs } }).newExtent x ob len (bitAt flags 0) with
    | none => failWith .resourceExhausted 0xFFFF
    | some n =>
      let (s, seq) := s.takeSeq
      let s := { s with flash := { s.flash with objs := s.flash.objs ++ [n] } }
      match s.writeThrough seq ns (ob / 256) 1 (tableBlock ns (ob / 256) s.flash.objs) with
      | none => .ok (s, .waits)
      | some s => okDone s.settleFlush.settleCeiling))

/-- The object that a command names (NOT_FOUND when absent). -/
def State.objIdent (s : State) (ns ob : Nat) : Chk Obj :=
  match s.obj? ns ob with
  | none => failWith .notFound 0
  | some x => .ok x

/-- The whole blocks that a write of `bs` at byte `off` of an object writes: a part block keeps its other bytes. -/
def State.objBlocks (s : State) (ob : Obj) (off : Nat) (bs : Bytes) : Chk (Nat × Bytes) := do
  let n := ceilDiv bs.length 4096
  if bs.length % 4096 = 0 then .ok (n, bs)
  else do
    let last ← s.readBlocks ob.ns (ob.first + off / 4096 + n - 1) 1
    .ok (n, bs ++ last.drop (bs.length % 4096))

/-- OBJ_WRITE (R324, R327): IBUF_LEN bytes at an offset that is a multiple of 4,096. -/
def execObjWrite (id : CmdId) (ns ob off : Nat) (s : State) : Res :=
  .next (s.startNs id ns (.objWrite id ns ob off) (fun s o => do
    noHold o
    inRange (decide (ns < 64)) 0x08
    inRange (off % 4096 == 0) 0x14
    let x ← s.nsIdent o ns
    s.nsIs x 1
    let b ← s.objIdent ns ob
    need (decide (off ≤ b.length)) .rangeExceeded 0x14
    need (decide (off + o.ibufLen ≤ b.length)) .rangeExceeded 0x28
    need (!s.flash.readOnly) .mediaReadOnly 0
    let us := unitsOf (b.first + off / 4096) (ceilDiv o.ibufLen 4096)
    s.dirtyFits us.length
    if s.writesHeld || !s.roomFor us then .ok (s, .waits)
    else do
      let (s, bs) ← s.takeIbuf o o.ibufLen
      let (n, data) ← s.objBlocks b off bs
      let s := if bs.length % 4096 = 0 then s else s.noteReads ns (b.first + off / 4096 + n - 1) 1
      .ok (s.writeBlocks id ns (b.first + off / 4096) n data, .runs 0)))

/-- OBJ_READ (R324, R333). -/
def execObjRead (id : CmdId) (ns ob off len : Nat) (s : State) : Res :=
  .next (s.startNs id ns (.objRead id ns ob off len) (fun s o => do
    inRange (decide (ns < 64)) 0x08
    let x ← s.nsIdent o ns
    need (x.type != 1 || (s.obj? ns ob).isSome) .notFound 0
    needRbuf o len
    s.nsIs x 1
    let b ← s.objIdent ns ob
    need (decide (off ≤ b.length)) .rangeExceeded 0x14
    need (decide (off + len ≤ b.length)) .rangeExceeded 0x1C
    let bs ← s.readNsBytes ns (4096 * b.first + off) len
    let lo := b.first + off / 4096
    okResult ((s.noteBytes ns (4096 * b.first + off) len).chargeBytes id 14 (s.readTraffic ns lo (ceilDiv (off % 4096 + len) 4096))) bs))

/-- Puts the deletion of an object among a command's changes: its extent and its table entry (R324, R331). -/
def State.deleteObj (s : State) (id : CmdId) (b : Obj) : State :=
  let s := if b.blocks = 0 then s else s.trimRun id b.ns b.first b.blocks
  let s := s.writeBlocks id b.ns (b.obj / 256) 1 (tableBlock b.ns (b.obj / 256) (s.flash.objs.filter (fun x => x ≠ b)))
  s.addPend id (.objDel b.ns b.obj)

/-- OBJ_DELETE (R324, R331). -/
def execObjDelete (id : CmdId) (ns ob : Nat) (s : State) : Res :=
  .next (s.startNs id ns (.objDelete id ns ob) (fun s o => do
    noHold o
    inRange (decide (ns < 64)) 0x08
    let x ← s.nsIdent o ns
    s.nsIs x 1
    let b ← s.objIdent ns ob
    let us := partialUnits b.first b.blocks ++ unitsOf (ob / 256) 1
    s.dirtyFits us.length
    if !s.roomFor us then .ok (s, .waits) else .ok (s.deleteObj id b, .runs 0)))

end Sys2Proof.Machine
end

