-- ==== Sys2Proof/Machine/Fabric.lean ====
section
/-!
DEFINITION. Fabric commands (group 0x8), the ports' optics, and the events of Longshore (chapters *Fabric ports and optics* and
*Ring reduction*).
-/
namespace Sys2Proof.Machine

open Sys2Proof

/-! ### Ports and lasers -/

/-- Whether LASER_EN of an optical engine is driven high (R423, R445): engine in service and powered, fibre present, an enabled port whose laser input
is within limits as far as is known, no power-loss sequence. -/
def State.laserWanted (s : State) (oe : Nat) : Bool :=
  s.fabric.oePowered.getD oe false && s.fabric.fibre.getD oe false && s.dieUp oe && !s.power.flushing && !s.power.flushed &&
    decide (0xC000 + oe ∉ s.health.log.outOfService) && [2 * oe, 2 * oe + 1].any (fun p => s.portMode p != 0 && (s.lport (2 * p)).laserOk)

/-- Drives LASER_EN of an optical engine as R423 says. -/
def State.driveLaser (s : State) (oe : Nat) : State :=
  { s with fabric := { s.fabric with laserEn := setAt oe (s.laserWanted oe) s.fabric.laserEn } }

/-- A logical port goes DOWN: its plane fails on every ring that uses it (R440). One that low laser power had taken down has another reason now, and
does not come up with the laser. -/
def State.portDown (s : State) (l : Nat) : State :=
  if (s.lport l).state ≤ 1 then (if (s.lport l).dimmed then s.updLport l (fun x => { x with dimmed := false }) else s)
  else
    let plane := (s.lport l).plane
    let uses := s.fabric.rings.filter (fun r => (s.lport l).set && r.forming.isNone && decide (plane ∈ r.planeList))
    let s := uses.foldl (fun s r => (s.failPlane r.handle plane true).failPlane r.handle plane false) s
    s.updLport l (fun x => { x with state := 1 })

/-- FIBRE_UNPLUG: LASER_EN goes low within 100 µs of FIB_DET_N rising (R423); the engine's ports go DOWN (R445). -/
def execFibreUnplug (oe : Nat) (s : State) : Res :=
  .next (if oe < Variant.dies s.variant then
      let s := { s with fabric := { s.fabric with fibre := setAt oe false s.fabric.fibre } }
      [4 * oe, 4 * oe + 1, 4 * oe + 2, 4 * oe + 3].foldl State.portDown (s.driveLaser oe)
    else s)

/-- FIBRE_PLUG: FIB_DET_N falls; the lasers are lit on a powered engine with an enabled port (R423). -/
def execFibrePlug (oe : Nat) (s : State) : Res :=
  .next (if oe < Variant.dies s.variant then
      ({ s with fabric := { s.fabric with fibre := setAt oe true s.fabric.fibre } }).driveLaser oe
    else s)

/-- Minimum and maximum of the *Laser input* table, in 0.01 dBm (R422). -/
def laserMin : Int := 1600

def laserMax : Int := 2100

/-- LASER_POWER_LOW: the power on a port's laser fibre has been below the minimum for 1 ms (R424); an engine that no port feeds then has its lasers off
(R445). -/
def execLaserPowerLow (port : Nat) (power : Int) (s : State) : Res :=
  let ls := [2 * port, 2 * port + 1].filter s.lportEnabled
  .next (if ls.isEmpty || !decide (power < laserMin) || !(s.lport (2 * port)).laserOk then s
    else
      let s := [2 * port, 2 * port + 1].foldl (fun s l =>
        let lit := decide (1 < (s.lport l).state)
        (s.portDown l).updLport l (fun x => { x with laser := some power, laserOk := false, dimmed := lit })) s
      (s.driveLaser (port / 2)).raise 7 port (port % 2) .device)

/-- LASER_POWER_RESTORED: the power has stayed within limits for 100 ms (R424); the ports that it took down come up again. -/
def execLaserPowerRestored (port : Nat) (power : Int) (s : State) : Res :=
  let ls := [2 * port, 2 * port + 1].filter s.lportEnabled
  .next (if ls.isEmpty || !(decide (laserMin ≤ power) && decide (power ≤ laserMax)) || (s.lport (2 * port)).laserOk then s
    else
      let s := ([2 * port, 2 * port + 1].foldl (fun s l => s.updLport l (fun x => { x with laser := some power, laserOk := true })) s).driveLaser (port / 2)
      let up := s.fabric.laserEn.getD (port / 2) false
      [2 * port, 2 * port + 1].foldl (fun s l => s.updLport l (fun x =>
        { x with dimmed := false, state := if x.dimmed && s.lportEnabled l && up && !s.portTested (l / 2) then 3 else x.state })) s)

/-- A logical port comes UP; its MAC runs from FCLK, so that clock is there (R595, R598). -/
def State.portUp (s : State) (l : Nat) : State :=
  let s := s.updLport l (fun x => { x with state := 3 })
  { s with power := { s.power with clocks := ainsert .fclk true s.power.clocks } }

/-- FABRIC_PORT_STATE_CHANGE: a logical port goes up or down on its link (R440, R444, R445): it comes up only with light. -/
def execFabricPortStateChange (l : Nat) (up : Bool) (s : State) : Res :=
  .next (if !s.lportEnabled l then s
    else if up then
      if s.fabric.laserEn.getD (l / 4) false && (s.lport l).laserOk && !s.portTested (l / 2) then s.portUp l else s
    else s.portDown l)

/-! ### Commands (R425, R426, R446 to R450, R534 to R536) -/

/-- The logical port of a command: within the variant and on a port of the partition's FABRIC_PORT_MASK. -/
def State.lportIdent (s : State) (o : Outst) (l : Nat) : Chk Unit :=
  need (decide (l < 4 * Variant.dies s.variant) && bitAt (s.entry (ioPart o)).fabMask (l / 2)) .resourceAbsent 0x08

/-- The 48 bytes of port settings (R534), every field little-endian (R6): the addresses too are fields of 6 and 16 bytes (log 70). -/
def LPort.applySettings (x : LPort) (b : Bytes) : LPort :=
  { x with set := true, plane := field b 0 1, vlan := if bitAt (field b 1 1) 0 then some (field b 2 2) else none, dscp := field b 4 1 % 64
           mac := field b 6 6, nextHop := field b 12 6, ipv6 := field b 0x20 16 }

/-- FAB_PORT_SET (R425, R426, R534). -/
def execFabPortSet (id : CmdId) (l : Nat) (s : State) : Res :=
  .next (s.startCmd id (.fabPortSet id l) (fun s o => do
    noHold o
    s.lportIdent o l
    needIbuf o 48
    let (s, b) ← s.takeIbuf o 48
    let plane := field b 0 1
    inRange (decide (plane < 32)) 0x20
    need (!(List.range 32).any (fun k => k != l && (s.lport k).set && (s.lport k).plane == plane)) .modeConflict 0
    need (!s.fabric.rings.any (fun r => r.forming.isNone && (s.lport l).set && decide ((s.lport l).plane ∈ r.planeList))) .resourceBusy 0
    okDone (s.updLport l (fun x => x.applySettings b))))

/-- STATE of a logical port (R444). -/
def State.lportState (s : State) (l : Nat) : Nat := if s.lportEnabled l then max 1 (s.lport l).state else 0

/-- Codewords that the FEC of a port has corrected, and could not, since its counters were last read: no row tells them, so they are two free values,
which the counters take in (R444, log entry 48). -/
def State.noteFec (s : State) (l : Nat) : State :=
  let (s, good) := s.freeNat
  let (s, bad) := s.freeNat
  (s.countPort l 4 (good % 2 ^ 32)).countPort l 5 (bad % 2 ^ 32)

/-- The 128 bytes of a FAB_PORT_INFO result (R536). The laser power that no event has told is a free value (log entry 48). -/
def State.portInfo (s : State) (l : Nat) : Bytes :=
  let x := s.lport l
  let laser := match x.laser with
    | some v => codeOf 16 v
    | none => (Config.freeWord s.freeCount).toNat % 2 ^ 16
  leBytes 1 (s.lportState l) ++ leBytes 1 x.plane ++ leBytes 2 laser ++ zeros 4
    ++ (List.range 9).flatMap (fun i => leBytes 8 (x.counters.getD i 0)) ++ zeros 48

/-- FAB_PORT_INFO. -/
def execFabPortInfo (id : CmdId) (l : Nat) (s : State) : Res :=
  .next (s.startCmd id (.fabPortInfo id l) (fun s o => do
    s.lportIdent o l
    needRbuf o 128
    let s := s.noteFec l
    okResult { s with freeCount := s.freeCount + 1 } (s.portInfo l)))

/-- A ring that RING_FORM begins to form (R446, R449). -/
def newRing (h ringId epoch members index planes p : Nat) (id : CmdId) (preds succs : List (Nat × Nat)) : Ring :=
  { handle := h, ringId := ringId, epoch := epoch, members := members, index := index, planes := planes, part := p, forming := some id
    helloPred := [], helloSucc := [], isBroken := false, brokenBy := 0, nextOp := 0, operations := 0, rescales := 0, residueFailures := 0, aborts := 0
    downPred := [], downSucc := [], probing := [], back := [], predAddr := preds, succAddr := succs
    send := (maskList 32 planes).zipIdx.map (fun x => (x.2, SendStripe.fresh x.1))
    recv := (maskList 32 planes).zipIdx.map (fun x => (x.2, RecvStripe.fresh))
    controls := [], seen := [], current := none, doomed := [], earlyStart := none }

/-- The addresses of a neighbour on each plane of a set, from the input buffer (R6, R446). -/
def addrList (planes : List Nat) (b : Bytes) : List (Nat × Nat) := planes.zipIdx.map (fun x => (x.1, field b (16 * x.2) 16))

/-- The rings that are formed on the package (R447). -/
def State.formedRings (s : State) : List Ring := s.fabric.rings.filter (·.forming.isNone)

/-- Whether a ring identifier is formed on the package (R447). -/
def State.ringFormed (s : State) (ringId : Nat) : Bool := s.formedRings.any (fun r => r.ringId = ringId)

/-- What a ring that has heard from both neighbours fails for: other RING_FORMs may have formed their rings meanwhile (R447, R448; log entry 50). -/
def State.formFault (s : State) (r : Ring) : Option (Status × Nat) :=
  if s.ringFormed r.ringId then some (.idInUse, 0)
  else if 16 ≤ s.formedRings.length then some (.resourceExhausted, 0xFFFF)
  else if (alookup r.ringId s.fabric.lastEpoch).all (fun e => lsLt e r.epoch) then none
  else some (.ringMismatch, r.index)

/-- RING_FORM (R446 to R449): sends HELLO to both neighbours and completes with their HELLOs or with FORM_TIMEOUT. -/
def execRingForm (id : CmdId) (ringId epoch members index planes timeout : Nat) (s : State) : Res :=
  .next (s.startCmd id (.ringForm id ringId epoch members index planes timeout) (fun s o => do
    inRange (decide (2 ≤ members) && decide (members ≤ 4096)) 0x10
    inRange (decide (index < members)) 0x12
    inRange (decide (timeout ≤ 60000)) 0x18
    let ps := maskList 32 planes
    let p := ioPart o
    need (ps.all (fun n => (s.lportOf n).any (fun l => bitAt (s.entry p).fabMask (l / 2)))) .resourceAbsent 0x14
    need (!s.ringFormed ringId) .idInUse 0
    needIbuf o (32 * ps.length)
    needRbuf o 4
    need (decide (s.formedRings.length < 16)) .resourceExhausted 0xFFFF
    need ((alookup ringId s.fabric.lastEpoch).all (fun e => lsLt e epoch)) .ringMismatch index
    let (s, b) ← s.takeIbuf o (32 * ps.length)
    let (s, h) := s.newHandle p
    let r := newRing h ringId epoch members index planes p id (addrList ps b) (addrList ps (b.drop (16 * ps.length)))
    let s := { s with fabric := { s.fabric with rings := s.fabric.rings ++ [r] } }
    .ok (s.raiseBoth h (r.ctl 1 0 0 0), .runs 4)))

/-- FORM_TIMEOUT: FORM_TIMEOUT has passed before both neighbours answered (R449). -/
def execFormTimeout (id : CmdId) (s : State) : Res :=
  .next (match s.fabric.rings.find? (fun r => r.forming = some id) with
    | none => s
    | some r => ({ s with fabric := { s.fabric with rings := s.fabric.rings.filter (fun x => x.handle ≠ r.handle) } }).completeId id .ringBroken r.index [])

/-- The ring of a command: formed, and of the issuing partition (R446, R527). -/
def State.ringIdent (s : State) (o : Outst) (h : Nat) : Chk Ring :=
  match s.ring? h with
  | none => failWith .notFound 0
  | some r => if r.part = ioPart o && r.forming.isNone then .ok r else failWith .notFound 0

/-- The rings that an accord's ring slots name: the manual does not say where their handles come from, so slot k names the k-th formed
ring of the partition in ascending handle (log entry 30). -/
def State.accordRings (s : State) (p n : Nat) : List Nat :=
  (sortBy (fun a b => decide (a < b)) ((s.fabric.rings.filter (fun r => r.part = p && r.forming.isNone)).map (·.handle))).take n

/-- The ring handles that a queued PROG_RUN names in its input buffer (R193), after its slot handles. -/
def State.queuedRings (s : State) (o : Outst) : List Nat :=
  match o.cmd with
  | .progRun _ prog _ =>
    (match s.progs.find? (fun x => x.handle = prog) with
     | some x => (List.range x.img.rings).map (fun i => field (s.hostRd o.ibuf (4 * (x.img.slots.length + x.img.rings))) (4 * (x.img.slots.length + i)) 4)
     | none => [])
  | .accordRun _ acc _ _ =>
    (match s.accords.find? (fun a => a.handle = acc) with
     | some a => s.accordRings a.part a.rings
     | none => [])
  | .ringInfo _ h => [h]
  | .ringDissolve _ h => [h]
  | _ => []

/-- Whether a queued or running command beside `id` names a ring (R450). -/
def State.ringNamed (s : State) (id : CmdId) (h : Nat) : Bool :=
  s.runs.any (fun r => decide (h ∈ r.rings)) || s.host.outst.any (fun o => o.id ≠ id && o.phase != .posted && decide (h ∈ s.queuedRings o))

/-- RING_DISSOLVE (R450). -/
def execRingDissolve (id : CmdId) (h : Nat) (s : State) : Res :=
  .next (s.startCmd id (.ringDissolve id h) (fun s o => do
    noHold o
    let r ← s.ringIdent o h
    need (!s.ringNamed id r.handle) .resourceBusy 0
    okDone { s with fabric := { s.fabric with rings := s.fabric.rings.filter (fun x => x.handle ≠ h) } }))

/-- The 80 bytes of a RING_INFO result (R535). -/
def Ring.info (r : Ring) : Bytes :=
  let live := r.planeList.filter (fun p => !r.isDown true p && !r.isDown false p)
  let n := r.planeList.length
  leBytes 1 (if r.isBroken then 1 else 0) ++ leBytes 1 n ++ leBytes 2 r.members ++ leBytes 4 ((live.map (2 ^ ·)).sum) ++ leBytes 4 r.nextOp ++ zeros 4
    ++ leBytes 8 r.operations ++ leBytes 8 r.rescales ++ leBytes 8 r.residueFailures ++ leBytes 8 r.aborts
    ++ (List.range 32).flatMap (fun st => leBytes 1 (if st < n then r.stripePlane true st else 0xFF))

/-- RING_INFO: a BROKEN ring completes with RING_STATE and writes the full result all the same (R535). -/
def execRingInfo (id : CmdId) (h : Nat) (s : State) : Res :=
  .next (s.startCmd id (.ringInfo id h) (fun s o => do
    let r ← s.ringIdent o h
    needRbuf o 80
    .ok (s, .now (if r.isBroken then .ringState else .ok) 0 r.info)))

/-! ### Receiving (R428, R432) -/

/-- Takes a Longshore packet off a port: frames counted, and a packet of no ring, of another epoch, for another member or with a bad
checksum discarded and counted (R432); only a HELLO finds a ring that is still forming. -/
def State.receive (s : State) (l : Nat) (pkt : LsPkt) (ok hello : Bool) (f : State → Ring → State) : State :=
  if s.lportState l ≠ 3 then s
  else
    let n := lsFrameLen (s.lport l) pkt
    let t := (s.countPort l 1 1).countPort l 3 n
    match s.fabric.rings.find? (fun r => r.ringId = pkt.ring && r.epoch = pkt.epoch && r.index = pkt.dst && (hello || r.forming.isNone)) with
    | none => (t.chargeDevice 19 n).countPort l 6 1
    | some r =>
      let s := match r.who with
        | some id => t.chargeBytes id 19 n
        | none => t.chargeDevice 19 n
      if ok then f s r else s.countPort l 6 1

def Ring.fromPred (r : Ring) (p : LsPkt) : Bool := p.src == r.pred

def Ring.fromSucc (r : Ring) (p : LsPkt) : Bool := p.src == r.succ

/-- Whether a stripe number is one of the ring's. -/
def Ring.hasStripe (r : Ring) (st : Nat) : Bool := decide (st < r.planeList.length)

/-- Sequence numbers that a SACK map reports: ACK_SEQ + 2 + i for each set bit i (R436). -/
def sackSeqs (ackSeq sack : Nat) : List Nat := ((List.range 64).filter (bitAt sack)).map (fun i => (ackSeq + 2 + i) % 2 ^ 32)

/-- The window of a stripe after an acknowledgement of `n` segments (R439): halved, or one wider for each full window, up to the credit. -/
def SendStripe.rewindow (x : SendStripe) (n : Nat) (ce : Bool) : SendStripe :=
  let room := (x.credit + 2 ^ 32 - x.acked) % 2 ^ 32
  if ce then { x with window := max 8 (x.window / 2), growth := 0 }
  else if x.window ≤ x.growth + n then { x with window := if x.window < room then x.window + 1 else x.window, growth := x.growth + n - x.window }
  else { x with growth := x.growth + n }

/-- Takes the acknowledgement fields of a header for a sending stripe (R434, R437, R439): what is acknowledged goes, CREDIT never moves
earlier, and a segment with three later ones received is sent again. -/
def State.takeAck (s : State) (h st ackSeq credit : Nat) (sacked : List Nat) (ce : Bool) : State :=
  match s.ring? h with
  | none => s
  | some r =>
    let x := r.sendOf st
    let gone (p : LsPkt) : Bool := lsLe p.seq ackSeq || decide (p.seq ∈ sacked)
    let left := x.unacked.filter (fun p => !gone p)
    let x1 : SendStripe :=
      { x with unacked := left, acked := if lsLt x.acked ackSeq && lsLt ackSeq x.nextSeq then ackSeq else x.acked
               credit := if r.current.isSome && lsLt x.credit credit then credit else x.credit }
    let s := s.updRing h (fun r => r.setSend st (x1.rewindow (x.unacked.length - left.length) ce))
    let late := left.filter (fun p => !p.retransmit && decide (3 ≤ (sacked.filter (fun q => lsLt p.seq q)).length))
    let s := late.foldl (fun s p => s.resend h st p.seq) s
    (s.pumpAll h).settleOp h

/-- The SACK map of a stripe: bit i tells that SEQ ACK_SEQ + 2 + i has been received (R436). -/
def RecvStripe.sack (x : RecvStripe) : Nat := (((List.range 64).filter (fun i => decide ((x.ackSeq + 2 + i) % 2 ^ 32 ∈ x.got))).map (2 ^ ·)).sum

/-- Sends an ACK for a stripe to the predecessor (R436). -/
def State.sendAck (s : State) (h st plane : Nat) : State :=
  match s.ring? h with
  | none => s
  | some r =>
    let x := r.recvOf st
    let p := s.header r 2 false st plane 0
    let s := s.sendPkt h false { p with ceSeen := x.ceSeen, sack := x.sack }
    s.updRing h (fun r => r.setRecv st { r.recvOf st with sinceAck := 0, ceSeen := false })

/-- Advances ACK_SEQ over the segments received in order. -/
def advance : Nat → Nat → List Nat → Nat × List Nat
  | 0, a, got => (a, got)
  | fuel + 1, a, got =>
    let n := (a + 1) % 2 ^ 32
    if n ∈ got then advance fuel n (got.filter (· ≠ n)) else (a, got)

/-- Takes a DATA packet into staging (R434, R436, R438): duplicates and segments beyond the advertised CREDIT are not taken. -/
def RecvStripe.take (x : RecvStripe) (p : LsPkt) : RecvStripe :=
  let x := { x with sinceAck := x.sinceAck + 1, ceSeen := x.ceSeen || p.ceSeen }
  if lsLe p.seq x.ackSeq || p.seq ∈ x.got || lsLt x.credit p.seq then x
  else
    let (a, g) := advance (x.got.length + 1) x.ackSeq (x.got ++ [p.seq])
    { x with ackSeq := a, got := g, staged := x.staged ++ [p] }

/-- DATA_RECEIVED (R432, R436, R438, R464): `ceSeen` of an arriving DATA packet tells that its IPv6 header carried a CE mark. -/
def execDataReceived (l : Nat) (pkt : LsPkt) (ok : Bool) (s : State) : Res :=
  .next (if pkt.type ≠ 1 then s
    else s.receive l pkt ok false (fun s r =>
      if !r.fromPred pkt || !r.hasStripe pkt.stripe || r.isBroken || r.forming.isSome then s
      else
        let h := r.handle
        let s := s.updRing h (fun r => r.setRecv pkt.stripe ((r.recvOf pkt.stripe).take pkt))
        let s := if r.two then s.takeAck h pkt.stripe pkt.ackSeq pkt.credit [] false else s
        let due := match s.ring? h with
          | some r => decide (16 ≤ (r.recvOf pkt.stripe).sinceAck)
          | none => false
        let s := if due then s.sendAck h pkt.stripe pkt.plane else s
        s.drain h))

/-- LINK_ADDER_HOP: a link adder takes a staged segment of an adding pass (R463, R468). -/
def execLinkAdderHop (h st seq : Nat) (s : State) : Res :=
  .next (match s.ring? h with
    | none => s
    | some r =>
      match r.current, (r.recvOf st).staged.find? (fun p => p.seq = seq) with
      | some op, some p => if op.startSeen && r.adds op p then ((s.unstagePkt h st seq).takeAdd h p).drain h else s
      | _, _ => s)

/-- ACK_RECEIVED (R434, R437, R439, R467). -/
def execAckReceived (l : Nat) (pkt : LsPkt) (ok : Bool) (s : State) : Res :=
  .next (if pkt.type ≠ 2 then s
    else s.receive l pkt ok false (fun s r =>
      if !r.fromSucc pkt || !r.hasStripe pkt.stripe || r.forming.isSome then s
      else s.takeAck r.handle pkt.stripe pkt.ackSeq pkt.credit (sackSeqs pkt.ackSeq pkt.sack) pkt.ceSeen))

/-- ACK_TIMER: 5 µs after the first unacknowledged DATA packet of a stripe (R436). -/
def execAckTimer (h st : Nat) (s : State) : Res :=
  .next (match s.ring? h with
    | none => s
    | some r => if r.hasStripe st && decide (0 < (r.recvOf st).sinceAck) then s.sendAck h st (r.stripePlane false st) else s)

/-- RETRANSMIT_TIMEOUT: a segment has stood unacknowledged for 100 µs (R437). -/
def execRetransmitTimeout (h st seq : Nat) (s : State) : Res := .next (s.resend h st seq)

/-- PLANE_FAIL_TIMEOUT: 200 µs without an acknowledgement on a plane while DATA or PROBE packets were outstanding (R440, R441). -/
def execPlaneFailTimeout (h plane : Nat) (succ : Bool) (s : State) : Res :=
  .next (match s.ring? h with
    | none => s
    | some r =>
      if (plane, succ) ∈ r.probing || ((succ || r.two) && r.send.any (fun x => x.2.plane == plane && !x.2.unacked.isEmpty)) then
        s.failPlane h plane succ
      else s)

/-- PROBE_TIMER: every 50 µs on a plane with no DATA outstanding (R440); an unanswered PROBE ends a count of consecutive answers (R442). -/
def execProbeTimer (h plane : Nat) (succ : Bool) (s : State) : Res :=
  .next (match s.ring? h with
    | none => s
    | some r =>
      if plane ∉ r.planeList || r.forming.isSome || (succ && r.send.any (fun x => x.2.plane == plane && !x.2.unacked.isEmpty)) then s
      else
        let again (d : Nat × Nat) : Nat × Nat := if d.1 = plane && (plane, succ) ∈ r.probing then (plane, 0) else d
        let s := s.updRing h (fun x => { x with
          downSucc := if succ then x.downSucc.map again else x.downSucc, downPred := if succ then x.downPred else x.downPred.map again
          probing := addOnce (plane, succ) x.probing })
        let st := (r.planeList.findIdx? (· = plane)).getD 0
        s.sendPkt h succ (s.header r 3 succ st plane 0))

/-- An answered PROBE: a failed plane returns with the sixteenth in a row (R442). -/
def Ring.answered (r : Ring) (plane : Nat) (succ : Bool) : Ring :=
  let step (ds : List (Nat × Nat)) : List (Nat × Nat) :=
    (ds.map (fun d => if d.1 = plane then (plane, d.2 + 1) else d)).filter (fun d => d.2 < 16)
  { r with probing := r.probing.filter (fun q => q ≠ (plane, succ))
           downSucc := if succ || r.two then step r.downSucc else r.downSucc, downPred := if !succ || r.two then step r.downPred else r.downPred }

/-- PROBE_RECEIVED: a PROBE is answered with an ACK on its plane; an ACK that answers one counts toward the plane's return (R442). -/
def execProbeReceived (l : Nat) (pkt : LsPkt) (ok : Bool) (s : State) : Res :=
  .next (if pkt.type ≠ 3 && pkt.type ≠ 2 then s
    else s.receive l pkt ok false (fun s r =>
      if !(r.fromPred pkt || r.fromSucc pkt) || r.forming.isSome then s
      else
        let succ := r.fromSucc pkt
        if pkt.type = 3 then
          let p := s.header r 2 succ pkt.stripe pkt.plane 0
          s.sendPkt r.handle succ { p with sack := if !succ || r.two then (r.recvOf pkt.stripe).sack else 0 }
        else if (pkt.plane, succ) ∈ r.probing then s.updRing r.handle (fun r => r.answered pkt.plane succ)
        else s))

/-! ### CONTROL packets (R449, R453, R454, R470, R472) -/

/-- CONTROL_REPEAT: repeats the CONTROLs that no neighbour has answered, every 50 µs (R454). -/
def execControlRepeat (h : Nat) (s : State) : Res :=
  .next (match s.ring? h with
    | none => s
    | some r => r.controls.foldl (fun s c => s.sendCtl h c.1 c.2 true) s)

/-- What every arriving CONTROL does first (R454): it answers one of the same KIND and OP, or else its first copy and each repeat of it
are answered, on every live plane and with the package's own plane set; `first` tells whether this is the first copy from that neighbour. -/
def State.answerCtl (s : State) (r : Ring) (pkt : LsPkt) (c : Ctl) : State × Bool :=
  let dir := r.fromSucc pkt
  let h := r.handle
  let mine := r.controls.any (fun x => x.1.kind = c.kind && x.1.op = c.op && x.2 = dir)
  let first := decide ((c.kind, c.op, dir) ∉ r.seen)
  let s := s.updRing h (fun x => { x with
    controls := x.controls.filter (fun y => !(y.1.kind = c.kind && y.1.op = c.op && y.2 = dir)), seen := addOnce (c.kind, c.op, dir) x.seen })
  let s := if !mine && (first || pkt.retransmit) then s.sendCtl h { c with planes := r.planes } dir false else s
  (s, first)

/-- A formed ring (R449): a plane that did not answer during the handshake starts out failed. -/
def Ring.formed (r : Ring) : Ring :=
  { r with forming := none
           downPred := (r.planeList.filter (· ∉ r.helloPred)).map (fun p => (p, 0))
           downSucc := (r.planeList.filter (· ∉ r.helloSucc)).map (fun p => (p, 0)) }

/-- The stripes of a newly formed ring whose plane starts out failed travel on the live ones (R441, R449). -/
def Ring.placed (r : Ring) : Ring :=
  let away := (List.range r.planeList.length).filter (fun st => r.isDown false (r.planeList.getD st 0))
  (List.range r.planeList.length).foldl (fun x st =>
    if x.isDown true (x.planeList.getD st 0) then x.setSend st { x.sendOf st with plane := x.movedTo true st } else x)
    { r with back := away.map (fun st => (st, r.movedTo false st)) }

/-- A HELLO during formation (R449). -/
def State.takeHello (s : State) (r : Ring) (pkt : LsPkt) (c : Ctl) : State :=
  match r.forming with
  | none => (s.answerCtl r pkt c).1
  | some id =>
    let h := r.handle
    if c.members ≠ r.members || !(r.fromPred pkt || r.fromSucc pkt) then
      ({ s with fabric := { s.fabric with rings := s.fabric.rings.filter (fun x => x.handle ≠ h) } }).completeId id .ringMismatch pkt.src []
    else
      let (s, _) := s.answerCtl r pkt c
      let note (x : Ring) : Ring :=
        { x with helloPred := if r.fromPred pkt then addOnce pkt.plane x.helloPred else x.helloPred
                 helloSucc := if r.fromSucc pkt then addOnce pkt.plane x.helloSucc else x.helloSucc }
      let s := s.updRing h note
      match s.ring? h with
      | none => s
      | some x =>
        if x.helloPred.isEmpty || x.helloSucc.isEmpty then s
        else
          match s.formFault x with
          | some f => ({ s with fabric := { s.fabric with rings := s.fabric.rings.filter (fun y => y.handle ≠ h) } }).completeId id f.1 f.2 []
          | none =>
          let s := s.updRing h (fun x => x.formed.placed)
          let s := { s with fabric := { s.fabric with lastEpoch := ainsert r.ringId r.epoch s.fabric.lastEpoch } }
          s.completeId id .ok 0 (leBytes 4 h)

/-- Runs `f` on an arriving CONTROL packet of a KIND. -/
def State.control (s : State) (l : Nat) (pkt : LsPkt) (ok : Bool) (kind : Nat) (f : State → Ring → Ctl → State) : State :=
  match pkt.ctl with
  | none => s
  | some c => if pkt.type ≠ 4 || c.kind ≠ kind then s else s.receive l pkt ok (kind == 1) (fun s r => f s r c)

/-- HELLO. -/
def execHello (l : Nat) (pkt : LsPkt) (ok : Bool) (s : State) : Res := .next (s.control l pkt ok 1 (fun s r c => s.takeHello r pkt c))

/-- A START (R453): the successor's answers ours; the predecessor's is compared with the step's own, its operation number among the rest, kept when the
step has not begun, or answered as a later copy when its operation is over (R454, log entry 49). -/
def State.takeStart (s : State) (r : Ring) (pkt : LsPkt) (c : Ctl) : State :=
  let h := r.handle
  let clear (s : State) : State := s.updRing h (fun x => { x with controls := x.controls.filter (fun y => !(y.1.kind = 2 && y.1.op = c.op)) })
  let credit (s : State) : State := if r.fromSucc pkt && r.hasStripe pkt.stripe then s.takeAck h pkt.stripe pkt.ackSeq pkt.credit [] false else s
  let s := credit (if r.fromSucc pkt then clear s else s)
  if !r.fromPred pkt then s
  else
    let dropOld (x : Ring) : Ring :=
      if pkt.retransmit || !x.hasStripe pkt.stripe then x
      else x.setRecv pkt.stripe { x.recvOf pkt.stripe with staged := (x.recvOf pkt.stripe).staged.filter (fun p => !lsLt p.seq pkt.seq) }
    match r.current with
    | some op =>
      if c.op = op.op then
        if op.startSeen then (if pkt.retransmit && !r.two then s.sendCtl h (r.startCtl op) false false else s)
        else (s.updRing h dropOld).compareStart h c
      else if c.op = op.op + 1 && op.startSeen then s.updRing h (fun x => { x with earlyStart := some c })
      else if c.op < op.op then (s.answerCtl r pkt c).1
      else s.failOp h .ringMismatch pkt.src
    | none =>
      if c.op = r.nextOp then (s.updRing h dropOld).updRing h (fun x => { x with earlyStart := some c })
      else if c.op < r.nextOp then (s.answerCtl r pkt c).1
      else s

/-- START. -/
def execStart (l : Nat) (pkt : LsPkt) (ok : Bool) (s : State) : Res :=
  .next (s.control l pkt ok 2 (fun s r c => if r.forming.isSome || r.isBroken then s else s.takeStart r pkt c))

/-- Forwards an ABORT or BROKEN once to the neighbour it did not come from (R470, R472). -/
def State.passOn (s : State) (r : Ring) (pkt : LsPkt) (c : Ctl) : State :=
  if r.two then s
  else
    let away := !r.fromSucc pkt
    (s.updRing r.handle (fun x => { x with seen := addOnce (c.kind, c.op, away) x.seen })).raiseCtl r.handle { c with planes := r.planes } away

/-- An ABORT for operation k (R470, R471): forwarded once; the step fails with RING_ABORTED, now or when it is reached. -/
def State.takeAbort (s : State) (r : Ring) (pkt : LsPkt) (c : Ctl) : State :=
  let known := r.seen.any (fun x => x.1 = 3 && x.2.1 = c.op)
  let (s, _) := s.answerCtl r pkt c
  if known then s
  else
    let s := s.passOn r pkt c
    match r.current with
    | some op =>
      if op.op = c.op then s.dropOp r.handle .ringAborted c.origin 1
      else if op.op < c.op then s.updRing r.handle (fun x => { x with doomed := x.doomed ++ [(c.op, c.origin, c.status)] })
      else s
    | none =>
      if r.nextOp ≤ c.op then s.updRing r.handle (fun x => { x with doomed := x.doomed ++ [(c.op, c.origin, c.status)] }) else s

/-- ABORT. -/
def execAbort (l : Nat) (pkt : LsPkt) (ok : Bool) (s : State) : Res :=
  .next (s.control l pkt ok 3 (fun s r c => if r.forming.isSome || !(r.fromPred pkt || r.fromSucc pkt) then s else s.takeAbort r pkt c))

/-- A BROKEN (R472): forwarded once; the ring is BROKEN and its running step fails. -/
def State.takeBroken (s : State) (r : Ring) (pkt : LsPkt) (c : Ctl) : State :=
  let (s, _) := s.answerCtl r pkt c
  if r.isBroken then s else (s.passOn r pkt c).breakRing r.handle c.origin

/-- BROKEN. -/
def execBroken (l : Nat) (pkt : LsPkt) (ok : Bool) (s : State) : Res :=
  .next (s.control l pkt ok 4 (fun s r c => if r.forming.isSome || !(r.fromPred pkt || r.fromSucc pkt) then s else s.takeBroken r pkt c))

/-! ### Other frames (R428) -/

/-- Bytes of an ICMPv6 frame with `n` bytes behind its IPv6 header: Ethernet, tag, IPv6 and frame check sequence. -/
def icmpFrame (x : LPort) (n : Nat) : Nat := 58 + (if x.vlan.isSome then 4 else 0) + n

/-- NEIGHBOR_SOLICITATION: answered for the port's own address; any other is dropped and counted (R428). -/
def execNeighborSolicitation (l target : Nat) (s : State) : Res :=
  .next (if s.lportState l ≠ 3 then s
    else
      let n := icmpFrame (s.lport l) 32
      let s := ((s.countPort l 1 1).countPort l 3 n).chargeDevice 19 n
      if (s.lport l).set && (s.lport l).ipv6 = target then
        let s := { s with out := s.out ++ [Out.neighborAdvert l target (s.lport l).mac] }
        ((s.countPort l 0 1).countPort l 2 n).chargeDevice 18 n
      else s.countPort l 6 1)

/-- ECHO_REQUEST: answered on each logical port (R428), unless the answer would be a packet of more than 4,096 bytes, which the device never sends
(R433). -/
def execEchoRequest (l dest : Nat) (data : Bytes) (s : State) : Res :=
  .next (if s.lportState l ≠ 3 then s
    else
      let n := icmpFrame (s.lport l) (8 + data.length)
      let s := ((s.countPort l 1 1).countPort l 3 n).chargeDevice 19 n
      if (s.lport l).set && (s.lport l).ipv6 = dest && decide (48 + data.length ≤ 4096) then
        let s := { s with out := s.out ++ [Out.echoReply l dest data] }
        ((s.countPort l 0 1).countPort l 2 n).chargeDevice 18 n
      else s.countPort l 6 1)

/-- FRAME_DISCARD: any other received frame is dropped and counted (R428). -/
def execFrameDiscard (l bytes : Nat) (s : State) : Res :=
  .next (if s.lportState l ≠ 3 then s
    else (((s.countPort l 1 1).countPort l 3 bytes).chargeDevice 19 bytes).countPort l 6 1)

end Sys2Proof.Machine
end

