-- ==== Sys2Proof/Machine/FlashBg.lean ====
section
/-!
DEFINITION. The background work of the flash store (chapter *Flash store*): codeword reads, programs of write-buffer slots and of copies, garbage
collection, refresh and wear levelling, the journal and its checkpoints, block retirement and LUN failures.
-/
namespace Sys2Proof.Machine

open Sys2Proof

/-! ### What a lost block means (R222, R280, R335, R336) -/

/-- The tensors whose backing object holds a logical block. -/
def State.tensorsAt (s : State) (ns lba : Nat) : List Nat :=
  (s.tensors.filter (fun t => t.desc.tier = 3 &&
    (let (n, o) := backingOf t.desc.backing
     n == ns && (match s.obj? n o with
       | some ob => decide (ob.first ≤ lba) && decide (lba < ob.first + ob.blocks)
       | none => false)))).map (·.desc.handle)

/-- An index whose record cannot be read any more (R280). -/
def State.markUnreadable (s : State) (ns lba : Nat) : State :=
  let add (x : Index) : Index := { x with unreadable := if decide (lba < x.params.slots) then addOnce lba x.unreadable else x.unreadable }
  { s with indexes := mapIf (fun x => x.ns = ns) add s.indexes }

/-- Declares a block unreadable: its POISON bit, journalled, and what it backs (R222, R335, R336). -/
def State.loseBlock (s : State) (ns lba : Nat) : State :=
  let e := s.mapAt ns (lba / 4)
  let e := { e with poison := e.poison ||| 2 ^ (lba % 4) }
  let s := ((s.mapSet ns (lba / 4) e).journal s.lastSeq ns (lba / 4) e 0).integrity 5 2
  let s := (s.tensorsAt ns lba).foldl (fun s h => s.loseTensor h) s
  s.markUnreadable ns lba

/-- Declares the four blocks of a unit unreadable. -/
def State.loseUnit (s : State) (ns unit : Nat) : State := (List.range 4).foldl (fun s i => s.loseBlock ns (4 * unit + i)) s

/-! ### Copies (R330, R341, R348, R375) -/

/-- A place for a copy that background work makes: the group's superblock for copies; a mirrored unit takes a pair of places (R302, R341). -/
def State.copyPlace (s : State) (g : Nat) (mirror : Bool) : State × Option Nat :=
  if mirror then State.takePair (g / 2 * 2) true 64 s else s.takePlace g true

/-- Starts the copy of a page that the map names: the page is read (R344) and takes a place in its group, where its program starts. A page whose copy is
under way, or that finds no place, stays for later; one that is another block's is lost first (R334). -/
def State.pushCopy (g : Nat) (s : State) (p : NandPage) : State :=
  let e := s.mapAt p.ns p.unit
  if !s.names e p.loc || s.flash.copies.any (fun c => c.src = e.loc) then s
  else
    let s := if s.pageIs (s.readLoc e p.ns p.unit) p.ns p.unit then s else s.loseUnit p.ns p.unit
    match s.copyPlace g e.mirror with
    | (_, none) => s
    | (t, some loc) =>
      let t := t.readPage p.ns p.unit
      let c : Copy := { key := t.flash.nextSlot, src := e.loc, loc := loc, mirror := e.mirror, ns := p.ns, unit := p.unit, seq := p.seq }
      { t with flash := { t.flash with copies := t.flash.copies ++ [c], nextSlot := c.key + 1 } }

/-- Starts the copies of a superblock's pages, those in blocks retired from it with them. -/
def State.pushCopies (s : State) (x : Superblock) : State := (s.pagesOf x).foldl (State.pushCopy x.group) s

/-- The read-back that verifies a program (R328, R344, R348): a page read of each block programmed. -/
def State.readBack (s : State) (mirror : Bool) (loc : Nat) : State :=
  (if mirror then [loc, s.mirrorOf loc] else [loc]).foldl (fun s l => s.readRow l 1 false) s

/-- A copy has been programmed and read back: the move is journalled and the map changes, unless the entry names the source no more and the copy
is discarded (R330, R348, R375). -/
def State.copyDone (s : State) (c : Copy) : State :=
  let e := s.mapAt c.ns c.unit
  let src : MapEntry := { e with loc := c.src, mirror := c.mirror }
  let s := { s with flash := { s.flash with copies := s.flash.copies.filter (fun y => y.key ≠ c.key) } }
  let s := ((s.programAt c.loc c.mirror c.ns c.unit c.seq (s.cells (s.readLoc src c.ns c.unit))).readBack c.mirror c.loc).chargeDevice 15
    (s.unitTraffic * (if c.mirror then 2 else 1))
  if e.onNand && e.loc == c.src then
    let e' : MapEntry := { e with loc := c.loc }
    (s.mapSet c.ns c.unit e').journal s.lastSeq c.ns c.unit e' 0
  else s

/-- Rewrites the page of a mirrored unit whose first copy has failed, before it is read again (R303): both copies anew from the good data; where a
copy of the page is under way already, that one is finished. While no pair of places is free the page cannot be rewritten (log entry 80). -/
def State.rewritePair (s : State) (ns unit : Nat) : State :=
  let loc := (s.mapAt ns unit).loc
  match s.flash.copies.find? (fun c => c.src = loc), s.flash.nand.find? (fun p => p.loc = loc) with
  | some c, _ => s.copyDone c
  | none, none => s
  | none, some p =>
    let t := s.pushCopy (loc / 2 ^ 31) p
    match t.flash.copies.getLast? with
    | some c => if decide (s.flash.copies.length < t.flash.copies.length) then t.copyDone c else t
    | none => t

/-! ### Collection and erases (R340, R349, R350, R375) -/

/-- A block event of the journal (R337): UNIT is the block, ENTRY its channel and LUN. -/
def State.blockEvent (s : State) (b : BlockAt) (kind : Nat) : State :=
  let e : MapEntry := { poison := 0, mirror := false, buf := false, loc := (16 * b.group + b.member) * 2 ^ 27 + b.lun * 2 ^ 24 }
  s.journal s.lastSeq 0xFE b.block e kind

/-- Blocks of a superblock that have not failed. -/
def State.blocksUp (s : State) (x : Superblock) : List BlockAt := ((List.range 16).map x.blockAt).filter (fun b => !s.flash.blockFailed b)

/-- Journals an event of each block of a superblock. -/
def State.sbEvent (s : State) (x : Superblock) (kind : Nat) : State := (s.blocksUp x).foldl (fun s b => s.blockEvent b kind) s

/-- Starts the collection of a closed superblock. -/
def State.collect (s : State) (x : Superblock) : State := (s.updSb x.group x.sb (fun y => { y with state := .collecting })).pushCopies x

/-- Whether nothing of a superblock counts any more: no page of it is valid, none is being copied or programmed (R371, R375). -/
def State.emptied (s : State) (dur : List ((Nat × Nat) × MapEntry)) (x : Superblock) : Bool :=
  !(s.pagesOf x).any (s.pageValid dur) && !s.busySb x && !s.flash.copies.any (fun c => x.has (s.flash.blockOf c.src).1)

/-- A superblock that is dissolved leaves the data capacity; its good members join their LUNs' reserves (R350). -/
def State.dissolve (s : State) (x : Superblock) : State :=
  let good := (s.blocksUp x).filter (fun b => s.flash.retired.all (fun r => r.1 ≠ b))
  let back := good.map (fun b => (b, x.erases.getD b.member 0))
  let s := { s with flash := { s.flash with
    joined := s.flash.joined.filter (fun (j : BlockAt × Nat) => j.1 ∉ good) ++ back, taken := s.flash.taken.filter (fun b => b ∉ good) } }
  (s.updSb x.group x.sb (fun y => { y with state := .dissolved, blocks := [], erases := [], refresh := false })).spareEvents

/-- What one superblock can do next: an emptied one under collection, or of the journal or the checkpoints, journals ERASE_OPEN; once that is durable
its erase is issued and counted (R349, R375); one that dissolves does so once emptied (R350). -/
def State.settleErase (dur : List ((Nat × Nat) × MapEntry)) (s : State) (x : Superblock) : State :=
  let due := (s.sbEvent x 1).updSb x.group x.sb (fun y => { y with state := .eraseDue })
  match x.state with
  | .collecting => if s.emptied dur x then due else s
  | .closed => if (x.use = .journal || x.use = .checkpoint) && s.emptied dur x then due else s
  | .dissolving => if s.emptied dur x then s.dissolve x else s
  | .eraseDue =>
    if s.flash.jbuf.any (fun r => r.kind == 1 && x.has r.block) then s
    else
      let up := s.blocksUp x
      let count (y : Superblock) : Superblock :=
        { y with state := .erasing, refresh := false
                 erases := (y.erases.zipIdx).map (fun e => if up.any (fun b => b.member == e.2) then e.1 + 1 else e.1) }
      s.updSb x.group x.sb count
  | _ => s

/-- Every superblock in turn. -/
def State.settleErases (s : State) : State := if s.flashFree then s.flash.sbs.foldl (State.settleErase s.flash.durableMap) s else s

/-- Blanks every page of some blocks. -/
def State.blankPages (s : State) (p : NandPage → Bool) : State :=
  (s.flash.nand.filter p).foldl (fun s q =>
    { s with flash := { s.flash with nand := s.flash.nand.filter (fun y => y.loc ≠ q.loc), nandMem := s.flash.nandMem.clear (q.loc * 16384) 16384 } }) s

/-- A superblock's blocks are blank: their read counts clear and ERASE_DONE is journalled (R344, R349). -/
def State.erased (s : State) (x : Superblock) : State :=
  let s := (s.blankPages (fun p => x.has (s.flash.blockOf p.loc).1)).sbEvent x 2
  s.updSb x.group x.sb (fun y => { y with state := .free, nextUnit := 0, reads := List.replicate 16 0 })

/-! ### Retirement (R347, R348, R350, R352, R355) -/

/-- The places that a program takes, given its first. -/
def State.placesOf (s : State) (mirror : Bool) (loc : Nat) : List Nat := if mirror then [loc, s.mirrorOf loc] else [loc]

/-- Gives up every program that is under way where `bad` says: slots program again, and copies are made again elsewhere while the map still names
their source (R347, R348). -/
def State.giveUp (s : State) (bad : Nat → Bool) : State :=
  let hit (c : Copy) : Bool := (s.placesOf c.mirror c.loc).any bad
  let back (x : Slot) : Slot := if (x.programming.map (fun l => (s.placesOf x.mirror l).any bad)).getD false then { x with programming := none, verified := false } else x
  { s with flash := { s.flash with slots := s.flash.slots.map back, copies := s.flash.copies.filter (fun c => !hit c) } }

/-- Starts again the copies that have been given up. -/
def State.copyAgain (s : State) (cs : List Copy) : State :=
  cs.foldl (fun s c => match s.flash.nand.find? (fun p => p.loc = c.src) with
    | some p => State.pushCopy (c.loc / 2 ^ 31) s p
    | none => s) s

/-- Closes an open superblock and seals its last row. -/
def State.closeOne (s : State) (x : Superblock) : State :=
  let s := s.updSb x.group x.sb (fun y => { y with state := .closed, closedAt := s.now })
  if x.nextUnit = 0 then s else s.sealRow (x.pageLoc (s.flash.ppb x.group) 0 ((x.nextUnit - 1) / 15))

/-- Closes a superblock that is open, and with it the other of its pair (R302). -/
def State.closeSb (s : State) (x : Superblock) : State :=
  if !x.isOpen then s
  else
    let t := s.closeOne x
    let other := if x.group % 2 = 0 then x.group + 1 else x.group - 1
    if x.state = .openPair || x.state = .openPairGc then ((t.sb? other x.sb).map (fun y => if y.isOpen then t.closeOne y else t)).getD t else t

/-- A reserve block takes a retired one's place (R350). Its superblock is closed and is erased as a whole before it takes programs again, so what the
block held before is erased with it (log entry 80). -/
def State.swapIn (s : State) (x : Superblock) (m : Nat) (nb : BlockAt × Nat) : State :=
  let put (y : Superblock) : Superblock := { y with blocks := setAt m nb.1.block y.blocks, erases := setAt m nb.2 y.erases, reads := setAt m 0 y.reads }
  { s with flash := { s.flash with taken := s.flash.taken ++ [nb.1] } }.updSb x.group x.sb put

/-- Retires a block (R347, R350): RETIRE is journalled, what was being programmed in it starts again, its superblock closes, a block of the same LUN's
reserve takes its place and its earlier rows are copied; with that reserve empty, the whole superblock is relocated, to be dissolved. -/
def State.retire (s : State) (b : BlockAt) : State :=
  match s.flash.sbs.find? (fun x => x.has b) with
  | none => s
  | some x =>
    let inB (l : Nat) : Bool := (s.flash.blockOf l).1 = b
    let again := s.flash.copies.filter (fun c => (s.placesOf c.mirror c.loc).any inB)
    let rows := (s.flash.nand.filter (fun p => inB p.loc && s.names (s.mapAt p.ns p.unit) p.loc)).map (fun p => { p with loc := (s.mapAt p.ns p.unit).loc })
    let s := ((((s.blockEvent b 3).integrity 5 5).giveUp inB).closeSb x)
    let s := { s with flash := { s.flash with retired := s.flash.retired ++ [(b, x.sb)] } }
    let s := match s.flash.reserveOf b.group b.member b.lun with
      | nb :: _ =>
        let s := s.swapIn x b.member nb
        rows.foldl (State.pushCopy b.group) s
      | [] => (s.updSb x.group x.sb (fun y => { y with state := .dissolving })).pushCopies x
    (s.copyAgain again).spareEvents

/-! ### Programs (R327 to R330, R347, R348, R370) -/

/-- Whether a slot is the next to program: commit order (R329). -/
def State.isNextSlot (s : State) (x : Slot) : Bool :=
  s.flash.slots.all (fun y => y.verified || y.programming.isSome ||
    (match y.seq, x.seq with
     | some a, some b => !seqLt a b
     | _, _ => true))

/-- SLOT_PROGRAM (R327 to R329, R342): a committed slot takes a place on NAND and its program starts. -/
def execSlotProgram (slot : Nat) (s : State) : Res :=
  .next (match s.flash.slots.find? (fun x => x.sid = slot) with
    | none => s
    | some x =>
      if x.seq.isNone || x.programming.isSome || !s.flashFree || !s.isNextSlot x then s
      else
        match s.placeFor x.ns x.unit with
        | (_, none) => s
        | (t, some (loc, mirror)) =>
          let put (y : Slot) : Slot := { y with programming := some loc, mirror := mirror }
          { t with flash := { t.flash with slots := mapIf (fun y => y.sid = slot) put t.flash.slots } })

/-- Charges the channel bytes of a program to the context whose command wrote the unit (R413). -/
def State.chargeProgram (s : State) (x : Slot) : State :=
  let n := s.unitTraffic * (if x.mirror then 2 else 1)
  match qPart x.owner.queue with
  | some p => s.charge p (qCtx x.owner.queue) 15 n
  | none => s.chargeDevice 15 n

/-- A slot's program has been read back; when the whole group of its commit has, the map changes in one journal group (R328, R330, R370). Each verified
slot lowers what the dirty ceiling counts. -/
def State.slotDone (s : State) (x : Slot) (loc : Nat) : State :=
  let cells := s.cipherUnit x.ns x.unit (s.flash.slotMem.readN 0 (x.sid * 16384) 16384)
  let s := ((s.programAt loc x.mirror x.ns x.unit (x.seq.getD 0) cells).readBack x.mirror loc).chargeProgram x
  let done (y : Slot) : Slot := { y with verified := true }
  let s := { s with flash := { s.flash with slots := mapIf (fun y => y.sid = x.sid) done s.flash.slots } }
  ((s.settleGroup x).settleFlush).settleCeiling

/-- A piece of the flush has been programmed: the next of the manifest, once the tails are saved (R362, R365). -/
def State.pieceDone (s : State) (key : Nat) : State :=
  let a := s.flash.area
  match a.todo with
  | p :: rest =>
    if a.tailsSaved && p.key == key then
      { s with flash := { s.flash with area := { a with todo := rest, written := a.written ++ [p], writtenAt := some s.now } } }
    else s
  | [] => s

def FWhat.isSlot : FWhat → Bool
  | .slot .. => true
  | _ => false

/-- Whether two pieces lie in one segment (R366). -/
def FPiece.sameSegment (p q : FPiece) : Bool := p.seq == q.seq && p.grp == q.grp && p.what.isSlot == q.what.isSlot

/-- A program in a flush area has failed: its segment is written again in the next row, out of the spare space (R366). -/
def State.pieceFail (s : State) (key : Nat) : State :=
  let a := s.flash.area
  match a.todo with
  | p :: _ =>
    let lost := a.written.filter (fun q => q.sameSegment p)
    if a.tailsSaved && p.key == key && decide (lost.length < a.spare) then
      { s with flash := { s.flash with area := { a with
          todo := lost ++ a.todo, written := a.written.filter (fun q => !q.sameSegment p), spare := a.spare - (lost.length + 1) } } }
    else s
  | [] => s

/-- NAND_PROGRAM_DONE (R328, R330, R348, R362, R365, R370): the program of a slot or of a copy has been read back; in a flush, that of a piece. -/
def execNandProgramDone (slot : Nat) (s : State) : Res :=
  .next (if s.power.flushing || s.power.draining then s.pieceDone slot
    else if !s.flashFree then s
    else
      match s.flash.slots.find? (fun x => x.sid = slot) with
      | some x =>
        (match x.programming, x.verified with
         | some loc, false => (s.slotDone x loc).settleErases
         | _, _ => s)
      | none =>
        (match s.flash.copies.find? (fun c => c.key = slot) with
         | some c => (s.copyDone c).settleErases
         | none => s))

/-- The block whose program has failed: of a mirrored program, either copy's may have, a free value (log entry 80). -/
def State.failedBlock (s : State) (mirror : Bool) (loc : Nat) : State × BlockAt :=
  if mirror then
    let (t, v) := s.freeNat
    (t, (s.flash.blockOf (if v % 2 = 0 then loc else s.mirrorOf loc)).1)
  else (s, (s.flash.blockOf loc).1)

/-- Retires the block whose program has failed; the channel bytes of the failed program count like another's (R413). -/
def State.retireFailed (s : State) (mirror : Bool) (loc : Nat) : State :=
  let (t, b) := s.failedBlock mirror loc
  (t.retire b).settleErases

/-- NAND_PROGRAM_FAIL (R347, R348, R366): the block is retired, its earlier rows move, and the unit programs again from its slot, or its copy is made
again. -/
def execNandProgramFail (slot : Nat) (s : State) : Res :=
  .next (if s.power.flushing || s.power.draining then s.pieceFail slot
    else if !s.flashFree then s
    else
      match s.flash.slots.find? (fun x => x.sid = slot) with
      | some x =>
        (match x.programming, x.verified with
         | some loc, false => (s.chargeProgram x).retireFailed x.mirror loc
         | _, _ => s)
      | none =>
        (match s.flash.copies.find? (fun c => c.key = slot) with
         | some c => (s.chargeDevice 15 (s.unitTraffic * (if c.mirror then 2 else 1))).retireFailed c.mirror c.loc
         | none => s))

/-! ### Reads (R333 to R336, R344, R345) -/

/-- Whether a page cannot be read itself: a test has borrowed its channel (R662), or its member has failed (R351). -/
def State.memberAway (s : State) (loc : Nat) : Bool := s.borrowed (loc / 2 ^ 27) || s.flash.failedAt loc

/-- Whether another member of a page's row is away too, so that parity cannot rebuild it (R351). -/
def State.rowShort (s : State) (loc : Nat) : Bool :=
  match s.sbOf loc with
  | none => false
  | some x =>
    let (b, row) := s.flash.blockOf loc
    ((List.range 16).filter (· ≠ b.member)).any (fun m => s.memberAway (x.pageLoc (s.flash.ppb b.group) m row))

/-- Whether a copy of a unit can serve at all: its page is the unit's (R334), and where its member is away the others can rebuild it. -/
def State.copyGood (s : State) (loc ns unit : Nat) : Bool := s.pageIs loc ns unit && !(s.memberAway loc && s.rowShort loc)

/-- Page reads of a copy whose every step fails. -/
def State.readFails (s : State) (loc : Nat) : State :=
  let all := ((s.flash.profileOf (loc / 2 ^ 31)).map (·.retryLevels)).getD 0
  s.readRow loc (if s.memberAway loc then 0 else 1 + all) true

/-- One copy recovered at a step (R335), with its page reads and counts (R241, R344), and the superblock queued for refresh from SOFT_FROM on and by
parity (R336). A member that is away is rebuilt by parity, whatever the step. -/
def State.readStep (s : State) (loc : Nat) (st : CwStep) : State :=
  let soft := ((s.flash.profileOf (loc / 2 ^ 31)).map (·.softFrom)).getD 0
  let all := ((s.flash.profileOf (loc / 2 ^ 31)).map (·.retryLevels)).getD 0
  if s.memberAway loc then ((s.readRow loc 0 true).integrity 5 1).refreshFor loc
  else
    match st with
    | .hard _ => s.readRow loc 1 false
    | .retry l =>
      let s := (s.readRow loc (1 + min l all) false).integrity 5 0
      if soft ≤ l then s.refreshFor loc else s
    | .parity => ((s.readRow loc (1 + all) true).integrity 5 1).refreshFor loc

/-- Whether a step rebuilds a copy by parity. -/
def State.byParity (s : State) (loc : Nat) (st : CwStep) : Bool := s.memberAway loc || st == .parity

/-- The outcome that can stand: the one given, unless the copies that it rests on cannot serve. -/
def State.cwOutcome (s : State) (e : MapEntry) (ns unit : Nat) (o : CwOutcome) : CwOutcome :=
  let second := e.mirror && s.copyGood (s.mirrorOf e.loc) ns unit
  let byCopy (c : CwStep) : CwOutcome := if second then .mirror c else .lost
  if s.copyGood e.loc ns unit then
    match o with
    | .mirror c => byCopy c
    | _ => o
  else
    match o with
    | .hard n => byCopy (.hard n)
    | .retry l => byCopy (.retry l)
    | .parity => byCopy .parity
    | .mirror c => byCopy c
    | .lost => .lost

/-- Whether a location is lost for good: its member has failed and another of its row has too (R351). -/
def State.rowLost (s : State) (loc : Nat) : Bool :=
  s.flash.failedAt loc && (match s.sbOf loc with
    | none => false
    | some x =>
      let (b, row) := s.flash.blockOf loc
      ((List.range 16).filter (· ≠ b.member)).any (fun m => s.flash.failedAt (x.pageLoc (s.flash.ppb b.group) m row)))

/-- Whether only a channel that a test has borrowed keeps a unit from being read at all: the read waits for the test's end (R662). -/
def State.testWaits (s : State) (e : MapEntry) (ns unit : Nat) : Bool :=
  let stands (loc : Nat) : Bool := s.pageIs loc ns unit && !s.rowLost loc
  let second := s.mirrorOf e.loc
  !s.copyGood e.loc ns unit && !(e.mirror && s.copyGood second ns unit) && (stands e.loc || (e.mirror && stands second))

/-- READ_CODEWORD (R222, R241, R303, R333 to R336, R344): a codeword of a programmed unit is recovered by the step that its outcome names.
A unit that a slot holds, or none, has no codeword to read. A first copy that only its parity or the second copy could give is rewritten. -/
def execReadCodeword (ns lblock : Nat) (outcome : CwOutcome) (s : State) : Res :=
  .next (
    let e := s.mapAt ns (lblock / 4)
    let unit := lblock / 4
    let renew (s : State) : State := if e.mirror && s.flashFree then s.rewritePair ns unit else s
    let first (st : CwStep) : State := let t := s.readStep e.loc st; if s.byParity e.loc st then renew t else t
    if !e.onNand || s.testWaits e ns unit then s
    else
      match s.cwOutcome e ns unit outcome with
      | .hard n => first (.hard n)
      | .retry l => first (.retry l)
      | .parity => first .parity
      | .mirror c => renew ((((s.readFails e.loc).readStep (s.mirrorOf e.loc) c).integrity 5 1).refreshFor e.loc)
      | .lost =>
        let s := s.readFails e.loc
        let s := if e.mirror then s.readFails (s.mirrorOf e.loc) else s
        s.loseBlock ns lblock)

/-- READ_COUNT_THRESHOLD (R344): a block whose read count has reached READ_REFRESH queues its superblock for refresh. -/
def execReadCountThreshold (group sb member : Nat) (s : State) : Res :=
  .next (match s.sb? group sb with
    | some x => if s.refreshAt group ≤ x.reads.getD member 0 then s.queueRefresh group sb else s
    | none => s)

/-- RETENTION_SCAN (R344, R345): every 64th row of a closed superblock is read with hard decoding; its worst codeword queues the superblock when it needed
retry or corrected REFRESH_BITS bits or more. -/
def execRetentionScan (group sb : Nat) (worst : CwOutcome) (s : State) : Res :=
  .next (match s.sb? group sb with
    | some x =>
      if x.state = .closed then
        let s := (List.range 16).foldl (fun s m => s.addReads group sb m (ceilDiv (s.flash.pagesPer group x.use) 64)) s
        let limit := ((s.flash.profileOf group).map (·.refreshBits)).getD 0
        let due := match worst with
          | .hard n => decide (limit ≤ n)
          | _ => true
        if due then s.queueRefresh group sb else s
      else s
    | none => s)

/-! ### Collection, refresh, wear levelling (R339 to R345) -/

/-- GC_COLLECT (R330, R340, R341, R375): one superblock at a time is copied; where none is, the victim of R340. Its copies end by NAND_PROGRAM_DONE,
their records by JOURNAL_PIECE_WRITE, and the erase follows. -/
def execGcCollect (group : Nat) (s : State) : Res :=
  .next (if !s.flashFree then s
    else
      match s.flash.sbs.find? (fun x => x.group = group && (x.state = .collecting || x.state = .dissolving)) with
      | some x => (s.pushCopies x).settleErases
      | none =>
        (match s.victim group with
         | some x => (s.collect x).settleErases
         | none => s))

/-- SUPERBLOCK_REFRESH (R330, R341, R345): every valid unit of a queued superblock is copied, in the order of garbage collection. -/
def execSuperblockRefresh (group sb : Nat) (s : State) : Res :=
  .next (match s.sb? group sb with
    | some x =>
      if s.flashFree && x.refresh && x.use = .data && x.state = .closed && !s.busySb x then (s.collect x).settleErases
      else if s.flashFree && x.refresh && x.state = .collecting then (s.pushCopies x).settleErases
      else s
    | none => s)

/-- WEAR_LEVEL (R341, R343): the data of the least erased closed superblock is relocated. -/
def execWearLevel (group : Nat) (s : State) : Res :=
  .next (
    let closed := s.flash.sbs.filter (fun x => x.group = group && x.use = .data && x.state = .closed && !s.busySb x)
    match leastBy (fun a b => decide (a.eraseCount < b.eraseCount)) closed, leastBy (fun a b => decide (b.eraseCount < a.eraseCount)) closed with
    | some lo, some hi =>
      let rated := ((s.flash.profileOf group).map (·.peRated)).getD 0
      if s.flashFree && decide (s.cfg.tunables.getD 4 5 * rated < 100 * (hi.eraseCount - lo.eraseCount)) then (s.collect lo).settleErases else s
    | _, _ => s)

/-- NAND_ERASE_DONE (R333, R344, R349): the blocks are blank, their read counts clear, and ERASE_DONE is journalled. -/
def execNandEraseDone (group sb : Nat) (s : State) : Res :=
  .next (match s.sb? group sb with
    | some x =>
      if x.state = .erasing && s.flashFree && !(List.range 16).any (fun m => s.borrowed (16 * group + m)) then s.erased x else s
    | none => s)

/-- JOURNAL_PIECE_WRITE (R338, R375): up to 64 KiB of a die's records go to its SLC journal superblock; with no room there they stay. -/
def execJournalPieceWrite (die : Nat) (s : State) : Res :=
  .next (if !s.flashFree then s
    else
      let mine := s.flash.jbuf.filter (fun r => r.die = die)
      let ready := mine.filter (fun r => !s.recWaits r)
      let (t, rs) := s.writeRecs (ready.take pieceRecs)
      if rs.any (fun r => r.loc = 0) then s
      else
        { t with flash := { t.flash with
            jdur := t.flash.jdur ++ rs
            jbuf := t.flash.jbuf.filter (fun (r : JRec) => r.die ≠ die) ++ mine.filter s.recWaits ++ ready.drop pieceRecs } }.settleErases)

/-- Map segments of a namespace (R326). -/
def Ns.segments (n : Ns) : Nat := ceilDiv (ceilDiv n.capacity 4) (2 ^ 20)

/-- The journal group from which records still count: below it every segment has a checkpoint that covers them (R339). -/
def FlashSt.coveredTo (f : FlashSt) : Nat :=
  let all := f.ns.flatMap (fun n => (List.range n.segments).map (fun k => ((f.ckpt? n.nsid k).map (·.gid)).getD 0))
  all.foldl min f.nextGid

/-- Whether an ERASE_OPEN has no ERASE_DONE after it (R349). -/
def FlashSt.eraseStands (f : FlashSt) (r : JRec) : Bool :=
  r.kind == 1 && !(f.jdur ++ f.jbuf).any (fun d => d.kind == 2 && d.block == r.block && decide (r.gid < d.gid))

/-- Frees the journal records that every segment's checkpoint covers (R339); an erase that has not been done keeps its ERASE_OPEN (R349). -/
def FlashSt.freeJournal (f : FlashSt) : FlashSt :=
  let left := f.jdur.filter (fun r => decide (f.coveredTo ≤ r.gid) || f.eraseStands r)
  { f with jdur := left
           ckpts := f.ckpts.filter (fun c => f.ns.any (fun n => n.nsid = c.ns) || (left ++ f.jbuf).any (fun r => r.kind == 0 && r.ns == c.ns)) }

/-- The bytes of a checkpoint: the 40-bit entries of its segment, in order (R325). -/
def segBytes (ents : List (Nat × MapEntry)) (first n : Nat) : Bytes :=
  (List.range n).flatMap (fun i => leBytes 5 ((alookup (first + i) ents).getD MapEntry.unmapped).code)

/-- The highest SEQ that a checkpoint of a segment covers: that of its durable records, or of the checkpoint before it (R339). -/
def FlashSt.coveredSeq (f : FlashSt) (ns seg : Nat) : Nat :=
  let recs := (f.jdur.filter (fun r => r.kind == 0 && r.ns == ns && segOf r.unit == seg)).map (·.seq)
  recs.foldl (fun a b => if seqLt a b then b else a) (((f.ckpt? ns seg).map (·.seq)).getD 0)

/-- MAP_CHECKPOINT (R339): the segment's durable entries go to the area that does not hold its newest checkpoint; then the journal records that every
segment's checkpoint covers are freed. A checkpoint that finds no room leaves everything as it was. -/
def execMapCheckpoint (ns segment : Nat) (s : State) : Res :=
  .next (
    match s.ns? ns with
    | none => s
    | some n =>
      if !s.flashFree || n.segments ≤ segment then s
      else
        let gids := (s.flash.jbuf.filter (fun r => r.kind == 0 && r.ns == ns && segOf r.unit == segment)).map (·.gid)
        let t := s.journalOut (fun r => decide (r.gid ∈ gids))
        let ents := ((t.flash.durableMap.filter (fun e => e.1.1 == ns && segOf e.1.2 == segment && e.2 != MapEntry.unmapped)).map (fun e => (e.1.2, e.2)))
        let units := min (2 ^ 20) (ceilDiv n.capacity 4 - segment * 2 ^ 20)
        let (t, ls) := State.programSlc .checkpoint (chunks 16384 (ceilDiv (5 * units) 16384 + 1) (segBytes ents (segment * 2 ^ 20) units)) t
        if 0 ∈ ls || t.flash.jbuf.any (fun r => decide (r.gid ∈ gids)) then s
        else
          let area := !((t.flash.ckpt? ns segment).map (·.area)).getD true
          let c : Ckpt := { ns := ns, seg := segment, area := area, seq := t.flash.coveredSeq ns segment, gid := t.flash.nextGid, pages := ls, ents := ents }
          let old (x : Ckpt) : Bool := x.ns = ns && x.seg == segment && x.area == area
          { t with flash := { t.flash with ckpts := t.flash.ckpts.filter (fun x => !old x) ++ [c] }.freeJournal }.settleErases)

/-- CHANNEL_RECALIBRATE (R308): ZQ, duty-cycle and DQ training of a channel in use. -/
def execChannelRecalibrate (channel : Nat) (s : State) : Res :=
  .next (if s.flash.groupState.getD (channel / 16) 0 = 1 then { s with flash := { s.flash with recal := ainsert channel s.now s.flash.recal } } else s)

/-! ### LUN and channel failures (R351, R619) -/

/-- Units that a second failed member of a row takes with it: those without a second copy that still stands (R351). -/
def State.loseShortRows (s : State) (x : Superblock) : State :=
  let stands (loc ns unit : Nat) : Bool := s.pageIs loc ns unit && !s.rowLost loc
  ((s.pagesIn x).filter (fun p => s.rowLost p.loc)).foldl (fun s p =>
    let e := s.mapAt p.ns p.unit
    if s.names e p.loc && !stands e.loc p.ns p.unit && !(e.mirror && stands (s.mirrorOf e.loc) p.ns p.unit) then s.loseUnit p.ns p.unit else s) s

/-- The journal's pages in a superblock are written anew elsewhere (R351); where there is no room they stay, served by parity. -/
def State.moveJournal (s : State) (x : Superblock) : State :=
  let inX (r : JRec) : Bool := r.loc != 0 && x.has (s.flash.blockOf r.loc).1
  let (t, rs) := s.writeByDie (s.flash.jdur.filter inX)
  if rs.any (fun r => r.loc = 0) then s
  else
    let new (r : JRec) : JRec := if inX r then (rs.find? (fun y => { y with loc := r.loc } = r)).getD r else r
    { t with flash := { t.flash with jdur := t.flash.jdur.map new } }

/-- The pages of checkpoints in a superblock are written anew elsewhere (R351). -/
def State.moveCkpts (s : State) (x : Superblock) : State :=
  let inX (l : Nat) : Bool := x.has (s.flash.blockOf l).1
  let ps := (s.flash.ckpts.flatMap (·.pages)).filter inX
  let (t, ls) := State.programSlc .checkpoint (ps.map s.cells) s
  if 0 ∈ ls then s
  else
    let new (l : Nat) : Nat := (alookup l (ps.zip ls)).getD l
    { t with flash := { t.flash with ckpts := t.flash.ckpts.map (fun c => { c with pages := c.pages.map new }) } }

/-- Rebuilds the rows of a superblock with a failed member in other superblocks of its group (R351). -/
def State.rebuildSb (s : State) (x : Superblock) : State :=
  match x.use with
  | .data => if x.isOpen || x.state = .closed then (s.closeSb x).collect x else s.pushCopies x
  | .flush => s
  | _ => ((s.closeSb x).moveJournal x).moveCkpts x

/-- Superblocks with a failed member that hold rows. -/
def State.hurtSbs (s : State) : List Superblock :=
  s.flash.sbs.filter (fun x => (x.isOpen || x.state = .closed || x.state = .collecting || x.state = .dissolving) &&
    ((List.range 16).map x.blockAt).any s.flash.blockFailed)

/-- Every superblock with a failed member: what a reset has cut short goes on (R351). -/
def State.rebuildHurt (s : State) : State := ((s.hurtSbs.filter (fun x => (s.pagesIn x).any (s.pageValid s.flash.durableMap))).foldl State.rebuildSb s).settleErases

/-- Loses a LUN or a whole channel (R351): reads are served by parity, every affected row is rebuilt in other superblocks, and the
blocks leave the reserve and the data capacity. -/
def State.lunDown (s : State) (channel : Nat) (lun : Option Nat) : State :=
  let g := channel / 16
  if (s.flash.inUse g).isNone then s
  else
    let s := { s with flash := { s.flash with failed := s.flash.failed ++ [(channel, lun)] } }
    let again := s.flash.copies.filter (fun c => (s.placesOf c.mirror c.loc).any s.flash.failedAt)
    let s := s.giveUp s.flash.failedAt
    let rows := s.hurtSbs.filter (fun x => x.group = g && (lun.isNone || lun == some x.lun))
    let s := (rows.filter (fun x => x.use = .data)).foldl State.loseShortRows s
    let s := rows.foldl State.rebuildSb s
    ((s.copyAgain again).spareEvents).settleErases

end Sys2Proof.Machine
end

