-- ==== Sys2Proof/Machine/PowerLoss.lean ====
section
/-!
DEFINITION. Power loss, resets and start-up (chapters *Power loss and write atomicity*, *Power, clocks and reset*): the flush and the
reset drain, the start-up steps, replay, and the events on the power and reset pins.
-/
namespace Sys2Proof.Machine

open Sys2Proof

/-! ### The flush (R362 to R366) and the drain (R607) -/

/-- Phase 1: every run is killed, every command short of its commit point abandoned, without a completion, and every merge ended (R281, R362,
R363). -/
def State.stopWork (s : State) : State :=
  let live := s.host.outst.filter (fun o => o.phase ≠ .posted)
  let s := live.foldl (fun s o => if o.phase = .running then s.abandon o.id else s) s
  let still (x : Index) : Index := { x with merge := none }
  { s with host := { s.host with outst := s.host.outst.filter (fun o => o.phase = .posted) }, test := { s.test with links := [], bist := [] }
           indexes := s.indexes.map still }

/-- Phase 2: compute engines, link adders and optical engines are power-gated (R362, R423). -/
def State.gateEngines (s : State) : State :=
  let ports := (List.range 32).filter (fun l => decide (1 < (s.lport l).state))
  let s := ports.foldl (fun s l => s.updLport l (fun x => { x with state := 1 })) s
  { s with cores := [], fabric := { s.fabric with oePowered := List.replicate 8 false, laserEn := List.replicate 8 false } }

/-- Counts how many earlier elements of a list carry the same number: the segment of R366 is the count over 512. -/
def withGroups (l : List (FWhat × Nat × Nat)) : List (FWhat × Nat × Nat) :=
  (l.zipIdx).map (fun x => (x.1.1, x.1.2.1, ((l.take x.2).filter (fun y => y.2.1 == x.1.2.1)).length / 512))

/-- The pieces of the manifest in the order of R365, with the bytes of each as the cells take them (R320): slots by commit, then dirty pages of
tensors and of index tables (R251), oldest generation first. -/
def State.manifest (s : State) : List ((FWhat × Nat × Nat) × Bytes) :=
  let slots := sortBy (fun a b => seqLt (a.seq.getD 0) (b.seq.getD 0)) (s.flash.slots.filter (fun x => x.seq.isSome))
  let ps := slots.map (fun x => ((FWhat.slot x.ns x.unit x.poison, x.seq.getD 0, x.grp), s.cipherUnit x.ns x.unit (s.flash.slotMem.readN 0 (x.sid * 16384) 16384)))
  let page (d : DirtyPage) : Option (FWhat × Bytes) :=
    match d with
    | .index ns k pg => (s.index? ns).map (fun x => (.table ns k pg (x.badPieces k pg), s.cipherUnit ns (x.params.tableUnit k pg) (x.pageBytes k pg)))
    | .tensor h k pg =>
      match s.tensor? h with
      | none => none
      | some t =>
        let (ns, o) := backingOf t.desc.backing
        match s.obj? ns o with
        | none => none
        | some ob =>
          let lba := t.desc.pageBlock ob k pg
          let addr := t.desc.bases.getD k 0 + pg * 16384
          let n := min 16384 (t.desc.partBytes k - pg * 16384)
          if ob.length < (t.desc.firstPage k + pg + 1) * 16384 then none
          else some (.page ns lba (s.badBlocks addr n lba), s.cipherBlocks ns lba (padTo 16384 (s.rd addr n)))
  let dirty := (sortBy (fun (a b : DirtyPage × Nat) => seqLt a.2 b.2) s.dirtyPages).filterMap (fun d => (page d.1).map (fun x => (x, d.2)))
  let gs := withGroups (dirty.map (fun x => (x.1.1, x.2, 0)))
  ps ++ gs.zip (dirty.map (fun x => x.1.2))

/-- Pieces that a flush area has room for: the largest dirty ceiling, and 1/8 more as spare (R366). -/
def areaPieces (v : Variant) : Nat := Variant.maxCeiling v * 64 * 9 / 8

/-- The SLC superblocks that a flush of `n` pieces takes (R315), on the flash-interface dies still in service (R625): room for the variant's largest dirty
ceiling and 1/8 more (R366), where the SLC superblocks that are free leave two for the journal and the checkpoints (log entry 86). -/
def State.areaSbs (s : State) (n : Nat) : List Superblock :=
  let free := s.freeSlc.filter (fun x => !s.unitDown 0xD (x.group / 2))
  let per := 15 * max 1 ((free.head?.map (fun x => s.flash.pagesPer x.group x.use)).getD 1)
  free.take (max (ceilDiv (n + 1) per) (min (ceilDiv (areaPieces s.variant + 1) per) (free.length - 2)))

/-- The commits whose changes only the tails hold: map records in the journal buffers that a commit wrote, not background work, and driftline entries that
their log has still to take (R365). -/
def State.tailCommits (s : State) : List Nat :=
  let own (r : JRec) : Bool := r.kind == 0 && (r.entry == MapEntry.unmapped || s.flash.nand.any (fun p => p.loc == r.entry.loc && p.seq == r.seq))
  ((s.flash.jbuf.filter own).map (·.seq) ++ (s.indexes.flatMap (·.driftline)).filterMap (fun e => if e.seq ≠ 0 && !e.logged then some e.seq else none)).eraseDups

/-- Phases 3 and 4: NAND is quiesced, every program that is under way ending unnamed (R364), and the manifest written. -/
def State.openArea (s : State) : State :=
  let s := s.giveUp (fun _ => true)
  let m := s.manifest.zipIdx
  let pieces := m.map (fun x => { key := x.2, what := x.1.1.1, seq := x.1.1.2.1, grp := x.1.1.2.2 : FPiece })
  let mem := m.foldl (fun (mem : Mem) x => mem.writeN 0 (x.2 * 16384) x.1.2) []
  let sbs := s.areaSbs pieces.length
  let s := sbs.foldl (fun s x => s.putSb { x with use := .flush, state := .openHost, nextUnit := 0 }) s
  { s with flash := { s.flash with area :=
      { present := true, todo := pieces, written := [], tailsSaved := false, mem := mem, endRecord := false, limit := none, startedAt := s.now, deadline := none
        spare := areaPieces s.variant - pieces.length, writtenAt := none, sbs := sbs.map (fun x => (x.group, x.sb)), tailSeqs := s.tailCommits } } }

/-- The page or sector of a host program or erase (R555). -/
def CflOp.range (o : CflOp) : Nat × Nat := if o.isErase then (o.addr, 0x10000) else (o.addr / 256 * 256, 256)

/-- What an interruption leaves undefined (R562): with what it was, the page or sector of the operation under way. -/
def CflSt.interrupted (c : CflSt) : List (Nat × Nat) :=
  match c.op with
  | some o => addOnce o.range c.undefinedAt
  | none => c.undefinedAt

/-- Starts the power-loss sequence, or with `drain` a reset drain (R361, R362, R607); either interrupts what the configuration flash does for the
host (R562). -/
def State.startFlush (s : State) (drain : Bool) : State :=
  let s := (s.stopWork.gateEngines).openArea
  let last := if drain then none else some (s.now + 1000000)
  { s with power := { s.power with flushing := !drain, draining := drain }, flash := { s.flash with area := { s.flash.area with deadline := last } }
           cfl := { s.cfl with undefinedAt := s.cfl.interrupted } }

/-! ### Start-up (R609, R615) -/

/-- What a checker of a store must answer to the three patterns (*Self-test patterns* table, R238): clean, corrected with the clean data, and
uncorrectable with the data as it was fed in. -/
def selfTestRule (st : Store) : List (Ecc × Nat) :=
  let word := 0x5555555555555555
  let sector := ofLe (List.replicate 32 (0xA5 : Byte))
  if st = .nearMemory then [(.clean, sector), (.corrected, sector), (.uncorrectable, sector ^^^ (0xFF * 2 ^ 40) ^^^ (0xFF * 2 ^ 176))]
  else [(.clean, word), (.corrected, word), (.uncorrectable, word ^^^ 2 ^ 3 ^^^ 2 ^ 60)]

/-- Whether a checker fails a pattern (R239). -/
def testFails (c : SelfTest) : Bool := c.answers != selfTestRule c.store

/-- The unit that a checker takes out of service (*Checker units* table, R239). -/
def testUnit (c : SelfTest) : Nat :=
  match c.store with
  | .tidepool => 0x6000 + c.unit
  | .accumulator => 0x4000 + c.unit
  | .dieCache => 0xA000 + c.unit
  | .path => 0x5000 + c.unit
  | _ => 0xB000 + c.unit

/-- The checkers that fail at start-up. -/
def State.badCheckers (s : State) : List SelfTest := s.power.checks.filter (fun c => testFails c && s.unitExists (testUnit c))

/-- Every unit that fails its tests at start-up (R239, R682). -/
def State.failsTests (s : State) : List Nat := s.power.failing ++ s.badCheckers.map testUnit

/-- Tidepool banks out of service at start-up: those that the remap tables retire (R236), and those whose checkers or tests fail (R239). -/
def State.banksOut (s : State) : List Nat :=
  ((s.integ.retiredBanks.filter (·.2)).map (·.1) ++ (s.failsTests.filter (fun u => unitKind u == 6 && s.unitExists u)).map unitIdx).eraseDups

/-- Cores out of service at start-up because the stored mask of their partition powers such a bank (R234). -/
def State.bankCoresOut (s : State) : List Nat :=
  ((s.banksOut.filter (fun b => s.stored.parts.any (fun e => e.valid == 1 && bitAt e.clusterMask (b / 128) && bitAt e.tpBankMask (b % 16)))).map
    (· / 16)).eraseDups

/-- A compute die fails step 5 when it or one of its stacks fails its test (R682), or the remap tables hold it retired (R236). -/
def State.dieFails (s : State) (d : Nat) : Bool :=
  s.failsTests.any (fun u => dieOfUnit u == some d) || s.integ.retiredUnits.any (fun u => u.2 && dieOfUnit u.1 == some d)

/-- The dies that step 5 brings up (R615, R682). -/
def State.goodDies (s : State) : List Nat := (List.range (Variant.dies s.variant)).filter (fun d => !s.dieFails d)

/-- A flash-interface die that fails its tests (R682). -/
def State.badFlashDie (s : State) : Option Nat := s.power.failing.find? (fun u => unitKind u == 0xD && s.unitExists u)

/-- Units that start-up finds out of service: those that fail their tests (R239, R682), banks that the remap tables retire, with their cores
(R234, R236), cores and clusters that they retire (R232, R236), and failed LUNs and channels (R351). -/
def State.startsOut (s : State) : List Nat :=
  (s.banksOut.map (0x6000 + ·) ++ s.bankCoresOut.map (0x4000 + ·) ++
    (s.integ.retiredUnits.filter (fun (u : Nat × Bool) => u.2 && (unitKind u.1 == 4 || unitKind u.1 == 5))).map Prod.fst ++
    s.flash.failed.map (fun (x : Nat × Option Nat) => match x.2 with
      | some l => 0x7000 + (8 * x.1 + l)
      | none => 0x8000 + x.1) ++
    ((List.range (Variant.dies s.variant)).filter s.dieFails).flatMap dieCodes ++
    s.failsTests.filter (fun u => s.unitExists u && (dieOfUnit u).isNone)).eraseDups

/-! ### Excursions (R633) -/

/-- Adds an excursion to the ten that rank highest: by peak, then duration, then earlier start. -/
def Health.rank (h : Health) (e : Excursion) : Health :=
  let better (a b : Excursion) : Bool :=
    decide (b.peak < a.peak) || (a.peak == b.peak && (decide (b.durationMs < a.durationMs) || (a.durationMs == b.durationMs && decide (a.start < b.start))))
  { h with excursions := (sortBy better (h.excursions ++ [e])).take 10 }

/-- A power failure ends every running excursion with the duration that it had reached. -/
def Health.cutOff (h : Health) : Health := { (h.running.foldl Health.rank h) with running := [] }

def State.endExcursions (s : State) : State := { s with health := { s.health with log := s.health.log.cutOff } }

/-- The log after a reset: what the health region holds (R632). With the supply there an excursion goes on; without it, it has ended. -/
def State.logAfter (s : State) : Health :=
  if s.power.powered then { s.health.saved with running := s.health.log.running } else s.health.saved.cutOff

/-! ### What a reset leaves -/

/-- What remains when every die is reset or the supply goes: what flash, the configuration flash, the fuses, the pins and the host hold.
Near memory, queues, contexts, handles and rings are gone (R301, R411, R450, R514). The regulators of the compute dies stand at 0.70 V until step 5 sets them
(R593, R613). -/
def State.volatileReset (s : State) : State :=
  let r := State.reset
  let reload (e : DEntry) : DEntry := { e with poisoned := false }
  let keepIdx (x : Index) : Index :=
    let y := x.dropEntries (fun e => e.owner.isSome || !e.logged)
    { y with merge := none, allocs := [], dirty := [], driftline := y.driftline.map reload, sketches := [], directory := [], tombstones := []
             usedSlots := [], dirPoison := [], scan := [], copies := [] }
  let stop (x : Superblock) : Superblock := { x with state := if x.state = .collecting || x.state = .eraseDue then .closed else x.state }
  { r with
    pending := s.pending
    variant := s.variant
    cfg := { s.cfg with defaulted := false, waitingCeiling := [], waitingCap := [] }
    host := { r.host with
      splitStrap := s.host.splitStrap, splitSampled := s.host.splitSampled, splitPending := s.host.splitPending || s.host.ports.all (fun p => !p.perstN)
      ports := s.host.ports.map (fun p => { Port.reset with perstN := p.perstN, releasedAt := p.releasedAt })
      mem := s.host.mem, memBad := s.host.memBad }
    indexes := s.indexes.map keepIdx
    flash := { s.flash with groupState := List.replicate 8 0, profile := [], map := [], slots := [], slotMem := [], jbuf := [], pend := [], recal := []
                            copies := [], sbs := s.flash.sbs.map stop, driftFull := false }
    fabric := { r.fabric with fibre := s.fabric.fibre }
    integ := { r.integ with remaps := s.integ.remaps.filter (·.saved), withheld := s.integ.withheld.filter (·.2), retiredBanks := s.integ.retiredBanks.filter (·.2)
                            retiredUnits := s.integ.retiredUnits.filter (·.2)
                            bankOut := s.bankCoresOut }
    cfl := { s.cfl with op := none, lowerCmd := none
                        undefinedAt := s.cfl.interrupted }
    sec := { r.sec with serial := s.sec.serial, minSvn := s.sec.minSvn, romxA := s.sec.romxA, romxB := s.sec.romxB, keySlots := s.sec.keySlots, drbg := s.sec.drbg
                        keyGens := s.sec.keyGens, keysBad := s.sec.keysBad }
    power := { r.power with pwrgd := s.power.pwrgd, plpN := s.power.plpN, powered := s.power.powered, clocks := s.power.clocks, failing := s.power.failing, checks := s.power.checks
                            mgmtAddrPins := s.power.mgmtAddrPins, mgmtSmbPin := s.power.mgmtSmbPin
                            vdd := (List.range 8).map (fun d => if s.power.powered && decide (d < Variant.dies s.variant) then 700 else 0) }
    health := { log := { s.logAfter with outOfService := s.startsOut }
                saved := s.health.saved, temps := [], hotSince := [], coolMs := [], watchdog := [] }
    commitSeq := s.commitSeq, now := s.now, freeCount := s.freeCount, out := s.out }

/-- FUSE_ID_SEED (R568). -/
def fuseIdSeed : Bytes := slice Config.idSeed 0 72

/-- FUSE_KWK (R568). -/
def fuseKwk : Bytes := slice Config.keyWrapKey 0 32

/-- The security engine recomputes the identity public key from FUSE_ID_SEED (R569). -/
def State.deriveIdentity (s : State) : State := { s with sec := { s.sec with idPub := slice (Config.identityPublic fuseIdSeed) 0 48 } }

/-- Whether a copy is valid at start-up (R572, R573): its SVN against FUSE_MIN_SVN, which may have risen. What else R572 asks of an image was checked when it
was written and read back, and no command writes a copy otherwise. -/
def SecSt.accepts (c : SecSt) (r : Romx) : Bool := decide (c.minSvn ≤ r.svn)

/-- ROMX selection (R573, R574): the valid copy with the higher SVN, then the higher version, then copy A; true for copy B. -/
def SecSt.choose (c : SecSt) : Option Bool :=
  match c.romxA.filter c.accepts, c.romxB.filter c.accepts with
  | none, none => none
  | some _, none => some false
  | none, some _ => some true
  | some a, some b => some (decide (a.svn < b.svn) || (a.svn == b.svn && (decide (a.major < b.major) || (a.major == b.major && decide (a.minor < b.minor)))))

/-- The running ROMX image. -/
def SecSt.image (c : SecSt) : Option Romx :=
  match c.running with
  | some true => c.romxB
  | some false => c.romxA
  | none => none

/-- Step 2, security engine: every present key is unwrapped into its key slot, and a namespace whose key cannot be read is noted (R584); the chosen ROMX image runs, and FUSE_MIN_SVN
follows a COMMIT_SVN (R573). -/
def State.selectRomx (s : State) : State :=
  let lose (n : Ns) : Ns := if n.encrypt && s.sec.keysBad.contains n.nsid then { n with keyLost := true } else n
  let s := { s with flash := { s.flash with ns := s.flash.ns.map lose }, sec := { s.sec with keysBad := [] } }
  let key (n : Nat) : Nat := match s.flash.ns.find? (fun x => x.nsid = n) with
    | some x => if x.encrypt && !x.keyLost then x.keyGen else 0
    | none => 0
  let c := { s.sec with running := s.sec.choose, keySlots := (List.range 64).map key }
  let svn := match c.image with
    | some i => if i.commitSvn then max c.minSvn i.svn else c.minSvn
    | none => c.minSvn
  { s with sec := { c with minSvn := svn } }

/-- The operating point and CFL_WAIT at start-up (R553). -/
def startOpp (r : Rec) : Nat × Nat :=
  let w := r.cflWaitBoot
  if minWait r.defaultOpp ≤ w then (r.defaultOpp, w)
  else if minWait 3 ≤ w then (3, w)
  else if minWait 2 ≤ w then (2, w)
  else if minWait 1 ≤ w then (1, w)
  else if minWait 0 ≤ w then (0, w)
  else (0, 31)

/-- Step 2, configuration record (R38) with the operating point of R553: what is reset-effective takes effect (R28). The store tunables are the stored
ones, or the defaults where they cannot be read (R346). -/
def State.loadRecord (s : State) : State :=
  let bad := s.cfg.recA.isNone && s.cfg.recB.isNone
  let r := s.stored
  let (opp, w) := startOpp r
  let tune := if s.cfg.tunablesLost then State.reset.cfg.tunables else s.cfg.tunablesSaved
  let s := { s with
    cfg := { s.cfg with
      tunables := tune
      inForce := { isolation := r.isolation, fabricModes := r.fabricModes, holdupEnergy := r.holdupEnergy, defaultOpp := r.defaultOpp
                   cflWaitBoot := r.cflWaitBoot, parts := r.parts }
      defaulted := bad }
    host := { s.host with cflWait := w }
    power := { s.power with opp := opp } }
  if bad then s.raise 0xA 0 0 .device else s

/-- Step 3 of R566: both copies of the wrapped namespace keys and the customer region are erased. -/
def State.eraseSecrets (s : State) : State :=
  -- a host program under way ends before the erase, which takes what it has written
  let gone (o : CflOp) : CflOp := if o.isErase then o else { o with data := [] }
  let lose (n : Ns) : Ns := if n.encrypt then { n with keyLost := true } else n
  { s with sec := { s.sec with keySlots := List.replicate 64 0 }
           flash := { s.flash with ns := s.flash.ns.map lose }
           cfl := { s.cfl with op := s.cfl.op.map gone, arr := s.cfl.arr.clear 0x08000000 0x08000000, undefinedAt := s.cfl.undefinedAt.filter (fun x => decide (x.1 < 0x08000000)) } }

/-- Steps 5, 6 and 8: compute dies, voltages, optical engines and ports (R445, R593, R600, R615). -/
def State.startDies (s : State) : State :=
  let n := Variant.dies s.variant
  let mv (o : Nat) : Nat := [650, 700, 780, 850].getD o 850
  let s := { s with
    power := { s.power with diesInService := s.goodDies, computeReady := true
                            vdd := (List.range 8).map (fun d => if d < n then mv s.power.opp else 0) }
    fabric := { s.fabric with oePowered := (List.range 8).map (fun d => decide (d < n)) } }
  let s := (List.range n).foldl State.driveLaser s.computeMoved
  let s := ((List.range 32).filter s.lportEnabled).foldl (fun s l => s.updLport l (fun x => { x with state := 1 })) s
  { s with power := { s.power with fabricReady := true } }

/-- A device-class fault at start-up (R598, R682): no drain, since nothing has been admitted. -/
def State.startFault (s : State) (unit : Nat) : State :=
  (({ s with power := { s.power with fault := true, faultDrained := true, faultN := false }
             health := { s.health with log := { s.health.log with deviceFaults := s.health.log.deviceFaults + 1 } } }).recordFault unit 2 0).unitEvent unit

/-- The checkers that failed enter the health log (CHECKER_FAILED, R239, R241). -/
def State.recordChecks (s : State) : State := s.badCheckers.foldl (fun s c => s.integrity (Store.tier c.store) clsChecker) s

/-- The start-up steps 1 to 3, 5, 6 and 8 of R615, from a state whose dies have just been reset; steps 4 and 7 have rows of their own. A
device without a valid ROMX stops at ADMIN_READY (R574), one whose SCLK is stopped or whose flash-interface die fails stops on a device-class
fault, and one whose hub die fails goes no further (R598, R682). -/
def State.startUp (s : State) : State :=
  let s := s.volatileReset.deriveIdentity
  let s := { s with mgmt := { s.mgmt with addr := 0x30 + s.power.mgmtAddrPins % 8, smbOnly := s.power.mgmtSmbPin } }
  let s := if s.cfl.lowering.isSome then s.eraseSecrets else s
  let s := ((s.loadRecord).selectRomx).recordChecks
  if 0 ∈ s.power.failing then s
  else if !(alookup RefClock.sclk s.power.clocks).getD true then s.startFault 2
  else
    match s.badFlashDie with
    | some u => s.startFault u
    | none =>
      let s := { s with power := { s.power with adminReady := true } }
      if s.sec.running.isNone then s else s.startDies

/-! ### The end of a flush and of a drain -/

/-- Whether the sequence, not a drain, has just ended: the device holds itself FLUSHED until a package reset (R361, R606, R614). -/
def State.endFlush (s : State) (how : Nat) : State :=
  let (s, v) := s.freeNat
  let s := { s with
    power := { s.power with flushing := false, flushed := true, wpN := false }
    flash := { s.flash with plpEnd := how, plpEnergy := v % 300001, plpBytes := 16384 * s.flash.area.written.length, plpRolledBack := 0, plpPoisoned := 0 } }
  if s.power.resetWaits then s.startUp else s

/-- The end of a drain: the health log is saved (R632), NAND is write-protected (R614), and a waiting package reset goes on (R606, R607). -/
def State.endDrain (s : State) : State :=
  let s := { s with
    power := { s.power with draining := false, wpN := false, faultDrained := s.power.fault }
    health := { s.health with saved := s.health.log } }
  if s.power.resetWaits then s.startUp else s

/-- An index whose committed driftline entries the flash driftline log holds. -/
def Index.saveLog (x : Index) : Index :=
  let log (e : DEntry) : DEntry := { e with logged := e.logged || e.seq != 0 }
  { x with driftline := x.driftline.map log }

/-- Phase 5: the tails of the map journal and of every driftline log (R362, R365). -/
def State.saveTails (s : State) : State :=
  { s with flash := { s.flash with jdur := s.flash.jdur ++ s.flash.jbuf, jbuf := [], area := { s.flash.area with tailsSaved := true } }
           indexes := s.indexes.map Index.saveLog }

/-- One tick of a flush or drain: phases 1 to 5 take 25 ms, the pieces of phase 6 are programmed by NAND_PROGRAM_DONE, phase 7 takes 25 ms from the last
(R362; log entry 32). A flush stops at the time limit 1.0 s after PLP_N fell (R357); a drain has no limit (R607). -/
def State.flushTick (s : State) : State :=
  let t := s.now - s.flash.area.startedAt
  if (s.flash.area.deadline.map (fun d => decide (d ≤ s.now))).getD false then
    { s with flash := { s.flash with area := { s.flash.area with limit := some .time } } }.endFlush 1
  else if t < 25000 then s
  else
    let s := if s.flash.area.tailsSaved then s else s.saveTails
    let last := s.flash.area.writtenAt.getD (s.flash.area.startedAt + 25000)
    if !s.flash.area.todo.isEmpty || s.now < last + 25000 then s
    else
      let s := { s with flash := { s.flash with area := { s.flash.area with endRecord := true } } }
      if s.power.flushing then s.endFlush 4 else s.endDrain

/-! ### Replay (R376 to R380) -/

/-- Bytes of LDPC parity per codeword (R311). -/
def Profile.parityBytes (p : Profile) : Nat :=
  match p.parity with
  | 0 => 256
  | 1 => 384
  | 2 => 448
  | _ => 512

/-- The first profile that a LUN matches, by the ID and the model read from it (R311). -/
def lunProfile (ps : List Profile) (l : Nat × Bytes) : Option Profile := ps.find? (fun p => p.matchId == l.1 && p.model == l.2)

/-- Why a group is used or not (R309 to R312): its GROUP_STATE and its profile, from what every LUN of its channels answers. -/
def groupFit (img : Option Romx) (fit : GroupFit) : Nat × Option Profile :=
  let ps := (img.map (·.profiles)).getD []
  let luns := fit.channels.flatten
  if luns.isEmpty then (0, none)
  else if fit.channels.length ≠ 16 || fit.channels.any (fun c => c.length ≠ fit.luns) || 8 < fit.luns then (2, none)
  else
    match luns.head?.bind (lunProfile ps) with
    | none => (3, none)
    | some p =>
      if luns.all (fun l => lunProfile ps l = some p) && 4 * (16 + p.parityBytes) ≤ p.spare && p.blocks * p.ppb ≤ 2 ^ 24 then (1, some p) else (3, none)

/-- Step 1: every channel is identified and trained (R308 to R312, R614). -/
def State.identify (s : State) : State :=
  let fit (g : Nat) : Nat × Option Profile := match s.flash.fits[g]? with
    | some f => if g < Variant.dies s.variant then groupFit s.sec.image f else (0, none)
    | none => (0, none)
  { s with
    flash := { s.flash with groupState := (List.range 8).map (fun g => (fit g).1), profile := (List.range 8).filterMap (fun g => (fit g).2.map (fun p => (g, p))) }
    power := { s.power with wpN := true } }

/-- Whether a piece's segment reached the flush area whole (R366, R374). -/
def FlushArea.intact (a : FlushArea) (p : FPiece) : Bool := a.todo.all (fun q => !q.sameSegment p)

/-- Marks blocks of a page that no intact segment holds (R374). -/
def State.poisonBlocks (s : State) (ns lba n : Nat) : State :=
  (List.range n).foldl (fun s i =>
    let b := lba + i
    let e := s.mapAt ns (b / 4)
    let e := { e with poison := e.poison ||| 2 ^ (b % 4) }
    (s.mapSet ns (b / 4) e).journal s.lastSeq ns (b / 4) e 0) s

/-- Where a piece goes on flash: its unit, the blocks of the unit that it holds, the bytes of each, and those that take the POISON bit. -/
structure Placed where
  ns : Nat
  unit : Nat
  mask : Nat
  bytes : Bytes
  poison : Nat
  deriving DecidableEq, Repr

/-- The units that a run of four blocks meets, with `bs` in place (R376). -/
def placedRun (ns lba : Nat) (bad : List Nat) (bs : Bytes) : List Placed :=
  (unitsOf lba 4).map (fun u =>
    { ns := ns, unit := u.1, mask := u.2, bytes := padTo 16384 (slotData lba u.1 bs)
      poison := ((List.range 4).filter (fun b => bitAt u.2 b && bad.contains (4 * u.1 + b))).foldl (fun m b => m + 2 ^ b) 0 })

/-- What a piece puts on flash. -/
def State.placedOf (s : State) (p : FPiece) : List Placed :=
  let bytes := s.flash.area.mem.readN 0 (p.key * 16384) 16384
  match p.what with
  | .slot ns unit poison => [{ ns := ns, unit := unit, mask := 15, bytes := bytes, poison := poison }]
  | .page ns lba bad => placedRun ns lba bad bytes
  | .table ns k pg bad => ((s.index? ns).map (fun x => placedRun ns (4 * x.params.tableUnit k pg) bad bytes)).getD []

/-- The cells of a unit that a piece writes in part: the other blocks keep theirs, read with their POISON bits (R174, R332). -/
def State.mergeCells (s : State) (x : Placed) : Bytes × Nat :=
  let old := s.mapAt x.ns x.unit
  let astray := s.unitAstray x.ns x.unit
  let blk (b : Nat) : Bytes := if bitAt x.mask b then slice x.bytes (4096 * b) 4096 else s.cipherBlocks x.ns (4 * x.unit + b) (s.blockAt x.ns (4 * x.unit + b))
  ( (List.range 4).flatMap blk
  , (List.range 4).foldl (fun m b => if (if bitAt x.mask b then bitAt x.poison b else bitAt old.poison b || astray) then m + 2 ^ b else m) 0 )

/-- Programs one unit of a segment into a native superblock and verifies it, its record among those of the segment's journal group (R370, R376); whatever the
pressure on its group, since nothing else programs yet. None where no place is left. -/
def State.placeUnit (gid gsize seq : Nat) (o : Option State) (x : Placed) : Option State :=
  o.bind (fun s =>
    match s.placeAmong (fun _ => false) x.ns x.unit with
    | (_, none) => none
    | (t, some (loc, mirror)) =>
      let (cells, poison) := s.mergeCells x
      let e : MapEntry := { poison := poison, mirror := mirror, buf := false, loc := loc }
      some ((((t.programAt loc mirror x.ns x.unit seq cells).readBack mirror loc).mapSet x.ns x.unit e).journalIn gid gsize seq x.ns x.unit e 0))

/-- Step 4 for a segment that is applied: straight from the flush area to native superblocks, in one journal group (R370, R373, R376). None where its
units do not all find a place. -/
def State.applySegment (s : State) (ps : List FPiece) : Option State :=
  let xs := ps.flatMap s.placedOf
  let (t, gid) := s.newGroup
  xs.foldl (State.placeUnit gid xs.length ((ps.head?.map (·.seq)).getD 0)) (some t)

/-- The blocks of a page that no segment holds are poisoned (R374); those of a write's segment stay as they were. -/
def State.losePiece (s : State) (p : FPiece) : State :=
  match p.what with
  | .slot .. => s
  | .page ns lba _ => s.poisonBlocks ns lba 4
  | .table ns k pg _ => ((s.index? ns).map (fun x => s.poisonBlocks ns (4 * x.params.tableUnit k pg) 4)).getD s

/-- A segment that finds no place: what it holds reads as lost until a later start-up applies it (log entry 87). -/
def State.blockSegment (s : State) (ps : List FPiece) : State :=
  (ps.flatMap s.placedOf).foldl (fun s x => s.poisonBlocks x.ns (4 * x.unit) 4) s

/-- The first pieces of each segment, in order. -/
def segmentHeads : List FPiece → List FPiece
  | [] => []
  | p :: ps => p :: (segmentHeads ps).filter (fun q => !q.sameSegment p)

/-- Applies segments in order; answers the pieces of those that found no place. -/
def State.applySegments (all : List FPiece) : List FPiece → State → State × List FPiece
  | [], s => (s, [])
  | h :: hs, s =>
    let ps := all.filter (fun q => q.sameSegment h)
    match s.applySegment ps with
    | some t => State.applySegments all hs t
    | none =>
      let (t, left) := State.applySegments all hs (s.blockSegment ps)
      (t, ps ++ left)

/-- An index after commits that read as before (R374): their driftline entries go, and a merge of which a round is among them has not ended. -/
def Index.rollBack (x : Index) (seqs : List Nat) : Index :=
  let y := { x with driftline := x.driftline.filter (fun e => !seqs.contains e.seq) }
  match x.prior with
  | none => y
  | some b =>
    if b.rounds.any seqs.contains then
      let unfold (e : DEntry) : DEntry := { e with folded := false }
      { y with epoch := b.epoch, epochBase := b.base, entries := b.entries, driftline := b.freed ++ y.driftline.map unfold, prior := none
               reclaim := y.reclaim.filter (fun r => some r.1 ≠ b.rounds.getLast?) }
    else y

/-- Commits whose segment is lost read as before as a whole (R374): the units that they unmapped stay mapped, and so with their index operations. -/
def State.rollBack (s : State) (seqs : List Nat) : State :=
  let undone (r : JRec) : Bool := r.kind == 0 && r.entry == MapEntry.unmapped && seqs.contains r.seq
  let s := { s with flash := { s.flash with jdur := s.flash.jdur.filter (fun r => !undone r) }, indexes := s.indexes.map (fun (x : Index) => x.rollBack seqs) }
  { s with flash := { s.flash with map := s.flash.durableMap.filter (fun e => e.2 ≠ MapEntry.unmapped) } }

/-- How the last sequence ended, from what its area holds (R380). -/
def FlushArea.ended (a : FlushArea) (last : Nat) : Nat :=
  if a.endRecord then last
  else match a.limit with
    | some .time => 1
    | some .energy => 2
    | some .power => 3
    | none => 5

/-- The commits and tensor pages that R374 rolled back or poisoned, with the bytes flushed (R380); a sequence that ended by loss of supply has told
nobody the energy that it drew, a free value. -/
def State.noteSequence (s : State) (a : FlushArea) (lost : List FPiece) : State :=
  let how := a.ended s.flash.plpEnd
  let seqs := ((lost.filter (fun p => p.what.isSlot)).map (·.seq) ++ (if a.tailsSaved then [] else a.tailSeqs)).eraseDups
  let pages := (lost.filter (fun p => match p.what with
    | .page .. => true
    | _ => false)).length
  -- a drain is no power-loss sequence: STORE_INFO keeps telling of the last one (R380, R607)
  if a.deadline.isNone then s
  else
    let (t, v) := s.freeNat
    let s := if how = 5 then { t with flash := { t.flash with plpEnergy := v % 300001 } } else s
    { s with flash := { s.flash with plpEnd := how, plpBytes := 16384 * a.written.length, plpRolledBack := seqs.length, plpPoisoned := pages } }

/-- Step 4 of replay (R373, R374, R378, R380). What finds no place stays in the area. -/
def State.applyArea (s : State) : State :=
  let a := s.flash.area
  if !a.present then s
  else
    let all := a.written ++ a.todo
    let good := all.filter (fun p => a.endRecord || a.intact p)
    let lost := all.filter (fun p => !(a.endRecord || a.intact p))
    let s := s.rollBack ((lost.filter (fun p => p.what.isSlot && p.grp == 0)).map (·.seq)).eraseDups
    let (s, left) := State.applySegments good (segmentHeads good) s
    let s := (lost.foldl State.losePiece s).noteSequence a lost
    { s with flash := { s.flash with area := { a with written := left, todo := [], endRecord := true, deadline := none } } }

/-- Erases blocks of a superblock again before use, one erase more for each that has not failed (R349); a superblock that is blank as a whole is free. -/
def State.eraseBlocks (s : State) (x : Superblock) (p : BlockAt → Bool) : State :=
  let mine := (s.blocksUp x).filter p
  let hit (m : Nat) : Bool := mine.any (fun b => b.member == m)
  let s := mine.foldl (fun s b => s.blockEvent b 2) (s.blankPages (fun q => mine.contains (s.flash.blockOf q.loc).1))
  let all := mine == s.blocksUp x
  s.updSb x.group x.sb (fun y =>
    { y with erases := (y.erases.zipIdx).map (fun e => if hit e.2 then e.1 + 1 else e.1), reads := (y.reads.zipIdx).map (fun e => if hit e.2 then 0 else e.1)
             state := if all then .free else y.state, nextUnit := if all then 0 else y.nextUnit, refresh := y.refresh && !all })

/-- Step 6 of replay: every block with an ERASE_OPEN and no ERASE_DONE in the journal is erased again, and the flush area is erased, ERASE_OPEN first,
once step 4 has been journalled in full (R349, R376, R378). -/
def State.redoErases (s : State) : State :=
  let open_ := s.flash.jdur.filter s.flash.eraseStands
  let standing (b : BlockAt) : Bool := open_.any (fun r => r.block = b)
  let s := (s.flash.sbs.filter (fun x => open_.any (fun r => x.has r.block))).foldl (fun s x => s.eraseBlocks x standing) s
  if !s.flash.area.written.isEmpty || s.flash.jbuf.any (fun r => r.kind == 0) || s.flash.jdur.any (fun r => r.loc = 0) then s
  else
    let mine := s.flash.sbs.filter (fun x => s.flash.area.sbs.contains (x.group, x.sb))
    let s := (mine.foldl (fun s x => s.sbEvent x 1) s).journalOut (fun _ => true)
    if s.flash.jbuf.any (fun r => r.kind == 1) then s
    else
      let s := mine.foldl (fun s x => s.eraseBlocks x (fun _ => true)) s
      { s with flash := { s.flash with area := FlushArea.empty } }

/-- Journal records that the flush saved in its area go to SLC journal superblocks (R338, R378). -/
def State.rewriteTails (s : State) : State :=
  let (t, rs) := s.writeByDie (s.flash.jdur.filter (fun r => r.loc = 0))
  { t with flash := { t.flash with jdur := t.flash.jdur.filter (fun (r : JRec) => r.loc ≠ 0) ++ rs } }

/-- Steps 2 and 3 of replay: a checkpoint with a page that cannot be read is not valid, and on each die the journal stops at the first record that
cannot (R376). -/
def State.readJournal (s : State) : State :=
  let bad (r : JRec) : Bool := r.loc != 0 && s.rowLost r.loc
  let stops := (s.flash.jdur.filter bad).map (·.die)
  let good := s.flash.jdur.zipIdx.filter (fun r => !stops.contains r.1.die || !(s.flash.jdur.take (r.2 + 1)).any (fun q => q.die == r.1.die && bad q))
  { s with flash := { s.flash with jdur := good.map (·.1), ckpts := s.flash.ckpts.filter (fun c => !c.pages.any s.rowLost) } }

/-- The objects that a namespace's object table holds on flash (R322): an entry in a block that cannot be read is absent (log entry 80). -/
def State.objectsOf (s : State) (n : Ns) : List Obj :=
  let units := (s.flash.map.filter (fun e => e.1.1 = n.nsid && decide (e.1.2 < ceilDiv n.tableBlocks 4))).map (fun e => e.1.2)
  let ofBlock (lba : Nat) : List Obj :=
    let bs := s.blockAt n.nsid lba
    if n.tableBlocks ≤ lba || s.blockBad n.nsid lba then []
    else (List.range 256).filterMap (fun i =>
      let flags := field bs (16 * i + 10) 1
      if bitAt flags 0 && decide (256 * lba + i < n.objects) then
        some { ns := n.nsid, obj := 256 * lba + i, first := field bs (16 * i) 5, length := field bs (16 * i + 5) 5, redundant := bitAt flags 1 }
      else none)
  units.flatMap (fun u => (List.range 4).flatMap (fun b => ofBlock (4 * u + b)))

/-- Every object namespace as its table gives it (R322, R372, R374). -/
def State.readObjects (s : State) : State := { s with flash := { s.flash with objs := (s.flash.ns.filter (fun n => n.type = 1)).flatMap s.objectsOf } }

/-- Steps 4 and 5 of R566: every encrypted namespace is emptied in one commit and takes a new key; the new level stands. -/
def State.finishLowering (s : State) : State :=
  match s.cfl.lowering with
  | none => s
  | some target =>
    let (s, seq) := s.takeSeq
    let enc := (s.flash.ns.filter (·.encrypt)).map (·.nsid)
    let s := enc.foldl (fun s n => s.emptyNs n seq) s
    let s := enc.foldl (fun s n =>
      let k := s.sec.drbg + 1
      let put (x : Ns) : Ns := { x with keyGen := k, keyLost := false }
      { s with flash := { s.flash with ns := mapIf (fun x => x.nsid = n) put s.flash.ns }
               sec := { s.sec with drbg := k, keySlots := setAt n k s.sec.keySlots, keyGens := setAt n (s.sec.keyGens.getD n 0 + 1) s.sec.keyGens } }) s
    { s with cfl := { s.cfl with protLevel := target, protCounter := s.cfl.protCounter + 1, lowering := none } }

/-- Replay from its first step to STORAGE_READY (R376, R377), with event 0x005 where the last sequence ended badly (R380). -/
def State.finishReplay (s : State) : State :=
  let s := s.identify.readJournal
  let s := { s with flash := { s.flash with map := s.flash.durableMap.filter (fun e => e.2 ≠ MapEntry.unmapped), slots := [], slotMem := [], jbuf := [] } }
  let told := s.flash.area.present && s.flash.area.deadline.isSome
  let s := ((((s.applyArea).journalOut (fun _ => true)).rewriteTails).redoErases).readObjects
  let s := s.indexes.foldl State.restage s
  let s := s.finishLowering
  let s := { s with power := { s.power with replaying := false, replayed := true, storageReady := true, groupsInUse := s.flash.groups } }
  let s := s.testReadOnly.rebuildHurt.forceMerge
  if told && s.flash.plpEnd ≠ 4 && s.flash.plpEnd ≠ 0 then s.raise 5 0 s.flash.plpEnd .device else s

/-! ### Events on the power pins -/

/-- What an event that can start the package up tells of the board: the checkers' answers and failing units (R239, R682), what the LUNs of each
channel answer where it tells of them (R311), whether the stored tunables can be read (R346), and which namespaces' keys cannot (R584). -/
def State.boardFinds (s : State) (b : Board) : State :=
  { s with power := { s.power with checks := b.checks, failing := b.failing }
           flash := { s.flash with fits := if b.nand.isEmpty then s.flash.fits else b.nand }
           cfg := { s.cfg with tunablesLost := s.cfg.tunablesLost || b.tunablesLost }
           sec := { s.sec with keysBad := b.keysLost.foldl (fun l n => addOnce n l) s.sec.keysBad } }

/-- The same, with the reference clocks that are back. -/
def State.boardSays (s : State) (b : Board) : State :=
  { (s.boardFinds b) with power := { (s.boardFinds b).power with clocks := s.power.clocks.map (fun c => (c.1, c.2 || decide (c.1 ∈ b.back))) } }

/-- POWER_ON: PWRGD rises, with every reference clock supplied (R594), and the package starts up (R615). In the power-loss sequence and in FLUSHED only a package reset does (R361). -/
def execPowerOn (board : Board) (s : State) : Res :=
  .next (if s.power.pwrgd then s
    else
      let all : List (RefClock × Bool) := s.power.clocks.map (fun c => (c.1, true))
      let s := s.boardFinds board
      let s := { s with power := { s.power with pwrgd := true, clocks := all } }
      if s.power.flushing || s.power.flushed || s.power.draining then s
      else { s with power := { s.power with powered := true } }.startUp)

/-- A filtered fall of PLP_N or of PWRGD (R360, R379, R592, R607). -/
def State.lossSignal (s : State) : State :=
  if s.power.flushing || s.power.flushed then s
  else if s.power.draining then
    { s with power := { s.power with draining := false, flushing := true }
             flash := { s.flash with area := { s.flash.area with deadline := some (s.now + 1000000) } } }
  else if s.power.storageReady then s.endExcursions.startFlush false
  else if s.power.replaying then { s with power := { s.power with replaying := false } }
  else s

/-- PWRGD_FALL (R592). -/
def execPwrgdFall (s : State) : Res := .next ({ s with power := { s.power with pwrgd := false } }.lossSignal)

/-- PLP_N_FALL (R360 to R365, R379). -/
def execPlpNFall (s : State) : Res := .next ({ s with power := { s.power with plpN := false } }.lossSignal)

/-- FLUSH_LIMIT_REACHED (R357, R380): the flush stops at once and leaves the mark of the limit. -/
def execFlushLimitReached (limit : FlushLimit) (s : State) : Res :=
  .next (if s.power.flushing then
      { s with flash := { s.flash with area := { s.flash.area with limit := some limit } } }.endFlush (match limit with
        | .time => 1
        | .energy => 2
        | .power => 3)
    else s)

/-- POWER_REMOVED (R379, R380, R633): the supply goes, and with it everything volatile. Running excursions enter the log with their duration. -/
def execPowerRemoved (s : State) : Res :=
  .next ({ s with power := { s.power with powered := false, pwrgd := false } }.volatileReset)

/-- REPLAY_START (R616): ADMIN_READY is set, every die in service has finished step 5 and PLP_N has been high for 10 ms. -/
def execReplayStart (s : State) : Res :=
  .next (if s.power.adminReady && s.power.computeReady && !s.power.storageReady && !s.power.replaying && !s.silent then
      { s with power := { s.power with plpN := true, replaying := true } }
    else s)

/-! ### Resets -/

/-- A package reset (R606, R607, R625): a drain first where anything can be dirty, else start-up at once. -/
def State.packageReset (s : State) : State :=
  if !s.power.powered then s
  else if s.power.flushing || s.power.draining then { s with power := { s.power with resetWaits := true } }
  else if s.power.flushed || s.power.fault || !s.power.storageReady then s.startUp
  else { (s.startFlush true) with power := { (s.startFlush true).power with resetWaits := true } }

/-- PKG_RESET: a write of DEV_CTRL by a PF; PKG_RESET set with KEY 0xA5 (device register fields, R607). -/
def execPkgReset (f : Fn) (value : W32) (board : Board) (s : State) : Res :=
  .next (if s.fnAlive f && !isVf f && bitAt value.toNat 0 && bits value.toNat 8 8 == 0xA5 then (s.boardSays board).packageReset else s)

/-- PACKAGE_RESET: both PERST_N low for 1 µs with PCIE_SPLIT high, or PERST_N asserted in FLUSHED (R606). -/
def execPackageReset (board : Board) (s : State) : Res := .next (s.boardSays board).packageReset

/-- Drops a command with no completion: the commands that depend on it take it as failed (R503, R504). -/
def State.dropSilently (s : State) (id : CmdId) : State :=
  match s.outst? id with
  | none => s
  | some o =>
    let s := s.abandon id
    let left := (s.host.outst.filter (fun x => x.id ≠ id)).map (Outst.depDone id.queue o.serial id.tag false)
    State.settle 32 { s with host := { s.host with outst := stampReady s.now s.host.outst left, held := s.host.held.filter (fun h => h.id ≠ id) } }

/-- The array operation that a port reset interrupts (R562): its page or sector is left undefined, no record of it is kept, and its command, which host
software must give again (R519), gets no completion (log entry 88). -/
def State.interruptCfl (s : State) : State :=
  let s : State := { s with cfl := { s.cfl with undefinedAt := s.cfl.interrupted } }
  let s := match s.cfl.op.bind (·.id) with
    | some id => s.dropSilently id
    | none => s
  { s with cfl := { s.cfl with op := none } }

/-- A port reset (R608): the link goes down, and the functions' configuration space and registers return to their After reset values. -/
def State.portReset (s : State) (p : Nat) : State :=
  let s := (s.linkDown p).interruptCfl
  let other (f : Fn) : Bool := fnPort f != p
  { s with
    host := { s.host with
      ports := modifyAt (fun x => { x with numVfs := 8, vfEnable := false }) p s.host.ports
      msixTable := s.host.msixTable.filter (fun e => other e.1), msixPba := s.host.msixPba.filter (fun e => other e.1), fnD3 := s.host.fnD3.filter other }
    sec := { s.sec with ide := s.sec.ide.filter (fun e => other e.1) } }

/-- PERST_ASSERT (R562, R606, R608): with PCIE_SPLIT low, PERST0_N alone counts and resets the package. -/
def execPerstAssert (port : Nat) (board : Board) (s : State) : Res :=
  let t := (s.boardSays board).updPort port (fun x => { x with perstN := false })
  .next (if !s.power.powered || !(s.port port).perstN then t
    else if !s.host.splitSampled && port ≠ 0 then t
    else if s.power.flushed || !s.host.splitSampled then t.packageReset
    else t.portReset port)

/-- PERST_RELEASE (R609, R611): the first release after a package reset samples PCIE_SPLIT; link training starts. -/
def execPerstRelease (port : Nat) (s : State) : Res :=
  let t := s.updPort port (fun x => if x.perstN then x else { x with perstN := true, releasedAt := s.now })
  .next (if s.power.powered && t.host.splitPending then
      { t with host := { t.host with splitSampled := t.host.splitStrap, splitPending := false } }
    else t)

/-! ### Writes of registers -/

/-- A 4-byte write of BAR0: DEV_CTRL here, every other register as `State.writeReg4` says. -/
def State.writeBar0 (s : State) (f : Fn) (off v : Nat) : State :=
  if off = 0x200 then (if !isVf f && bitAt v 0 && bits v 8 8 == 0xA5 then s.packageReset else s) else s.writeReg4 f off v

/-- REGISTER_WRITE: 4 or 8 bytes aligned to their size, else discarded (R485). -/
def execRegisterWrite (f : Fn) (off size : Nat) (v : W64) (s : State) : Res :=
  .next (
    if !s.fnAlive f || f ∈ s.host.fnD3 then s
    else if size = 4 && off % 4 = 0 then s.writeBar0 f off (v.toNat % 2 ^ 32)
    else if size = 8 && off % 8 = 0 then (s.writeBar0 f off (v.toNat % 2 ^ 32)).writeBar0 f (off + 4) (v.toNat / 2 ^ 32)
    else s)

end Sys2Proof.Machine
end

