-- ==== Sys2Proof/Machine/Index.lean ====
section
/-!
DEFINITION. Index objects (chapter *Vector search*): node records, the staged tables with their dirty pages, the driftline, and the binding
and the commit point of inserts and deletes (R244 to R253, R265 to R267, R278).
-/
namespace Sys2Proof.Machine

open Sys2Proof

/-! ### Node records (R247) -/

/-- The offset of the first field that an IDX_INSERT record has wrong (R247, R532). -/
def nodeFault (p : IdxParams) (b : Bytes) : Option Nat :=
  let bad : List (Nat × Bool) :=
    [ (0x000, decide (p.idLimit ≤ recNode b)), (0x005, field b 5 1 ≠ p.vformat), (0x006, field b 6 1 ≠ 0), (0x007, field b 7 1 ≠ 0)
    , (0x018, recInsertSeq b ≠ 0), (0x020, recDeleteSeq b ≠ 0), (0x028, field b 0x28 2 ≠ p.dim), (0x02A, !zeroAt b 0x2A 6)
    , (0x030, !zeroAt b 0x30 320), (0x177, field b 0x177 1 ≠ 0), (0x178, !zeroAt b 0x178 8)
    , (0x1A0, decide (p.sketchBits = 256) && !zeroAt b 0x1A0 32), (0x1C0, !zeroAt b 0x1C0 64)
    , (0x200 + p.elemBytes * p.dim, (firstNonzero b (0x200 + p.elemBytes * p.dim) 4096).isSome) ]
  (bad.find? (·.2)).map (·.1)

/-! ### The staged tables (R249 to R251) -/

/-- Marks table pages dirty under a commit (R180, R251). -/
def Index.touch (x : Index) (seq : Nat) (pages : List (Nat × Nat)) : Index :=
  let ps := pages.eraseDups
  { x with dirty := x.dirty.filter (fun e => (e.1, e.2.1) ∉ ps) ++ ps.map (fun q => (q.1, q.2, seq)) }

/-- How many of some pages are not dirty yet. -/
def Index.newPages (x : Index) (pages : List (Nat × Nat)) : Nat :=
  (pages.eraseDups.filter (fun q => !x.dirty.any (fun e => e.1 = q.1 && e.2.1 = q.2))).length

/-- Whether an identifier's directory entry lies in a poisoned sector (R280). -/
def Index.dirBad (x : Index) (node : Nat) : Bool := decide (5 * node / 32 ∈ x.dirPoison) || decide ((5 * node + 4) / 32 ∈ x.dirPoison)

/-- The lowest free slot (R266). -/
def Index.lowestFree (x : Index) : Option Nat := firstBelow (min x.params.slots (x.usedSlots.length + 1)) (fun i => i ∉ x.usedSlots)

/-! ### Binding an insert or a delete (R266) -/

/-- The entry that a command writes while it has not committed: SEQ 0 (R265). -/
def openEntry (id : CmdId) (node slot filter : Nat) (sketch : Bytes) (ins : Bool) : DEntry :=
  { seq := 0, node := node, slot := slot, isInsert := ins, filter := filter, sketch := sketch, owner := some id, folded := false, poisoned := false }

/-- The checks of an insert's record that every insert meets at its binding (R278, R280, R354, R532). -/
def State.insertChecks (s : State) (x : Index) (b : Bytes) : Chk Nat := do
  match nodeFault x.params b with
  | some off => failWith .indexParamInvalid off
  | none => .ok ()
  need (!s.flash.readOnly) .mediaReadOnly 0
  need (!s.poolFull && !s.flash.driftFull) .driftlineFull 0
  need (!x.dirBad (recNode b)) .dataPoisoned 0
  match x.lowestFree with
  | none => failWith .resourceExhausted 0xFFFF
  | some slot => .ok slot

/-- Writes an insert's record, sketch entry and driftline entry, with its slot taken (R266). -/
def State.bindInsert (s : State) (id : CmdId) (ns slot : Nat) (b : Bytes) : State :=
  let b := overlay b 0x20 (leBytes 8 noDelete)
  let e := openEntry id (recNode b) slot (recFilter b) (recSketch b) true
  let s := s.writeBlocks id ns slot 1 b
  let s := s.updIndex ns (fun x => { x with sketches := ainsert slot (recSketch b, recFilter b) x.sketches, usedSlots := x.usedSlots ++ [slot]
                                            driftline := x.driftline ++ [e] })
  (match s.index? ns with
   | some x => s.tableWrite (x.sketchAddr slot) x.params.entryBytes
   | none => s).forceMerge

/-- Writes a delete's driftline entry (R266). -/
def State.bindDelete (s : State) (id : CmdId) (ns node : Nat) : State :=
  (s.updIndex ns (fun x => { x with driftline := x.driftline ++ [openEntry id node 0 0 [] false] })).forceMerge

/-! ### The commit point of inserts and deletes (R266, R267) -/

/-- The uncommitted entries of a command, by namespace, in the order in which they were written. -/
def State.openEntries (s : State) (id : CmdId) : List (Nat × DEntry) :=
  s.indexes.flatMap (fun x => (x.driftline.filter (fun e => e.owner = some id)).map (fun e => (x.ns, e)))

/-- What R267 answers for an entry, as the directory stands; a sector of it that holds poison answers for itself (R280). -/
def Index.judge (x : Index) (e : DEntry) : Status :=
  if x.dirBad e.node then .dataPoisoned
  else
    match e.isInsert, alookup e.node x.directory with
    | true, some _ => .idInUse
    | false, none => .notFound
    | _, _ => .ok

/-- The directory entries that a command's entries name are read at its commit point (R217, R267). -/
def State.readDirectory (s : State) (id : CmdId) : State :=
  (s.openEntries id).foldl (fun s e => match s.index? e.1 with
    | some x => s.look (x.dirAddr e.2.node) 5
    | none => s) s

/-- Whether a directory entry that a command's entries name cannot be read (R280). -/
def State.directoryBad (s : State) (id : CmdId) : Bool :=
  (s.openEntries id).any (fun e => ((s.index? e.1).map (fun x => x.dirBad e.2.node)).getD false)

/-- Table pages that committing a command's entries dirties and that are clean now (R181, R182). -/
def State.indexPieces (s : State) (id : CmdId) : Nat :=
  (s.indexes.map (fun x =>
    x.newPages ((x.driftline.filter (fun e => e.owner = some id)).flatMap (fun e =>
      Index.dirPages e.node ++ (if e.isInsert then x.sketchPages e.slot else []))))).sum

/-- Puts INSERT_SEQ into the record that a command's write-buffer slot holds. -/
def State.stampRecord (s : State) (id : CmdId) (ns slot seq : Nat) : State :=
  match (s.pendSlots id).find? (fun w => w.ns = ns && w.unit = slot / 4 && bitAt w.mask (slot % 4)) with
  | none => s
  | some w =>
    { s with flash := { s.flash with slotMem := s.flash.slotMem.writeN 0 (w.sid * 16384 + slot % 4 * 4096 + 0x18) (leBytes 8 seq) } }

/-- Commits one entry of an index: the directory, the entry with its SEQ at the end of the list, the dirty pages (R180, R266). -/
def Index.commitEntry (x : Index) (seq : Nat) (e : DEntry) : Index :=
  let y := x.removeEntries (fun d => d = e)
  if e.isInsert then
    Index.touch { y with directory := ainsert e.node e.slot x.directory, driftline := y.driftline ++ [{ e with seq := seq, owner := none }] } seq
      (Index.dirPages e.node ++ x.sketchPages e.slot)
  else
    let slot := (alookup e.node x.directory).getD 0
    let sk := (alookup slot x.sketches).getD ([], 0)
    Index.touch { y with directory := aerase e.node x.directory
                         driftline := y.driftline ++ [{ e with seq := seq, owner := none, slot := slot, filter := sk.2, sketch := sk.1 }] } seq
      (Index.dirPages e.node)

/-- A write-buffer slot goes, with its place among its command's changes. -/
def State.dropSlot (s : State) (id : CmdId) (sid : Nat) : State :=
  { s with flash := { s.flash with slots := s.flash.slots.filter (fun x => x.sid ≠ sid)
                                   slotMem := s.flash.slotMem.clear (sid * 16384) 16384
                                   pend := ainsert id ((s.pendOf id).filter (fun p => p ≠ .slot sid)) s.flash.pend } }

/-- An entry that R267 refuses goes, and an insert's slot and record with it. -/
def State.refuseEntry (s : State) (id : CmdId) (ns : Nat) (e : DEntry) : State :=
  let s := s.updIndex ns (fun x => x.dropEntries (fun d => d = e))
  if e.isInsert then
    match (s.pendSlots id).find? (fun w => w.ns = ns && w.unit = e.slot / 4 && bitAt w.mask (e.slot % 4)) with
    | some w => s.dropSlot id w.sid
    | none => s
  else s

/-- Takes a command's entries through the commit point one at a time (R267); answers the entries that were refused. -/
def State.commitEntries (id : CmdId) (seq : Nat) : List (Nat × DEntry) → State → State × List (Nat × DEntry)
  | [], s => (s, [])
  | (ns, e) :: rest, s =>
    match s.index? ns with
    | none => State.commitEntries id seq rest s
    | some x =>
      if x.judge e = .ok then
        let s := if e.isInsert then s.stampRecord id ns e.slot seq else s
        State.commitEntries id seq rest ((s.updIndex ns (fun x => { x.commitEntry seq e with ctx := qCtx id.queue })).tableWrite (x.dirAddr e.node) 5)
      else
        let (s, bad) := State.commitEntries id seq rest (s.refuseEntry id ns e)
        (s, (ns, e) :: bad)

end Sys2Proof.Machine
end

