-- ==== Sys2Proof/Machine/Faults.lean ====
section
/-!
DEFINITION. Faults and their containment (chapter *Faults, health and management*): single faults, device-class faults, the watchdogs of
the control complex and the loss of a reference clock.
-/
namespace Sys2Proof.Machine

open Sys2Proof

/-- The sliced command that runs in a partition. -/
def State.slicedRunning (s : State) (p : Nat) : Option CmdId := ((List.range 16).findSome? (fun c => s.runningSliced p c)).map (·.id)

/-! ### Moving carried state when cores leave (R194, R620) -/

/-- Marks poisoned in the save area what was dirty only in a lost core's tidepool. -/
def State.loseCore (s : State) (p c core flat : Nat) : State :=
  let dirty := (s.tpDirty.filter (fun d => d.1 = flat)).map (·.2)
  let s := dirty.foldl (fun s r => s.putMarks p c core r (saveSectors core r)) s
  { s with tpDirty := s.tpDirty.filter (fun d => d.1 ≠ flat) }

/-- Moves the tidepool state of the context that holds the slice from the cores in `old` to the cores that now take its declared cores. -/
def State.moveCores (s : State) (p : Nat) (old : List Nat) (gone : List Nat) : State :=
  let new := s.runCores p
  let h := (s.partRt p).lastHolder
  let s := old.zipIdx.foldl (fun s x =>
    if new[x.2]? = some x.1 then s
    else if x.1 ∈ gone then s.loseCore p h x.2 x.1
    else s.saveCore p h x.2 x.1) s
  new.zipIdx.foldl (fun s x => if old[x.2]? = some x.1 then s else s.loadCore p h x.2 x.1) s

/-- Cores leave service: the partition's running sliced command is hit and the carried state moves (R619, R620). `gone` are the cores
whose tidepool is lost; `out` marks the units. Answers the number of commands killed. -/
def State.coresDown (s : State) (k : Nat) (gone : List Nat) (unit : Nat) (out : State → State) : State × Nat :=
  match s.clusterOwner k with
  | none => (out s, 0)
  | some p =>
    let old := s.runCores p
    let hit := s.slicedRunning p
    let s := match hit with
      | some id => s.faultKill id unit
      | none => s
    ((out s).moveCores p old gone, if hit.isSome then 1 else 0)

/-- A walker has gone: its queries start again on the partition's other walkers; with none left they fail (R256, R619). -/
def State.walkerDown (s : State) (k unit : Nat) : State :=
  let s := { s with queries := mapIf (fun q => q.walker = some k) Query.restart s.queries }
  match s.clusterOwner k with
  | none => s
  | some p =>
    if (maskList 32 (s.entry p).clusterMask).all (fun j => s.unitDown 5 j || !s.dieUp (j / 4)) then
      let ids := ((s.queries.filter (fun q => (qPart q.id.queue) = some p)).map (·.id)).eraseDups
      ids.foldl (fun s id => s.failRun id .unitFault unit) s
    else s

/-! ### Device-class faults (R624 to R627) -/

/-- What lies only in a failed die goes: its write-buffer slots, dirty pages and journal records (R626). With `all` everything does. -/
def State.loseDie (s : State) (die : Nat) (all : Bool) : State :=
  let slotGone (x : Slot) : Bool := x.seq.isSome && (all || s.unitDie x.unit == die)
  let pageGone (t : Tensor) (e : Nat × Nat × Nat) : Bool := all || nmDie (t.desc.bases.getD e.1 0) == die
  let tableGone (x : Index) (e : Nat × Nat × Nat) : Bool := all || (x.pageSpans e.1 e.2.1).any (fun a => nmDie a.1 == die)
  let lost := s.flash.slots.any slotGone || s.tensors.any (fun t => t.dirty.any (pageGone t)) || s.indexes.any (fun x => x.dirty.any (tableGone x)) ||
    s.flash.jbuf.any (fun r => all || r.die == die) || (all && s.indexes.any (fun x => x.driftline.any (fun e => e.seq != 0 && !e.logged)))
  let trim (t : Tensor) : Tensor := { t with dirty := t.dirty.filter (fun e => !pageGone t e) }
  let trimIdx (x : Index) : Index := { x with dirty := x.dirty.filter (fun e => !tableGone x e) }
  let s := { s with
    flash := { s.flash with slots := s.flash.slots.filter (fun x => !slotGone x), jbuf := s.flash.jbuf.filter (fun r => !(all || r.die == die)) }
    tensors := s.tensors.map trim
    indexes := s.indexes.map trimIdx }
  if lost then { s with health := { s.health with log := { s.health.log with uncleanStops := s.health.log.uncleanStops + 1 } } } else s

/-- A device-class fault (R625): FAULT, FAULT_N and event 0x009; every run is killed and every fetched command completes with DEVICE_FAULT;
then the drain, unless the hub die or SCLK has failed. Without SCLK nothing is drained, but the health log is saved (R626, R632; DEDUCED);
without the hub die nothing can save it. `failed` tells that the unit itself has failed, and what lay only in it is lost; a die
that is only too hot still drains. -/
def State.deviceFaultOf (s : State) (unit : Nat) (failed : Bool) : State :=
  if s.power.fault || !s.power.powered || s.silent then s
  else
    let live := s.host.outst.filter (fun o => o.phase ≠ .posted)
    let s := { s with power := { s.power with fault := true, faultN := false }
                      health := { s.health with log := { s.health.log with deviceFaults := s.health.log.deviceFaults + 1 } } }
    let down := s.health.log.outOfService
    let s := s.recordFault unit 2 (live.filter (fun o => o.phase = .running)).length
    let s := if failed then s else { s with health := { s.health with log := { s.health.log with outOfService := down } } }
    let s := s.unitEvent unit
    -- the later first, so that no command completes for its dependency's sake (R504)
    let s := live.reverse.foldl (fun s o =>
      let bs := if (s.failBytes o.id).isEmpty then s.unstartedFailBytes o else s.failBytes o.id
      (s.abandonWith o.id .deviceFault).completeId o.id .deviceFault 0 bs) s
    let all := failed && (unit == 0 || unit == 2)
    let die := if failed then dieOfUnit unit else none
    let s := if s.power.storageReady && (all || die.isSome) then s.loseDie (die.getD 0) all else s
    let s := match die with
      | some d =>
        let s := { s with power := { s.power with diesInService := s.power.diesInService.filter (· ≠ d) } }
        (dieCodes d).foldl State.putOut s
      | none => s
    if s.power.storageReady && !all then s.startFlush true
    else
      let s := { s with power := { s.power with faultDrained := true } }
      if unit = 0 then s else { s with health := { s.health with saved := s.health.log } }

/-- A device-class fault whose unit has failed. -/
def State.deviceFault (s : State) (unit : Nat) : State := s.deviceFaultOf unit true

/-- DEVICE_CLASS_FAULT: the failure of a die, a stack, the hub die or SCLK (R624); the temperature limit is TEMP_SAMPLE's. -/
def execDeviceClassFault (unit : Nat) (s : State) : Res := .next (s.deviceFault unit)

/-! ### Single faults (R619) -/

/-- The logical port of a lane (R419): in the 2 × 400G mode the upper four lanes belong to port B. -/
def State.laneLport (s : State) (lane : Nat) : Nat := 2 * (lane / 8) + (if s.portMode (lane / 8) = 2 && 4 ≤ lane % 8 then 1 else 0)

/-- A plane fails for every ring (R440, R441, R619). -/
def State.planeDown (s : State) (plane : Nat) : State :=
  let uses := s.fabric.rings.filter (fun r => r.forming.isNone && decide (plane ∈ r.planeList))
  uses.foldl (fun s r => (s.failPlane r.handle plane true).failPlane r.handle plane false) s

/-- The dies of near-memory addresses. -/
def diesOf (l : List Nat) : List Nat := ((l.filter (fun a => decide (nmBase ≤ a) && decide (a < hostWindow))).map nmDie).eraseDups

/-- Whether a transfer between a die and a map unit of a namespace passes a mesh link: to the die whose write buffer holds the unit, or to the
die through which its flash channel is reached (R16, R18, R327). -/
def State.unitPasses (s : State) (lo hi die ns unit : Nat) : Bool :=
  let e := s.mapAt ns unit
  if e.buf then s.crosses lo hi die (s.unitDie unit)
  else if e.loc = unmappedLoc then false
  else s.crosses lo hi die (s.entryDie die (e.loc / 2 ^ 27))

/-- Whether staging or write-back of a tensor passes a mesh link: between its home die and the units of its backing object (R18, R172). -/
def State.backingPasses (s : State) (lo hi h : Nat) : Bool :=
  match s.tensor? h with
  | none => false
  | some t =>
    let (ns, o) := backingOf t.desc.backing
    match s.obj? ns o with
    | none => false
    | some obj => (List.range (ceilDiv (obj.first + ceilDiv obj.length 4096) 4 - obj.first / 4)).any (fun i =>
        (if t.desc.base = 0 then (List.range (Variant.dies s.variant)).filter (fun d => t.home = d || t.home = 0xFF) else [nmDie t.desc.base]).any (fun d =>
          s.unitPasses lo hi d ns (obj.first / 4 + i)))

/-- Whether a query's walker passes a mesh link: to the tables of its index, or to a record that it waits for (R16, R18). -/
def State.queryPasses (s : State) (lo hi : Nat) (q : Query) : Bool :=
  match q.walker with
  | none => false
  | some w =>
    (((s.indexes.filter (fun x => x.ns = q.ns)).flatMap (fun x => diesOf x.allocs)).any (s.crosses lo hi (w / 4))) ||
      q.outstanding.any (fun slot => s.unitPasses lo hi (w / 4) q.ns (slot / 4))

/-- The dies of the ports through which a command's collective operation runs: an optical engine's four logical ports lie on its die (R419). -/
def State.ringDies (s : State) (id : CmdId) : List Nat :=
  ((s.fabric.rings.filter (fun r => (r.current.map (·.id)) = some id)).flatMap (fun r => (r.planeList.filterMap s.lportOf).map (· / 4))).eraseDups

/-- Whether a running command moves data over a mesh link (R16, R18, R619): between a core of its run and the home die of a tensor that it has
bound, between such a die and the ports of its collective operation, whose link adders read SRC and write DST, between two tensors that it copies,
for a walk, or to and from the flash store for staging and write-back. -/
def State.movesOver (s : State) (lo hi : Nat) (id : CmdId) : Bool :=
  let homes := ((s.binding? id).map (fun b => diesOf (b.inputs.flatMap Desc.bases ++ b.shadows.flatMap (·.bases)))).getD []
  ((s.run? id).map (fun r => r.cores.any (fun c => homes.any (s.crosses lo hi (c.flat / 32))))).getD false ||
    (s.ringDies id).any (fun d => homes.any (s.crosses lo hi d)) ||
    s.queries.any (fun q => q.id = id && s.queryPasses lo hi q) ||
    (match (s.outst? id).map Outst.cmd with
     | some (.tensorCopy ..) => homes.any (fun a => homes.any (s.crosses lo hi a))
     | some (.tensorRepair ..) => homes.any (fun a => homes.any (s.crosses lo hi a))
     | some (.tensorStage _ h) => s.backingPasses lo hi h
     | some (.tensorSync _ h) => s.backingPasses lo hi h
     | _ => false)

/-- Commands that run. -/
def State.runningIds (s : State) : List CmdId := (s.host.outst.filter (fun o => o.phase = .running)).map (·.id)

/-- What the containment table does for a unit: answers the number of commands killed. -/
def State.containUnit (s : State) (u : Nat) : State × Nat :=
  let i := unitIdx u
  match unitKind u with
  | 0x1 => (((s.portDown (s.laneLport i)).putOut (0x2000 + s.laneLport i)).putOut u, 0)
  | 0x2 => ((s.portDown i).putOut u, 0)
  | 0x3 => ((s.planeDown i).putOut u, 0)
  | 0x4 => s.coresDown (i / 8) [i] u (fun s => s.putOut u)
  | 0x5 =>
    let (s, n) := s.coresDown i ((List.range 8).map (8 * i + ·)) u (fun s => s.putOut u)
    (s.walkerDown i u, n)
  | 0x6 =>
    let core := i / 16
    let s := { s with integ := { s.integ with retiredBanks := s.integ.retiredBanks ++ [(i, false)] } }
    let out (s : State) : State :=
      { ((s.putOut u).putOut (0x4000 + core)) with integ := { s.integ with bankOut := addOnce core s.integ.bankOut } }
    if s.bankPowered core (i % 16) && !s.unitDown 4 core then s.coresDown (core / 8) [core] u out else (s.putOut u, 0)
  | 0x7 => ((s.putOut u).lunDown (i / 8) (some (i % 8)), 0)
  | 0x8 => ((s.putOut u).lunDown i none, 0)
  | 0x9 =>
    let hit := s.runningIds.filter (s.movesOver (i / 8) (i % 8))
    (hit.foldl (fun s id => s.faultKill id u) (s.putOut u), hit.length)
  | 0xC =>
    let s := [4 * i, 4 * i + 1, 4 * i + 2, 4 * i + 3].foldl State.portDown s
    ((s.putOut u).driveLaser i, 0)
  | _ => (s.putOut u, 0)

/-- A fault in a unit (R619, R624): contained, or a device-class fault; `hit` commands have been killed for it already. -/
def State.unitFault (s : State) (u : Nat) (hit : Nat := 0) : State :=
  let k := unitKind u
  if !s.power.powered || s.silent || !s.unitExists u || u ∈ s.health.log.outOfService then s
  else if k == 0xA || k == 0xB || k == 0xD || u == 0 || u == 2 then s.deviceFault u
  else
    let (s, killed) := s.containUnit u
    let s := (s.recordFault u 1 (hit + killed)).unitEvent u
    if k == 9 && (s.dieCut (unitIdx u / 8) || s.dieCut (unitIdx u % 8)) then
      s.deviceFault (0xA000 + (if s.dieCut (unitIdx u / 8) then unitIdx u / 8 else unitIdx u % 8))
    else if k == 0xE && (List.range 8).countP (fun i => !s.unitDown 0xE i) < 4 then s.deviceFault u
    else s

/-- UNIT_FAULT_DETECTED. -/
def execUnitFaultDetected (unit : Nat) (s : State) : Res := .next (s.unitFault unit)

/-- LUN_FAILURE (R351, R354, R355, R619): a LUN, or with none a whole channel. -/
def execLunFailure (channel : Nat) (lun : Option Nat) (s : State) : Res :=
  .next (s.unitFault (match lun with
    | some l => 0x7000 + (8 * channel + l)
    | none => 0x8000 + channel))

/-! ### The control complex (R628) -/

/-- WATCHDOG_EXPIRY: the processor is reset and its commands are killed and re-run; reset three times within one hour, it goes out of
service, and with fewer than four left the device stops (R619, R624, R628). -/
def execWatchdogExpiry (proc : Nat) (cmds : List CmdId) (s : State) : Res :=
  .next (
    let u := 0xE000 + proc
    if !s.power.powered || s.silent || 8 ≤ proc || u ∈ s.health.log.outOfService then s
    else
      let hit := cmds.filter (fun id => id ∈ s.runningIds)
      let s := hit.foldl (fun s id => s.faultKill id u) s
      let recent := (s.health.watchdog.filter (fun w => w.1 = proc && decide (s.now < w.2 + 3600000000))).length + 1
      let s := { s with health := { s.health with watchdog := s.health.watchdog ++ [(proc, s.now)] } }
      if recent < 3 then s.recordFault u 0 hit.length
      else s.unitFault u hit.length)

/-! ### Reference clocks (R598) -/

/-- CLOCK_LOSS: a reference clock stops. Without ACLK the always-on domain runs on its internal oscillator, and UPTIME_US counts on. -/
def execClockLoss (clk : RefClock) (s : State) : Res :=
  .next (
    let s := { s with power := { s.power with clocks := ainsert clk false s.power.clocks } }
    if !s.power.powered then s
    else
      match clk with
      | .pclk0 => s.linkDown 0
      | .pclk1 => if s.host.splitSampled then s.linkDown 1 else s
      | .fclk => ((List.range 32).filter s.lportEnabled).foldl State.portDown s
      | .sclk => s.deviceFault 2
      | .aclk => s)

end Sys2Proof.Machine
end

