-- ==== Sys2Proof/Machine/Integrity.lean ====
section
/-!
DEFINITION. Memory integrity (chapter *Memory integrity*): what a checker's finding does, scrubbing, hard faults and remapping, the remap
tables, and ERR_INJECT.
-/
namespace Sys2Proof.Machine

open Sys2Proof

/-- Units that hard faults have used up leave service (R232, R619). -/
def State.settleFaults (s : State) : State :=
  let us := s.integ.due
  let s : State := { s with integ := { s.integ with due := [] } }
  us.foldl State.unitFault s

/-- A read that no scrubber makes: what the checkers find, and what follows (R218, R222, R232). -/
def State.probeHint (hint : Bool) (s : State) (addr n : Nat) : State := (s.lookHint hint addr n).settleFaults

/-- A read that fills the lines that it misses. -/
def State.probe (s : State) (addr n : Nat) : State := s.probeHint false addr n

/-! ### Scrubbing (R219, R227, R228) -/

/-- Whether a tidepool address lies in a bank that has power: one of its partition's (R151, R603). -/
def State.wordPowered (s : State) (addr : Nat) : Bool :=
  match s.clusterOwner (addr / 0x800000 / 8) with
  | some p => decide (addr % 0x800000 < (s.entry p).tpBytes)
  | none => false

/-- Whether a checker reads at an address: the scrubber of a powered tidepool bank or of a die in service (R227); accumulator memory and the
on-die paths have no scrubber, and what SCRUB_STEP says of them is what their checkers find while a run uses them (R217; log entry 77). -/
def State.scrubs (s : State) (st : Store) (addr : Nat) : Bool :=
  s.power.computeReady && !s.silent &&
    match st with
    | .tidepool => s.dieUp (addr / 0x800000 / 32) && s.wordPowered addr
    | .dieCache => decide (nmBase ≤ addr) && s.dieUp (nmDie addr)
    | .accumulator => (s.runOn (addr / 2 ^ 20)).isSome
    | .path => !(s.movers addr).isEmpty
    | .nearMemory => decide (nmBase ≤ addr) && s.dieUp (nmDie addr) && decide ((addr - nmBase) % nmWindow < nmPopulated)
    | _ => false

/-- Where a scrubber stands within its pass: the die cache's goes from set to set (R227). -/
def scrubPlace (st : Store) (addr : Nat) : Nat := if st = .dieCache then addr / 128 % 32768 else addr

/-- A scrubber's position moves; passing its end starts a new pass, and its counts return to zero (R230). -/
def State.scrubMove (s : State) (st : Store) (addr : Nat) : State :=
  let key (a : Nat) : Bool := s.trackerOf st a == s.trackerOf st addr
  let last := (s.integ.scrubPos.find? (fun x => x.1 = st && key x.2)).map (·.2)
  let wrapped : Bool := match last with
    | some l => decide (scrubPlace st addr < scrubPlace st l)
    | none => false
  { s with integ := { s.integ with
      scrubPos := s.integ.scrubPos.filter (fun x => !(x.1 = st && key x.2)) ++ [(st, addr)]
      trackers := if wrapped then s.integ.trackers.filter (fun t => !(t.1 = st && key t.2.1)) else s.integ.trackers } }

/-- What a scrub finds: the checker's finding, or the model's own latent marks. -/
def State.finds (s : State) (st : Store) (addr : Nat) (found : Ecc) : Ecc :=
  let k := (st, checkedUnit st addr)
  if k ∈ s.integ.bad then .uncorrectable else if k ∈ s.integ.weak && found = .clean then .corrected else found

/-- A scrub writes corrected data back: the place is clean again (R218, R227). -/
def State.scrubClean (s : State) (st : Store) (addr : Nat) : State :=
  let k := (st, checkedUnit st addr)
  { s with integ := { s.integ with weak := s.integ.weak.filter (· ≠ k), counted := s.integ.counted.filter (· ≠ k), injected := s.integ.injected.filter (· ≠ k) } }

/-- What a checker finds where no scrub repairs: a correctable error stays (R218), one on a path has no stored copy. -/
def State.useFinding (s : State) (st : Store) (addr : Nat) (found : Ecc) : State :=
  match found with
  | .clean => s
  | .corrected => if st = .path then s.integrity 3 clsCorrected else s.correctable st addr
  | .uncorrectable => s.uncorrectable st addr

/-- What a scrubber does at its next word, sector or line (R219, R227, R228). -/
def State.scrubFinding (s : State) (st : Store) (addr : Nat) (found : Ecc) : State :=
  if (st, checkedUnit st addr) ∈ s.integ.poison then s
  else if st = .dieCache && !s.dcache.any (fun l => l.addr == lineOf addr) then s
  else
    match s.finds st addr found with
    | .clean => s.scrubClean st addr
    | .corrected => (s.correctable st addr).scrubClean st addr
    | .uncorrectable => s.uncorrectable st addr

/-- SCRUB_STEP (R227 to R230): a scrubber reads the word or sector at an address. -/
def execScrubStep (st : Store) (addr : Nat) (found : Ecc) (s : State) : Res :=
  .next (if !s.scrubs st addr then s
    else if st = .accumulator || st = .path then (s.useFinding st addr found).settleFaults
    else ((s.scrubMove st addr).scrubFinding st addr found).settleFaults)

/-- OUT_OF_TURN_SCRUB (R219, R228): a word or sector in which a read has found a correctable error is read again and repaired, or is found to
be uncorrectable by now; nothing to do once a write has reached it. -/
def execOutOfTurnScrub (st : Store) (addr : Nat) (s : State) : Res :=
  let k := (st, checkedUnit st addr)
  .next (if k ∈ s.integ.weak && k ∈ s.integ.counted && s.scrubs st addr then
      (if k ∈ s.integ.bad then (s.uncorrectable st addr).settleFaults else s.scrubClean st addr)
    else s)

/-- REMAP_TABLE_WRITE (R236, R237): new remap entries, retirements and withheld units enter the remap tables. -/
def execRemapTableWrite (s : State) : Res :=
  .next (if s.power.powered then
      { s with integ := { s.integ with
          remaps := s.integ.remaps.map (fun r => { r with saved := true })
          withheld := s.integ.withheld.map (fun w => (w.1, true))
          retiredBanks := s.integ.retiredBanks.map (fun w => (w.1, true))
          retiredUnits := s.integ.retiredUnits.map (fun w => (w.1, true)) } }
    else s)

/-! ### ERR_INJECT (R242, R243) -/

/-- Whether an address lies in a partition's tidepool windows or its near-memory allocations. -/
def State.injectable (s : State) (p addr : Nat) : Bool :=
  (decide (addr < 0x80000000) && bitAt (s.entry p).clusterMask (addr / 0x800000 / 8) && decide (addr % 0x800000 < (s.entry p).tpBytes)) ||
    s.allocs.any (fun a => a.part = p && decide (a.base ≤ addr) && decide (addr < a.base + a.size))

/-- ERR_INJECT: the next write of the named word or sector stores an error or a mark. -/
def execErrInject (id : CmdId) (p kind addr : Nat) (s : State) : Res :=
  .next (s.startCmd id (.errInject id p kind addr) (fun s o => do
    noHold o
    inRange (decide (p < 8)) 0x08
    inRange (decide (kind ≤ 2)) 0x09
    need (s.hasPart p) .notFound 0
    need (s.cfl.protLevel != 2) .protectionDenied s.cfl.protLevel
    need (s.injectable p addr) .resourceAbsent 0x0C
    let st : Store := if addr < 0x80000000 then .tidepool else .nearMemory
    okDone { s with integ := { s.integ with armed := s.integ.armed ++ [(st, checkedUnit st addr, kind)] } }))

end Sys2Proof.Machine
end

