-- ==== Sys2Proof/Machine/StepWord.lean ====
section
/-!
DEFINITION. Step words (R197): the fields of each kind, read from 32 bytes and laid out in 32 bytes.
-/
namespace Sys2Proof.Machine

open Sys2Proof

/-- KIND codes of the *Step word layouts* table. -/
def kindCode : StepKind → Nat
  | .loadWeights _ => 1
  | .swap _ => 2
  | .streamMm _ => 3
  | .mv _ => 4
  | .vec _ => 5
  | .qscan _ => 6
  | .qconvert _ => 7
  | .copy .. => 8
  | .fill .. => 9
  | .tpCopy .. => 10
  | .wait .. => 11
  | .signal .. => 12
  | .layerMark _ => 13
  | .collective _ => 14
  | .commit => 15

/-- STREAM_MM and MV fields. -/
def matArgsOf (b : Bytes) : MatArgs :=
  let c := field b 2 1
  let d := field b 3 1
  { engine := bits c 0 2, shape := bits c 2 3, accumulate := bitAt c 5, final := bitAt c 6, halfB := bitAt c 7
    round := bits d 0 3, act := bits d 3 3, ieeeOvf := bitAt d 6
    a := bits (field b 4 2) 0 12, w := bits (field b 6 2) 0 12, out := bits (field b 8 2) 0 12, bias := bits (field b 0xA 2) 0 12
    m := field b 0xC 2, n := field b 0xE 2, k := field b 0x10 2
    accBase := bits (field b 0x12 2) 0 11, accLog2W := field b 0x14 1, outFormat := field b 0x15 1, sregBase := bits (field b 0x16 2) 0 12
    kOff := field b 0x18 2, nOff := field b 0x1A 2, mOff := field b 0x1C 4 }

/-- VEC fields. -/
def vecArgsOf (b : Bytes) : VecArgs :=
  let d := field b 3 1
  { vop := field b 2 1, round := bits d 0 3, conforming := bitAt d 3, dequant := bitAt d 4, ieeeOvf := bitAt d 5
    ascending := bitAt d 6, mode := bits d 7 1
    a := bits (field b 4 2) 0 12, b := bits (field b 6 2) 0 12, bUse := bits (field b 6 2) 12 2
    c := bits (field b 8 2) 0 12, cUse := bits (field b 8 2) 12 2, out := bits (field b 0xA 2) 0 12
    outFormat := field b 0xC 1, pred := field b 0xD 1, topkK := field b 0xE 2, param := BitVec.ofNat 32 (field b 0x10 4)
    rowOff := field b 0x14 4, rows := field b 0x18 4 }

/-- QSCAN and QCONVERT fields; a QSCAN has no SEG, ROUND or OUT. -/
def quantArgsOf (b : Bytes) (convert : Bool) : QuantArgs :=
  let c := field b 2 1
  { asym := bitAt c 0, merge := bitAt c 1, axis := bits c 2 2, src := bits (field b 4 2) 0 12, group := field b 8 2, target := field b 0xA 1
    seg := if convert then bits c 4 2 else 0, round := if convert then bits (field b 3 1) 0 3 else 0
    out := if convert then bits (field b 6 2) 0 12 else 0 }

/-- The step that a KIND and its fields spell (R197): none for any other KIND. -/
def stepKindOf (b : Bytes) : Option StepKind :=
  match field b 0 1 with
  | 1 => some (.loadWeights { shape := bits (field b 2 1) 0 3, halfB := bitAt (field b 2 1) 3, w := bits (field b 4 2) 0 12
                              tileK := field b 6 2, tileN := field b 8 2 })
  | 2 => some (.swap (bitAt (field b 2 1) 0))
  | 3 => some (.streamMm (matArgsOf b))
  | 4 => some (.mv (matArgsOf b))
  | 5 => some (.vec (vecArgsOf b))
  | 6 => some (.qscan (quantArgsOf b false))
  | 7 => some (.qconvert (quantArgsOf b true))
  | 8 => some (.copy (bitAt (field b 2 1) 0) (bits (field b 4 2) 0 12) (bits (field b 6 2) 0 12))
  | 9 => some (.fill (field b 2 1) (field b 4 4) (field b 8 4) (field b 0xC 8))
  | 10 => some (.tpCopy (field b 4 4) (field b 8 4) (field b 0xC 4))
  | 11 => some (.wait (field b 2 1) (field b 4 2))
  | 12 => some (.signal (field b 2 1) (field b 3 1) (field b 4 2))
  | 13 => some (.layerMark (field b 4 2))
  | 14 => some (.collective { cop := field b 2 1, ring := field b 3 1, src := bits (field b 4 2) 0 12, dst := bits (field b 6 2) 0 12
                              headroom := field b 8 1 })
  | 15 => some .commit
  | _ => none

def stepWordOf (b : Bytes) : Option StepWord := (stepKindOf b).map (fun k => { kind := k, sync := bitAt (field b 1 1) 0 })

def b1 (b : Bool) : Nat := if b then 1 else 0

/-- Bytes 2 to 31 of a matrix step. -/
def matBytes (a : MatArgs) : Bytes :=
  leBytes 1 (a.engine + 4 * a.shape + 32 * b1 a.accumulate + 64 * b1 a.final + 128 * b1 a.halfB)
    ++ leBytes 1 (a.round + 8 * a.act + 64 * b1 a.ieeeOvf) ++ leBytes 2 a.a ++ leBytes 2 a.w ++ leBytes 2 a.out ++ leBytes 2 a.bias
    ++ leBytes 2 a.m ++ leBytes 2 a.n ++ leBytes 2 a.k ++ leBytes 2 a.accBase ++ leBytes 1 a.accLog2W ++ leBytes 1 a.outFormat
    ++ leBytes 2 a.sregBase ++ leBytes 2 a.kOff ++ leBytes 2 a.nOff ++ leBytes 4 a.mOff

/-- Bytes 2 to 31 of a VEC step. -/
def vecBytes (a : VecArgs) : Bytes :=
  leBytes 1 a.vop ++ leBytes 1 (a.round + 8 * b1 a.conforming + 16 * b1 a.dequant + 32 * b1 a.ieeeOvf + 64 * b1 a.ascending + 128 * a.mode)
    ++ leBytes 2 a.a ++ leBytes 2 (a.b + 4096 * a.bUse) ++ leBytes 2 (a.c + 4096 * a.cUse) ++ leBytes 2 a.out ++ leBytes 1 a.outFormat
    ++ leBytes 1 a.pred ++ leBytes 2 a.topkK ++ leBytes 4 a.param.toNat ++ leBytes 4 a.rowOff ++ leBytes 4 a.rows ++ zeros 4

/-- Bytes 2 to 31 of a QSCAN or QCONVERT. -/
def quantBytes (a : QuantArgs) : Bytes :=
  leBytes 1 (b1 a.asym + 2 * b1 a.merge + 4 * a.axis + 16 * a.seg) ++ leBytes 1 a.round ++ leBytes 2 a.src ++ leBytes 2 a.out
    ++ leBytes 2 a.group ++ leBytes 1 a.target ++ zeros 21

/-- Bytes 2 to 31 of a step, every reserved bit zero (R197). -/
def kindBytes : StepKind → Bytes
  | .loadWeights a => leBytes 1 (a.shape + 8 * b1 a.halfB) ++ zeros 1 ++ leBytes 2 a.w ++ leBytes 2 a.tileK ++ leBytes 2 a.tileN ++ zeros 22
  | .swap h => leBytes 1 (b1 h) ++ zeros 29
  | .streamMm a => matBytes a
  | .mv a => matBytes a
  | .vec a => vecBytes a
  | .qscan a => quantBytes a
  | .qconvert a => quantBytes a
  | .copy st src dst => leBytes 1 (b1 st) ++ zeros 1 ++ leBytes 2 src ++ leBytes 2 dst ++ zeros 24
  | .fill w off n v => leBytes 1 w ++ zeros 1 ++ leBytes 4 off ++ leBytes 4 n ++ leBytes 8 v ++ zeros 12
  | .tpCopy src dst n => zeros 2 ++ leBytes 4 src ++ leBytes 4 dst ++ leBytes 4 n ++ zeros 16
  | .wait e c => leBytes 1 e ++ zeros 1 ++ leBytes 2 c ++ zeros 26
  | .signal e c i => leBytes 1 e ++ leBytes 1 c ++ leBytes 2 i ++ zeros 26
  | .layerMark l => zeros 2 ++ leBytes 2 l ++ zeros 26
  | .collective a => leBytes 1 a.cop ++ leBytes 1 a.ring ++ leBytes 2 a.src ++ leBytes 2 a.dst ++ leBytes 1 a.headroom ++ zeros 23
  | .commit => zeros 30

/-- The 32 bytes of a step word. -/
def stepBytes (w : StepWord) : Bytes := leBytes 1 (kindCode w.kind) ++ leBytes 1 (b1 w.sync) ++ kindBytes w.kind

/-- The first byte of a step word in which a reserved bit is set: where its bytes differ from those that its fields spell. -/
def stepReserved (b : Bytes) (w : StepWord) : Option Nat := (List.range 32).find? (fun i => slice b i 1 != slice (stepBytes w) i 1)

end Sys2Proof.Machine
end

