-- ==== Sys2Proof/Machine/Image.lean ====
section
/-!
DEFINITION. Program images: the header and tables of R190 and R191, and the eight checks of R216 in their order.
-/
namespace Sys2Proof.Machine

open Sys2Proof

/-- The tensor index that names nothing (R191). -/
def noTensor : Nat := 0xFFF

/-- No AFTER_STEP (R203). -/
def noStep : Nat := 0xFFFFFFFF

/-- A failed image check: its number and the image offset of the element that failed (R216, R530). -/
def badImage (check off : Nat) : Fail :=
  { status := if check = 2 then .resourceExhausted else .programInvalid, detail := if check = 2 then 0xFFFF else check
    bytes := leBytes 4 check ++ leBytes 4 off }

def imgNeed (c : Bool) (check off : Nat) : Chk Unit := if c then .ok () else .error (badImage check off)

/-! ### Check 1: header and tables (R190, R191) -/

/-- Where the tables of an image lie: offsets of the tensor table, slot table, step directory, prefetch schedule and commit list. -/
structure Tables where
  tensorOff : Nat
  slotOff : Nat
  dirOff : Nat
  pfOff : Nat
  commitOff : Nat
  dirs : List (Nat × Nat)
  deriving DecidableEq, Repr

/-- The step directory: OFFSET and COUNT of each declared core. -/
def imageDirs (b : Bytes) : List (Nat × Nat) :=
  (List.range (field b 0x10 2)).map (fun i => (field b (field b 0x38 4 + 8 * i) 4, field b (field b 0x38 4 + 8 * i + 4) 4))

def imageTables (b : Bytes) : Tables :=
  { tensorOff := field b 0x30 4, slotOff := field b 0x34 4, dirOff := field b 0x38 4, pfOff := field b 0x3C 4, commitOff := field b 0x40 4
    dirs := imageDirs b }

/-- Header fields outside their ranges, with their offsets, in header order (R190). -/
def headerRanges (b : Bytes) : List (Nat × Bool) :=
  [ (0x10, decide (1 ≤ field b 0x10 2) && decide (field b 0x10 2 ≤ 256))
  , (0x12, decide (field b 0x12 2 ≤ 32))
  , (0x14, field b 0x14 4 % 4096 == 0)
  , (0x18, decide (field b 0x18 2 ≤ 2048))
  , (0x1A, decide (field b 0x1A 1 ≤ 7))
  , (0x1B, decide (field b 0x1B 1 ≤ 3))
  , (0x1C, decide (field b 0x1C 2 ≤ 2000))
  , (0x1E, decide (1 ≤ field b 0x1E 2) && decide (field b 0x1E 2 ≤ 4095))
  , (0x20, field b 0x20 4 % 4096 == 0 && decide (field b 0x20 4 ≤ field b 0x14 4))
  , (0x24, decide (field b 0x24 2 ≤ 4095))
  , (0x26, decide (field b 0x26 2 ≤ 4))
  , (0x28, decide (field b 0x28 4 ≤ 1048576))
  , (0x2E, zeroAt b 0x2E 2)
  , (0x44, zeroAt b 0x44 60) ]

/-- Every piece of the image that must not overlap another: its start, its length and the offset that names it. -/
def imageSpans (b : Bytes) (t : Tables) : List (Nat × Nat × Nat) :=
  [ (0, 128, 0), (t.tensorOff, 160 * field b 0x1E 2, 0x30), (t.slotOff, 4 * field b 0x24 2, 0x34), (t.dirOff, 8 * field b 0x10 2, 0x38)
  , (t.pfOff, 16 * field b 0x28 4, 0x3C), (t.commitOff, 4 * field b 0x2C 2, 0x40) ] ++
    t.dirs.zipIdx.map (fun d => (d.1.1, 32 * d.1.2, t.dirOff + 8 * d.2))

/-- Whether two spans share a byte. -/
def spansMeet (x y : Nat × Nat × Nat) : Bool :=
  decide (0 < x.2.1) && decide (0 < y.2.1) && decide (x.1 < y.1 + y.2.1) && decide (y.1 < x.1 + x.2.1)

/-- The first span that runs past the image or meets an earlier one. -/
def spanFault (len : Nat) : List (Nat × Nat × Nat) → List (Nat × Nat × Nat) → Option Nat
  | _, [] => none
  | seen, x :: xs =>
    if (decide (0 < x.2.1) && decide (len < x.1 + x.2.1)) || seen.any (spansMeet x) then some x.2.2 else spanFault len (x :: seen) xs

/-- The first reserved byte set in a table entry (R191): a descriptor, a slot, a prefetch entry or a commit entry. -/
def entryReserved (b : Bytes) (t : Tables) : Option Nat :=
  let descs := (List.range (field b 0x1E 2)).findSome? (fun i =>
    let o := t.tensorOff + 160 * i
    let isLoc := field b (o + 5) 1 == 0
    -- the fields that the device sets are zero in an image (R168, R191); BASE of a local tensor and of the host window is the image's
    let zero : List (Nat × Nat) := [(0, 4), (4, 1)] ++ (if isLoc || field b (o + 5) 1 == 2 then [] else [(0x10, 8)]) ++
      [(9, 1), (0xC, 4), (0x2D, 3), (0x58, 8), (0x60, 8), (0x68, 8), (0x70, 8), (0x78, 8), (0x87, 1), (0x88, 8), (0x90, 8), (0x98, 8)]
    if 16 ≤ field b (o + 8) 1 || field b (o + 8) 1 % 8 ≠ 0 then some (o + 8)
    else (zero.find? (fun z => !zeroAt b (o + z.1) z.2)).map (fun z => o + z.1))
  let slots := (List.range (field b 0x24 2)).findSome? (fun i =>
    let o := t.slotOff + 4 * i
    if field b 0x1E 2 ≤ field b o 2 then some o else if 2 < field b (o + 2) 1 then some (o + 2)
    else if !zeroAt b (o + 3) 1 then some (o + 3) else none)
  let pfs := (List.range (field b 0x28 4)).findSome? (fun i => if zeroAt b (t.pfOff + 16 * i + 10) 2 then none else some (t.pfOff + 16 * i + 10))
  let commits := (List.range (field b 0x2C 2)).findSome? (fun i =>
    let o := t.commitOff + 4 * i
    if 1 < field b (o + 2) 1 then some (o + 2) else if !zeroAt b (o + 3) 1 then some (o + 3) else none)
  [descs, slots, pfs, commits].findSome? id

/-- Step `j` of a list at `off`: its 32 bytes. -/
def stepAt (b : Bytes) (off j : Nat) : Bytes := slice b (off + 32 * j) 32

/-- The first reserved bit set in a step word of a known KIND (R197). -/
def stepsReserved (b : Bytes) (t : Tables) : Option Nat :=
  t.dirs.findSome? (fun d => (List.range d.2).findSome? (fun j =>
    match stepWordOf (stepAt b d.1 j) with
    | some w => (stepReserved (stepAt b d.1 j) w).map (fun i => d.1 + 32 * j + i)
    | none => none))

/-- Check 1 (R190, R191): `b` is the image as far as the input buffer gives it. -/
def check1 (b : Bytes) : Chk Unit := do
  imgNeed (decide (128 ≤ b.length)) 1 0x08
  imgNeed (field b 0 4 == 0x47504B4E) 1 0x00
  imgNeed (field b 4 2 == 1) 1 0x04
  imgNeed (field b 6 2 == 0x80) 1 0x06
  imgNeed (decide (128 ≤ field b 8 4) && decide (field b 8 4 ≤ b.length)) 1 0x08
  imgNeed (field b 0xC 4 == crc32 ((b.take (field b 8 4)).drop 0x10)) 1 0x0C
  match (headerRanges b).find? (fun x => !x.2) with
  | some x => imgNeed false 1 x.1
  | none => .ok ()
  let t := imageTables b
  match t.dirs.zipIdx.find? (fun d => d.1.1 % 32 != 0 || d.1.2 == 0 || decide (65536 < d.1.2)) with
  | some d => imgNeed false 1 (t.dirOff + 8 * d.2)
  | none => .ok ()
  match spanFault (field b 8 4) [] (imageSpans b t) with
  | some off => imgNeed false 1 off
  | none => .ok ()
  match entryReserved b t, stepsReserved b t with
  | some off, _ => imgNeed false 1 off
  | none, some off => imgNeed false 1 off
  | none, none => .ok ()

/-- A prefetch entry (*Prefetch entry layout* table). -/
def prefetchOf (b : Bytes) (o : Nat) : Prefetch :=
  { layer := field b o 2, core := field b (o + 2) 2, src := field b (o + 4) 2, dst := field b (o + 6) 2, srcTier := field b (o + 8) 1
    dstTier := field b (o + 9) 1, after := if field b (o + 12) 4 = noStep then none else some (field b (o + 12) 4) }

/-- The image that passes check 1: a step word of no known KIND ends its list here, and check 4 refuses it. -/
def imageOf (b : Bytes) : Image :=
  let t := imageTables b
  { cores := field b 0x10 2, events := field b 0x12 2, tpBytes := field b 0x14 4, accRows := field b 0x18 2, lookahead := field b 0x1A 1
    atomicRun := bitAt (field b 0x1B 1) 0, hasCollective := bitAt (field b 0x1B 1) 1
    runBound := if field b 0x1C 2 = 0 then 200 else field b 0x1C 2, carry := field b 0x20 4, rings := field b 0x26 2
    tensors := (List.range (field b 0x1E 2)).map (fun i => descOf (slice b (t.tensorOff + 160 * i) 160))
    slots := (List.range (field b 0x24 2)).map (fun i => (field b (t.slotOff + 4 * i) 2, field b (t.slotOff + 4 * i + 2) 1))
    steps := t.dirs.map (fun d => (List.range d.2).filterMap (fun j => stepWordOf (stepAt b d.1 j)))
    prefetch := (List.range (field b 0x28 4)).map (fun i => prefetchOf b (t.pfOff + 16 * i))
    commits := (List.range (field b 0x2C 2)).map (fun i => (field b (t.commitOff + 4 * i) 2, bitAt (field b (t.commitOff + 4 * i + 2) 1) 0)) }

/-! ### Checks 2 and 3 -/

/-- Check 2 (R195): declared cores and tidepool against the partition. -/
def check2 (g : Image) (cores tpBytes : Nat) : Chk Unit := do
  imgNeed (decide (g.cores ≤ cores)) 2 0x10
  imgNeed (decide (g.tpBytes ≤ tpBytes)) 2 0x14

/-- Check 3 (R150, R170): local descriptors, local tensors within TP_BYTES, templates of tiers 1 to 3. -/
def check3 (b : Bytes) (g : Image) (t : Tables) : Chk Unit := do
  match g.tensors.zipIdx.findSome? (fun x =>
      let o := t.tensorOff + 160 * x.2
      if x.1.tier ≠ 0 then (if 3 < x.1.tier then some (o + 5) else none)
      else
        match descFault (slice b o 160) x.1 true with
        | some off => some (o + off)
        | none => if g.tpBytes < x.1.base + x.1.arrayBytes then some (o + 0x10) else none) with
  | some off => imgNeed false 3 off
  | none => .ok ()
  match g.slots.zipIdx.find? (fun x => ((g.tensors[x.1.1]?).map (·.tier)).getD 0 == 0) with
  | some x => imgNeed false 3 (t.slotOff + 4 * x.2)
  | none => .ok ()

/-! ### Check 4: step fields and operands -/

/-- The tensor that a step may name by an index: a program-local one, or the template of a slot (R191). -/
def Image.tensorAt (g : Image) (i : Nat) : Option Desc :=
  match g.tensors[i]? with
  | none => none
  | some d => if d.tier = 0 || g.slots.any (fun s => s.1 == i) then some d else none

/-- Tier test of an operand that must be there. -/
def Image.has (g : Image) (tiers : List Nat) (i : Nat) : Bool :=
  match g.tensorAt i with
  | some d => tiers.contains d.tier
  | none => false

def Image.desc (g : Image) (i : Nat) : Desc := (g.tensorAt i).getD {}

/-- A step may write a tensor that is program-local, or whose slot is an output or an input-output one (R196, R209). -/
def Image.writable (g : Image) (i : Nat) : Bool :=
  (g.desc i).tier == 0 || g.slots.any (fun s => s.1 == i && s.2 != 0)

/-- F8A, F8B, BS32.F8A, BS16.F6 and BS32.F6 (R76). -/
def isF8 (f : Nat) : Bool := [0x04, 0x05, 0x0C, 0x0D, 0x0E].contains f

def isBsF4 (f : Nat) : Bool := f == 0x0A || f == 0x0B

/-- SP2 and SP3: the number of pieces, 0 for any other format. -/
def spPieces (f : Nat) : Nat := if f = 0x0F then 2 else if f = 0x10 then 3 else 0

/-- The shapes that a pairing of weight and activation formats takes on the ME (R76), and 5 for a pairing that the MV alone takes (R102).
SP2 pairs with SP2 and SP3 with SP3: R72 and R89 give passes for no mix of the two, and the model refuses one (DESIGN CHOICE, log entry 28). -/
def pairShapes (wf af : Nat) : List Nat :=
  let w8 := wf == 6 || wf == 7
  let a8 := af == 6 || af == 7
  if (isF8 wf || isBsF4 wf) && isF8 af then [0, 3, 4]
  else if isBsF4 wf && isBsF4 af then [1]
  else if (w8 || wf == 8) && a8 then [0, 3, 4]
  else if wf == 8 && af == 8 then [1]
  else if wf == 2 && af == 2 then [2]
  else if spPieces wf != 0 && wf == af then [2]
  else if wf == 3 && af == 3 then [5]
  else []

/-- Whether LOAD_WEIGHTS takes a format in a shape: some pairing of R76 does. -/
def loadShape (wf shape : Nat) : Bool := (List.range 0x11).any (fun af => (pairShapes wf af).contains shape)

/-- Tile K × N of the *Instruction shapes* table (R86); in DUAL, of one half. -/
def tileOf (shape : Nat) : Nat × Nat :=
  match shape with
  | 0 => (128, 128)
  | 1 => (256, 128)
  | 2 => (64, 128)
  | _ => (128, 64)

/-- The engine that R100 routes a matrix step to: `some true` the MV, `some false` the ME, none when it is refused. -/
def routeStep (isMv : Bool) (engine m wf : Nat) : Option Bool :=
  if isMv && engine ≠ 2 then none
  else if engine = 3 then none
  else if spPieces wf ≠ 0 then (if engine = 2 then none else some false)
  else if engine = 1 then (if wf = 3 then none else some false)
  else if m ≤ 8 then some true
  else if engine = 2 || wf = 3 then none
  else some false

/-- Formats that the output stage writes (R42, R98): F32, the short floats, the quantised integers and the block-scaled formats. -/
def outFormatOk (f : Nat) : Bool := f == 0 || (decide (2 ≤ f) && decide (f ≤ 8)) || (decide (0xA ≤ f) && decide (f ≤ 0xE))

/-- Whether a step may write elements `c0` to `c0 + n - 1` of each row of a block-scaled tensor (R675). -/
def wholeBlocks (d : Desc) (c0 n : Nat) : Bool :=
  let bs := blockSize d.format
  bs == 0 || (d.blockDim == 0 && c0 % bs == 0 && ((c0 + n) % bs == 0 || c0 + n == d.ext 0))

/-- Whether per-channel scale data lies on the dimension that supplies output rows or columns (R679), or one entry serves all. -/
def Desc.matrixAxis (d : Desc) : Bool := d.channelAxis == 0 || (d.channelAxis == 2 && d.rows == d.ext 1)

/-- Whether a program-local tensor comes to hold scale data: a QCONVERT, a COPY or a prefetch entry writes it. -/
def Image.gainsScales (g : Image) (i : Nat) : Bool :=
  g.prefetch.any (fun p => p.dst == i) || g.steps.any (fun l => l.any (fun w => match w.kind with
    | .qconvert a => a.out == i
    | .copy _ _ d => d == i
    | _ => false))

/-- R679 for a matrix operand of a step: a program-local one that can hold scale data is judged here, a bound one at the binding. -/
def Image.axisOk (g : Image) (i : Nat) : Bool :=
  (g.desc i).tier != 0 || (g.desc i).partBytes 2 == 0 || !g.gainsScales i || (g.desc i).matrixAxis

/-- The fields of a STREAM_MM or MV step (R76, R86, R91, R93, R98, R100, R101, R197, R198). -/
def Image.matOk (g : Image) (isMv : Bool) (a : MatArgs) : Bool :=
  let d := g.desc a.a
  let w := g.desc a.w
  let o := g.desc a.out
  let win := 2 ^ a.accLog2W
  let shapes := pairShapes w.format d.format
  decide (a.round ≤ 2) && decide (a.act ≤ 3) && decide (a.shape ≤ 4) && (!isMv || a.shape == 0) && fmtKnown a.outFormat &&
  (isMv || (decide (a.k ≤ (tileOf a.shape).1) && decide (a.n ≤ (tileOf a.shape).2))) &&
  g.has [0] a.a && g.has (if isMv then [0, 1, 3] else [0]) a.w && g.axisOk a.a && g.axisOk a.w &&
  (match routeStep isMv a.engine a.m w.format with
   | none => false
   | some true => !shapes.isEmpty && decide (a.m ≤ 8) && decide (a.n ≤ 128) && decide (a.kOff + a.k ≤ w.ext 0) && decide (a.nOff + a.n ≤ w.rows)
   | some false => shapes.contains a.shape && (w.channelAxis == 0 || decide (a.nOff + a.n ≤ w.rows))) &&
  decide (a.kOff + a.k ≤ d.ext 0) && decide (a.mOff + a.m ≤ d.rows) &&
  decide (5 ≤ a.accLog2W) && decide (a.accLog2W ≤ 11) && decide (a.accBase + win ≤ min 2048 g.accRows) && (a.final || decide (a.m ≤ win)) &&
  (!a.final || (g.has [0] a.out && g.writable a.out && outFormatOk a.outFormat && a.outFormat == o.format
    && decide (a.nOff + a.n ≤ o.ext 0) && decide (a.mOff + a.m ≤ o.rows) && wholeBlocks o a.nOff a.n
    && (!intTarget a.outFormat || decide (a.sregBase + a.n ≤ 4096)))) &&
  (a.bias == noTensor || (g.has [0] a.bias && decide (a.nOff + a.n ≤ (g.desc a.bias).ext 0)
    && !([1, 0xF, 0x10, 0x11].contains (g.desc a.bias).format)))

/-- The operations of the *VE operations* table: whether they exist on the fast path in F32, the conforming path in F32, and in F64 (R114). -/
def vopPaths (v : Nat) : Option Bool :=
  if v ≤ 0xD || (0x10 ≤ v && v ≤ 0x18) || (0x20 ≤ v && v ≤ 0x24) || (0x29 ≤ v && v ≤ 0x2B) || (0x38 ≤ v && v ≤ 0x3A) then some true
  else if v = 0x28 || v = 0x2C || v = 0x30 || v = 0x31 || v = 0x40 || v = 0x41 then some false
  else none

/-- Operations that need operand B, and operand C. -/
def vopNeedsB (v : Nat) : Bool := [0, 1, 2, 3, 4, 6, 7, 8, 0xB, 0xC, 0x38, 0x39, 0x3A].contains v

def vopNeedsC (v : Nat) : Bool := v == 3 || v == 0xC

/-- GATHER, SCATTER and SCATTER_ADD. -/
def vopMoves (v : Nat) : Bool := decide (0x38 ≤ v) && decide (v ≤ 0x3A)

/-- TOPK and SORT. -/
def vopSorts (v : Nat) : Bool := v == 0x40 || v == 0x41

/-- Operations on elements one by one. -/
def vopElementwise (v : Nat) : Bool := decide (v ≤ 0xD) || (decide (0x10 ≤ v) && decide (v ≤ 0x18))

/-- Elements that an operation writes to each row of OUT. -/
def vopOutLen (v : Nat) (topkK n oe : Nat) : Nat :=
  if 0x20 ≤ v && v ≤ 0x24 then 1 else if v = 0x40 then topkK else if v = 0x2C then n / 8 else if 0x38 ≤ v && v ≤ 0x3A then oe else n

/-- The tensor index of operand B or C, none where the step takes the immediate PARAM or names nothing (R197). -/
def vecOperand (use i : Nat) : Option Nat := if use = 3 || i = noTensor then none else some i

/-- Rows of a VEC step: from ROW_OFF, ROWS of them, or all that follow in A, or in OUT for a GATHER of whole rows (R128, R129, R197). -/
def vecRows (g : Image) (a : VecArgs) : Nat × Nat :=
  let src := if a.a = noTensor || (a.vop = 0x38 && a.mode = 0) then g.desc a.out else g.desc a.a
  (a.rowOff, if a.rows = 0 then src.rows - a.rowOff else a.rows)

/-- The fields of a VEC step (R110 to R134, R197, R458, R460, R675). OUT of SIGNPACK holds bytes: the model takes I8 and U8, where no rule names
its format (DESIGN CHOICE, log entry 26). -/
def Image.vecOk (g : Image) (a : VecArgs) : Bool :=
  let b := vecOperand a.bUse a.b
  let c := vecOperand a.cUse a.c
  let o := g.desc a.out
  let rand := a.vop == 0x30 || a.vop == 0x31
  let src := if rand && a.a = noTensor then o else g.desc a.a
  let named := (if a.a = noTensor then [] else [a.a]) ++ b.toList ++ c.toList ++ [a.out]
  let fmts := named.map (fun i => (g.desc i).format)
  let f64 := fmts.contains 1
  let n := src.ext 0
  let len := vopOutLen a.vop a.topkK n (o.ext 0)
  let sorts := vopSorts a.vop
  let gs := vopMoves a.vop
  let used := a.rowOff + (vecRows g a).2
  (match vopPaths a.vop with
   | none => false
   | some has64 => !f64 || (has64 && a.conforming)) &&
  decide (a.round ≤ 4) && (a.conforming || decide (a.round ≤ 2)) && fmtKnown a.outFormat &&
  named.all (fun i => g.has [0] i) && g.writable a.out && (a.a != noTensor || rand) &&
  (!vopNeedsB a.vop || b.isSome || (a.bUse == 3 && !gs)) && (!vopNeedsC a.vop || c.isSome || a.cUse == 3) &&
  !fmts.contains 0xF && !fmts.contains 0x10 && (!fmts.contains 0x11 || a.vop == 0xD) &&
  (sorts || a.outFormat == o.format) && decide (n ≤ 65536) &&
  (if a.vop = 0x38 && a.mode = 0 then decide (a.rowOff + a.rows ≤ o.rows) else decide (a.rowOff + a.rows ≤ src.rows)) &&
  (gs || decide (used ≤ o.rows)) &&
  decide (len ≤ o.ext 0) && wholeBlocks o 0 len &&
  (a.vop != 0xB || decide (a.pred ≤ 6)) &&
  (gs || sorts || o.format == 0x11 || [(b, a.bUse), (c, a.cUse)].all (fun x => match x.1 with
    | none => true
    | some i => x.2 == 2 || (decide (n ≤ (g.desc i).ext 0) && (x.2 == 1 || decide (used ≤ (g.desc i).rows))))) &&
  (a.vop != 0x2C || ((n == 256 || n == 512) && (o.format == 6 || o.format == 7))) &&
  (a.vop != 0x40 || (decide (1 ≤ a.topkK) && decide (a.topkK ≤ 1024))) && (a.vop != 0x41 || decide (n ≤ 1024)) &&
  (!sorts || match c with
    | none => true
    | some i => (g.desc i).format == 9 && decide (len ≤ (g.desc i).ext 0) && decide (used ≤ (g.desc i).rows) && g.writable i) &&
  (!gs || ((b.map (fun i => (g.desc i).format == 9)).getD false && decide (a.bUse ≤ 2))) &&
  (o.format != 0x11 || (n % 32 == 0 && (b.map (fun i => (g.desc i).format == 7 && decide (n / 16 * used ≤ (g.desc i).ext 0))).getD false)) &&
  (src.format != 0x11 || o.format == 0)

/-- Channels of a quantisation step over a tensor (R138). -/
def quantChannels (axis : Nat) (d : Desc) : Nat :=
  match axis with
  | 1 => d.ext 0
  | 2 => d.rows
  | _ => 1

/-- The group of a quantisation step: a whole-tensor step uses entry 0 whatever its GROUP field holds (R138). -/
def quantGrp (a : QuantArgs) : Nat := if a.axis = 0 then 0 else a.group

/-- The fields of a QSCAN or QCONVERT; an F64 source is refused with the split and LB32 formats: R138 to R142 work in F32, and no rule says how an
F64 element would be taken (DESIGN CHOICE, log entry 27) (R110, R132, R138, R142, R144 to R146, R197). -/
def Image.quantOk (g : Image) (convert : Bool) (a : QuantArgs) : Bool :=
  let d := g.desc a.src
  let o := g.desc a.out
  g.has [0] a.src && decide (a.axis ≤ 2) && quantTarget a.target && (!a.asym || intTarget a.target) &&
  !([1, 0xF, 0x10, 0x11].contains d.format) && decide (quantGrp a * 4096 < quantChannels a.axis d) &&
  (!convert || (g.has [0, 1, 3] a.out && g.writable a.out && a.target == o.format && decide (a.round ≤ 2)
    && (List.range 5).all (fun i => d.ext i == o.ext i)
    && o.channelAxis == (if a.axis = 0 then 0 else if a.axis = 1 then 1 else 2) && (a.axis != 2 || o.rows == o.ext 1)
    && a.seg == o.sumSeg))

/-- Whether two tensors have equal FORMAT, RANK and EXTENT (R179, R193). -/
def sameShape (a b : Desc) : Bool :=
  a.format == b.format && a.rank == b.rank && (List.range 5).all (fun i => a.ext i == b.ext i)

/-- The tensor indices that a step names. -/
def stepNames (k : StepKind) : List Nat :=
  let some? (i : Nat) : List Nat := if i = noTensor then [] else [i]
  match k with
  | .loadWeights a => some? a.w
  | .streamMm a => some? a.a ++ some? a.w ++ some? a.out ++ some? a.bias
  | .mv a => some? a.a ++ some? a.w ++ some? a.out ++ some? a.bias
  | .vec a => some? a.a ++ (vecOperand a.bUse a.b).toList ++ (vecOperand a.cUse a.c).toList ++ some? a.out
  | .qscan a => some? a.src
  | .qconvert a => some? a.src ++ some? a.out
  | .copy _ s d => some? s ++ some? d
  | .collective a => some? a.src ++ some? a.dst
  | _ => []

/-- The fields of one step, apart from what depends on earlier steps and the formats of what it names (check 4 of R216). -/
def Image.fieldsOk (g : Image) (k : StepKind) : Bool :=
  match k with
  | .loadWeights a =>
    let w := g.desc a.w
    g.has [0] a.w && decide (a.shape ≤ 4) && loadShape w.format a.shape && g.axisOk a.w
      && decide (a.tileK * (tileOf a.shape).1 < w.ext 0) && decide (a.tileN * (tileOf a.shape).2 < w.rows)
  | .swap _ => true
  | .streamMm a => g.matOk false a
  | .mv a => g.matOk true a
  | .vec a => g.vecOk a
  | .qscan a => g.quantOk false a
  | .qconvert a => g.quantOk true a
  | .copy _ s d =>
    g.has [0, 1, 2, 3] s && g.has [0, 1, 2, 3] d && g.writable d && !((g.desc s).tier == 0 && (g.desc d).tier == 0)
      && sameShape (g.desc s) (g.desc d)
  | .fill w off n _ => [1, 2, 4, 8].contains w && decide (off + n ≤ g.tpBytes)
  | .tpCopy s d n => decide (s + n ≤ g.tpBytes) && decide (d + n ≤ g.tpBytes)
  | .wait e _ => decide (e < g.events)
  | .signal e c i => decide (e < g.events) && decide (c < ceilDiv g.cores 8) && decide (1 ≤ i)
  | .layerMark _ => true
  | .collective a => decide (a.cop ≤ 2) && decide (a.ring < g.rings) && decide (a.headroom ≤ 16) && (g.tensorAt a.src).isSome
      && (g.tensorAt a.dst).isSome && g.writable a.dst && wholeBlocks (g.desc a.dst) 0 ((g.desc a.dst).ext 0)
  | .commit => true

/-- Check 4 of one step: its fields, and a format code of the table for every tensor that it names (R42). -/
def Image.stepOk (g : Image) (k : StepKind) : Bool := g.fieldsOk k && (stepNames k).all (fun i => fmtKnown (g.desc i).format)

/-- The accumulator rows that a matrix step writes: base, count, and whether it sums integers; none where M or N is 0 (R106). -/
def Image.accWrite (g : Image) : StepKind → Option (Nat × Nat × Bool)
  | .streamMm a => if a.m = 0 || a.n = 0 then none else some (a.accBase, min a.m (2 ^ a.accLog2W), intTarget (g.desc a.w).format)
  | .mv a => if a.m = 0 || a.n = 0 then none else some (a.accBase, min a.m (2 ^ a.accLog2W), intTarget (g.desc a.w).format)
  | _ => none

/-- The type that the most recent earlier write of an accumulator row left (R95). -/
def Image.rowType (g : Image) (before : List StepWord) (row : Nat) : Option Bool :=
  before.reverse.findSome? (fun w => match g.accWrite w.kind with
    | some (b, n, t) => if b ≤ row && row < b + n then some t else none
    | none => none)

/-- What a step needs of the earlier steps of its list: the other accumulator type is refused (R95), and a QSCAN must precede (R139). A matrix step
that is not FINAL writes no output, so its OUT_FORMAT asks for no QSCAN (DESIGN CHOICE, log entry 26: R139 speaks of the format alone). -/
def Image.afterOk (g : Image) (before : List StepWord) (k : StepKind) : Bool :=
  let scanned (p : QuantArgs → Bool) : Bool := before.any (fun w => match w.kind with
    | .qscan q => p q
    | _ => false)
  let mat (a : MatArgs) : Bool :=
    (!a.accumulate || (List.range (2 ^ a.accLog2W)).all (fun i =>
      match g.rowType before (a.accBase + i) with
      | some t => t == intTarget (g.desc a.w).format
      | none => true)) &&
    (!(a.final && intTarget a.outFormat) || scanned (fun _ => true))
  match k with
  | .streamMm a => mat a
  | .mv a => mat a
  | .qconvert a => scanned (fun q => quantGrp q == quantGrp a)
  | _ => true

/-- The first step of a list that check 4 refuses. -/
def Image.badStep (g : Image) : List StepWord → Nat → List StepWord → Option Nat
  | _, _, [] => none
  | before, j, w :: ws => if g.stepOk w.kind && g.afterOk before w.kind then Image.badStep g (before ++ [w]) (j + 1) ws else some j

/-- R147: the groups that the QCONVERT steps of some lists into one output tensor cover. -/
def groupsOf (lists : List (List StepWord)) (out : Nat) : List Nat :=
  lists.flatMap (fun l => l.filterMap (fun w => match w.kind with
    | .qconvert a => if a.out = out then some (quantGrp a) else none
    | _ => none))

/-- Whether a QCONVERT's output tensor has every group converted exactly once (R147): over all lists, or over its own core's list for a
program-local tensor, of which every core holds its own. -/
def Image.groupsOk (g : Image) (own : List StepWord) (k : StepKind) : Bool :=
  match k with
  | .qconvert a =>
    let ch := quantChannels a.axis (g.desc a.src)
    let lists := if (g.desc a.out).tier = 0 then [own] else g.steps
    decide (ch ≤ 4096) || (List.range (ceilDiv ch 4096)).all (fun i => ((groupsOf lists a.out).filter (· == i)).length == 1)
  | _ => true

/-- Check 4: a step word of no known KIND, a field out of place, a group left out, or a template whose format is none of the table's (R42). -/
def check4 (b : Bytes) (g : Image) (t : Tables) : Chk Unit := do
  match t.dirs.findSome? (fun d => (List.range d.2).findSome? (fun j =>
      match stepWordOf (stepAt b d.1 j) with
      | none => some (d.1 + 32 * j)
      | some _ => none)) with
  | some off => imgNeed false 4 off
  | none => .ok ()
  match (g.steps.zip t.dirs).findSome? (fun x => (Image.badStep g [] 0 x.1).map (fun j => x.2.1 + 32 * j)) with
  | some off => imgNeed false 4 off
  | none => .ok ()
  match (g.steps.zip t.dirs).findSome? (fun x => (x.1.findIdx? (fun w => !g.groupsOk x.1 w.kind)).map (fun j => x.2.1 + 32 * j)) with
  | some off => imgNeed false 4 off
  | none => .ok ()
  match g.tensors.zipIdx.find? (fun x => !fmtKnown x.1.format) with
  | some x => imgNeed false 4 (t.tensorOff + 160 * x.2 + 6)
  | none => .ok ()

/-! ### Checks 5 and 6 -/

/-- The first LAYER_MARK that goes back (R203). -/
def layerFault : Nat → Nat → List StepWord → Option Nat
  | _, _, [] => none
  | cur, j, w :: ws =>
    match w.kind with
    | .layerMark l => if l < cur then some j else layerFault l (j + 1) ws
    | _ => layerFault cur (j + 1) ws

def isCommit (w : StepWord) : Bool := w.kind == .commit

def isCollective (w : StepWord) : Bool :=
  match w.kind with
  | .collective _ => true
  | _ => false

/-- The step of a list that does not end it as R206 asks: a COMMIT elsewhere than last, or a last step that is none. -/
def commitFault (l : List StepWord) : Option Nat :=
  match l.findIdx? isCommit with
  | none => some (l.length - 1)
  | some j => if j + 1 = l.length then none else some j

/-- A COLLECTIVE outside core 0's list, or with an operand that is no near-memory slot (R215). -/
def Image.collectiveFault (g : Image) (core : Nat) (l : List StepWord) : Option Nat :=
  l.findIdx? (fun w => match w.kind with
    | .collective a => core != 0 || (g.desc a.src).tier != 1 || (g.desc a.dst).tier != 1
    | _ => false)

/-- Check 5: R203, R206 and R215. -/
def check5 (g : Image) (t : Tables) : Chk Unit := do
  match (g.steps.zip t.dirs).zipIdx.findSome? (fun x =>
      ([layerFault 0 0 x.1.1, commitFault x.1.1, g.collectiveFault x.2 x.1.1].findSome? id).map (fun j => x.1.2.1 + 32 * j)) with
  | some off => imgNeed false 5 off
  | none => .ok ()
  imgNeed (g.hasCollective == g.steps.any (fun l => l.any isCollective)) 5 0x1B

/-- Every SIGNAL of an image: its step's offset, its counter and its increment. -/
def Image.signals (g : Image) (t : Tables) : List (Nat × (Nat × Nat) × Nat) :=
  (g.steps.zip t.dirs).flatMap (fun x => x.1.zipIdx.filterMap (fun w => match w.1.kind with
    | .signal e c i => some (x.2.1 + 32 * w.2, (c, e), i)
    | _ => none))

/-- The first SIGNAL that takes a counter above 65,535. -/
def signalFault : List ((Nat × Nat) × Nat) → List (Nat × (Nat × Nat) × Nat) → Option Nat
  | _, [] => none
  | tot, x :: xs =>
    let v := (alookup x.2.1 tot).getD 0 + x.2.2
    if 65535 < v then some x.1 else signalFault (ainsert x.2.1 v tot) xs

/-- Advances one list as far as its WAITs let it: what is left of it and the counters. -/
def advanceList (cluster : Nat) : List StepWord → List ((Nat × Nat) × Nat) → List StepWord × List ((Nat × Nat) × Nat)
  | [], cnt => ([], cnt)
  | w :: ws, cnt =>
    match w.kind with
    | .wait e c => if (alookup (cluster, e) cnt).getD 0 < c then (w :: ws, cnt) else advanceList cluster ws cnt
    | .signal e c i => advanceList cluster ws (ainsert (c, e) ((alookup (c, e) cnt).getD 0 + i) cnt)
    | _ => advanceList cluster ws cnt

/-- One round of the abstract run over every list. -/
def advanceAll : Nat → List (List StepWord) → List ((Nat × Nat) × Nat) → List (List StepWord) × List ((Nat × Nat) × Nat)
  | _, [], cnt => ([], cnt)
  | i, l :: ls, cnt =>
    let (l', cnt) := advanceList (i / 8) l cnt
    let (ls', cnt) := advanceAll (i + 1) ls cnt
    (l' :: ls', cnt)

/-- The abstract run: rounds until no list moves. -/
def abstractRun : Nat → List (List StepWord) → List ((Nat × Nat) × Nat) → List (List StepWord)
  | 0, ls, _ => ls
  | fuel + 1, ls, cnt =>
    let (ls', cnt') := advanceAll 0 ls cnt
    if ls' == ls then ls else abstractRun fuel ls' cnt'

/-- Check 6: increments, and an abstract run that ends every list. -/
def check6 (g : Image) (t : Tables) : Chk Unit := do
  match signalFault [] (g.signals t) with
  | some off => imgNeed false 6 off
  | none => .ok ()
  let left := abstractRun ((g.steps.map List.length).sum + 1) g.steps []
  match ((left.zip g.steps).zip t.dirs).find? (fun x => !x.1.1.isEmpty) with
  | some x => imgNeed false 6 (x.2.1 + 32 * (x.1.2.length - x.1.1.length))
  | none => .ok ()

/-! ### Checks 7 and 8 -/

/-- Whether two program-local tensors overlap in tidepool. -/
def tpOverlap (a b : Desc) : Bool :=
  a.tier == 0 && b.tier == 0 && decide (a.base < b.base + b.arrayBytes) && decide (b.base < a.base + a.arrayBytes)

/-- Whether a step after AFTER_STEP and before the first that names DST names a tensor that overlaps DST. -/
def Image.prefetchClash (g : Image) (p : Prefetch) : Bool :=
  let l := g.steps.getD p.core []
  let rest := match p.after with
    | none => l
    | some j => l.drop (j + 1)
  (rest.takeWhile (fun w => !(stepNames w.kind).contains p.dst)).any (fun w =>
    (stepNames w.kind).any (fun i => tpOverlap (g.desc i) (g.desc p.dst)))

/-- A prefetch entry's own fields (R203). -/
def Image.prefetchOk (g : Image) (p : Prefetch) : Bool :=
  let s := g.desc p.src
  let d := g.desc p.dst
  (g.tensorAt p.src).isSome && (g.tensorAt p.dst).isSome && decide (p.core < g.cores) && s.tier == p.srcTier &&
  (match p.srcTier, p.dstTier with
   | 3, 1 => p.src == p.dst
   | 1, 0 => d.tier == 0 && sameShape s d
   | 2, 0 => d.tier == 0 && sameShape s d
   | _, _ => false) &&
  (match p.after with
   | none => true
   | some j => decide (j < (g.steps.getD p.core []).length)) &&
  (p.dstTier != 0 || !g.prefetchClash p)

/-- The first prefetch entry that check 7 refuses: its fields, or a LAYER below an earlier one of its core. -/
def Image.prefetchFault (g : Image) : List Prefetch → Nat → List Prefetch → Option Nat
  | _, _, [] => none
  | before, i, p :: ps =>
    if g.prefetchOk p && before.all (fun q => q.core != p.core || decide (q.layer ≤ p.layer)) then Image.prefetchFault g (before ++ [p]) (i + 1) ps
    else some i

def check7 (g : Image) (t : Tables) : Chk Unit :=
  match Image.prefetchFault g [] 0 g.prefetch with
  | some i => imgNeed false 7 (t.pfOff + 16 * i)
  | none => .ok ()

/-- Check 8 (R209): every output and input-output slot once in the commit list, and no input slot. -/
def check8 (g : Image) (t : Tables) : Chk Unit := do
  match g.commits.zipIdx.find? (fun c =>
      ((g.slots[c.1.1]?).map (·.2)).getD 0 == 0 || (g.commits.take c.2).any (fun e => e.1 == c.1.1)) with
  | some c => imgNeed false 8 (t.commitOff + 4 * c.2)
  | none => .ok ()
  match g.slots.zipIdx.find? (fun x => x.1.2 != 0 && !g.commits.any (fun e => e.1 == x.2)) with
  | some x => imgNeed false 8 (t.slotOff + 4 * x.2)
  | none => .ok ()

/-- The checks of R216 in their order, on a partition's cores and powered tidepool. -/
def validateImage (b : Bytes) (cores tpBytes : Nat) : Chk Image := do
  check1 b
  let b := b.take (field b 8 4)
  let g := imageOf b
  let t := imageTables b
  check2 g cores tpBytes
  check3 b g t
  check4 b g t
  check5 g t
  check6 g t
  check7 g t
  check8 g t
  .ok g

end Sys2Proof.Machine
end

