-- ==== Sys2Proof/Machine/Tensor.lean ====
section
/-!
DEFINITION. Tensor and quantisation commands (groups 0x3 and 0x5) and the background work on tensors (chapter *Memory tiers and tensors*).
-/
namespace Sys2Proof.Machine

open Sys2Proof

/-- The tensor of a handle of the issuing partition (R169, R527). -/
def State.tensorIdent (s : State) (o : Outst) (h : Nat) : Chk Tensor :=
  match s.tensor? h with
  | some t => if t.desc.part = ioPart o then .ok t else failWith .notFound 0
  | none => failWith .notFound 0

/-- The checker's findings when all parts of a descriptor are read (R218, R222). -/
def State.probeParts (s : State) (d : Desc) : State :=
  (List.range 5).foldl (fun s k => if d.bases.getD k 0 = 0 || inHostWindow (d.bases.getD k 0) then s else s.probe (d.bases.getD k 0) (d.regionBytes k)) s

/-- Whether the element array of a host-window tensor comes with an error or a poisoned TLP (R226). -/
def State.hostFails (s : State) (p : Nat) (d : Desc) : Bool := d.tier == 2 && s.hwinBad p d.base d.arrayBytes

/-- The request for the element array of a host-window tensor (R486). -/
def State.askTensor (s : State) (p : Nat) (d : Desc) : State := if d.tier = 2 then s.askHost p d.base d.arrayBytes else s

/-- Whether any part of a descriptor holds poison. -/
def State.partsPoisoned (s : State) (d : Desc) : Bool :=
  (List.range 5).any (fun k => d.bases.getD k 0 != 0 && s.poisoned (d.bases.getD k 0) (d.regionBytes k))

/-! ### TENSOR_CREATE, TENSOR_DESTROY, TENSOR_INFO -/

/-- The checks of a descriptor that depend on the machine (R150, R487, R676). -/
def State.descChecks (s : State) (o : Outst) (d : Desc) : Chk Unit := do
  need (d.tier != 2 || (inHostWindow d.base && inHostWindow (d.base + d.arrayBytes - 1))) .tensorInvalid 0x10
  let (ns, ob) := backingOf d.backing
  need (d.tier != 3 || s.nsOwner ns == some (ioPart o)) .resourceAbsent 0x80
  need (d.tier != 3 || (match s.obj? ns ob with
    | some x => decide (d.maxPages * 16384 ≤ x.length)
    | none => false)) .tensorInvalid 0x80
  need (!(d.tier == 3 && s.sec.debugOpened && s.encrypted ns)) .protectionDenied s.cfl.protLevel

/-- TENSOR_CREATE (R161, R162, R168, R170, R676). -/
def execTensorCreate (id : CmdId) (home : Nat) (s : State) : Res :=
  .next (s.startCmd id (.tensorCreate id home) (fun s o => do
    need (home == 0xFF || decide (home < Variant.dies s.variant)) .resourceAbsent 0x08
    needIbuf o 160
    needRbuf o 4
    let given := descOf (← s.ibuf o 160)
    if given.tier = 3 && s.nsHeld (backingOf given.backing).1 then .ok (s, .waits) else
    let (s, bs) ← s.takeIbuf o 160
    let d := descOf bs
    match descFault bs d false with
    | some off => failWith .tensorInvalid off
    | none => do
      s.descChecks o d
      let p := ioPart o
      let want (k : Nat) : Nat := if d.tier = 1 then d.regionBytes k else if d.tier = 2 && k = 1 then d.regionBytes 1 else 0
      match s.allocTensor p home want with
      | none => failWith .resourceExhausted (if home = 0xFF then 0xFFFF else home)
      | some (s, bases) =>
        let (s, h) := s.newHandle p
        let d : Desc := { d.setBases (if d.tier = 2 then setAt 0 d.base bases else bases) with
          handle := h, part := p, channels := d.chanCount, bytes := d.arrayBytes }
        let die := if d.tier = 1 then nmDie d.base
          else if d.tier = 2 && home = 0xFF then (if d.expBase = 0 then (s.homeDies p home).headD home else nmDie d.expBase) else home
        let t : Tensor := { desc := d, home := die, dirty := [], staged := false, lastBound := 0 }
        okResult { s with tensors := s.tensors ++ [t] } (leBytes 4 h)))

/-- TENSOR_DESTROY: dirty pages reach the backing object first; it waits where the flash store has no place for one now. -/
def execTensorDestroy (id : CmdId) (h : Nat) (s : State) : Res :=
  .next (s.startCmd id (.tensorDestroy id h) (fun s o => do
    noHold o
    let _ ← s.tensorIdent o h
    need (!s.isBound h && !s.models.any (fun m => decide (h ∈ m.weights))) .resourceBusy 0
    let s := s.writeBackAll h
    if !s.isClean h then .ok (s, .waits)
    else okDone ({ s with tensors := s.tensors.filter (fun t => t.desc.handle ≠ h) }.sweep.settleCeiling)))

/-- The descriptor that TENSOR_INFO reports: an address of 0 for a part that the tensor does not hold (R168). -/
def Desc.shown (d : Desc) : Desc :=
  d.setBases ((List.range 5).map (fun k => if d.holds k then d.bases.getD k 0 else 0))

/-- TENSOR_INFO. -/
def execTensorInfo (id : CmdId) (h : Nat) (s : State) : Res :=
  .next (s.startCmd id (.tensorInfo id h) (fun s o => do
    let t ← s.tensorIdent o h
    needRbuf o 160
    okResult s t.desc.shown.bytesOf))

/-! ### Reads and writes -/

/-- Binds one tensor as an output for a command that writes it, after the judgement of R182. -/
def State.bindTarget (s : State) (id : CmdId) (h : Nat) : Chk State := do
  s.dirtyFits (s.tensorPieces h)
  (s.openBinding id).bindOutputs id [h]

/-- The view of a tensor that a command has bound; an empty one when it has not. -/
def State.viewOf (s : State) (id : CmdId) (h : Nat) : View :=
  (s.boundView id h).getD { desc := {}, bases := [], shadow := none, loc := none }

/-- A write of a command that is no run: the checkers see what its first write to a page reads (R217). -/
def State.tensorPut (s : State) (p : Nat) (id : CmdId) (v : View) (k off : Nat) (bs : Bytes) : State :=
  ((s.lookPages id v k off bs.length).settleFaults).viewPut p id v k off bs

/-- TENSOR_WRITE (R174): the bytes go to a shadow that COMMAND_COMMIT publishes. -/
def execTensorWrite (id : CmdId) (h region off : Nat) (s : State) : Res :=
  .next (s.startCmd id (.tensorWrite id h region off) (fun s o => do
    noHold o
    inRange (decide (region ≤ 3)) 0x0C
    let t ← s.tensorIdent o h
    need (decide (off ≤ t.desc.partBytes region)) .rangeExceeded 0x10
    need (decide (off + o.ibufLen ≤ t.desc.partBytes region)) .rangeExceeded 0x28
    if s.writesHeld && t.desc.tier = 3 then .ok (s, .waits)
    else do
      let s ← s.bindTarget id h
      let (s, bs) ← s.takeIbuf o o.ibufLen
      .ok (s.tensorPut t.desc.part id (s.viewOf id h) region off bs, .runs 0)))

/-- TENSOR_READ (R173, R178, R222): of the generation current when it starts. -/
def execTensorRead (id : CmdId) (h region off len : Nat) (s : State) : Res :=
  .next (s.startCmd id (.tensorRead id h region off len) (fun s o => do
    inRange (decide (region ≤ 4)) 0x0C
    let t ← s.tensorIdent o h
    needRbuf o len
    need (decide (off ≤ t.desc.regionBytes region)) .rangeExceeded 0x10
    need (decide (off + len ≤ t.desc.regionBytes region)) .rangeExceeded 0x18
    let s ← (s.openBinding id).bindInputs id .dataPoisoned 0 [h]
    let v := s.viewOf id h
    let base := v.bases.getD region 0 + off
    let s := if inHostWindow base then s else s.probe base len
    let s := s.askHost t.desc.part base len
    if s.hwinBad t.desc.part base len then failKeep s .dataPoisoned 0
    if s.poisoned base len then .ok ((s.integrity 4 3).loseTensor h, .now .dataPoisoned 0 [])
    else okResult s (s.devRd t.desc.part base len)))

/-- QSTATS (R148). -/
def execQstats (id : CmdId) (h first count : Nat) (s : State) : Res :=
  .next (s.startCmd id (.qstats id h first count) (fun s o => do
    let t ← s.tensorIdent o h
    need (t.desc.holds 4) .notFound 0
    needRbuf o (16 * count)
    need (decide (first < t.desc.chanCount) || count == 0) .rangeExceeded 0x0C
    need (decide (first + count ≤ t.desc.chanCount)) .rangeExceeded 0x10
    let s ← (s.openBinding id).bindInputs id .dataPoisoned 0 [h]
    let base := (s.viewOf id h).bases.getD 4 0 + 16 * first
    let s := s.probe base (16 * count)
    if s.poisoned base (16 * count) then .ok ((s.integrity 4 3).loseTensor h, .now .dataPoisoned 0 [])
    else okResult s (s.devRd t.desc.part base (16 * count))))

/-! ### Whole-tensor copies (R179, R305) -/

/-- Whether two tensors may be copied into one another (R179): answers the descriptor offset that differs. -/
def copyFault (a b : Desc) : Option Nat :=
  if a.format ≠ b.format then some 0x06
  else if a.rank ≠ b.rank then some 0x07
  else if (List.range 5).any (fun i => a.ext i ≠ b.ext i) then some 0x18
  else none

/-- Where a whole-tensor copy's bytes are charged (R413): tidepool with near memory, near memory of two dies, or the host. -/
def copyCounter (a b : View) : Option Nat :=
  if a.desc.tier = 2 then some 16 else if b.desc.tier = 2 then some 17
  else if a.desc.tier = 0 || b.desc.tier = 0 then some 12
  else if nmDie (a.bases.getD 0 0) = nmDie (b.bases.getD 0 0) then none else some 13

/-- The bytes of a whole-tensor copy reach their counter (R413). -/
def State.chargeCopy (s : State) (id : CmdId) (a b : View) : State :=
  match copyCounter a b with
  | some i => s.chargeBytes id i a.desc.arrayBytes
  | none => s

/-- Copies every element row by row, then the exponent plane and the side data that the source holds (R179). -/
def State.copyWhole (s : State) (p : Nat) (id : CmdId) (a b : View) : State :=
  let s := (List.range a.desc.rows).foldl (fun s r => s.tensorPut p id b 0 (b.desc.rowOff r) (s.viewRd p id a 0 (a.desc.rowOff r) a.desc.rowBytes)) s
  [1, 2, 3, 4].foldl (fun s k =>
    let n := min (a.desc.regionBytes k) (b.desc.partBytes k)
    if n = 0 then s else s.tensorPut p id b k 0 (s.viewRd p id a k 0 n)) s

/-- Binds a copy's source as an input and its target as an output, in one binding; `srcAt` and `dstAt` are the packet offsets of their handles. -/
def State.bindPair (s : State) (id : CmdId) (src dst srcAt dstAt : Nat) : Chk State := do
  s.dirtyFits (s.tensorPieces dst)
  let s ← (s.openBinding id).bindInputs id .dataPoisoned 0 [src] (fun _ => srcAt)
  s.bindOutputs id [dst] (fun _ => dstAt)

/-- The source of a copy as it was bound. -/
def State.sourceView (s : State) (id : CmdId) (h : Nat) : View := { s.viewOf id h with shadow := none }

/-- TENSOR_COPY (R179); poison in the source would reach the shadow, so the command fails (R222). -/
def execTensorCopy (id : CmdId) (src dst : Nat) (s : State) : Res :=
  .next (s.startCmd id (.tensorCopy id src dst) (fun s o => do
    noHold o
    let a ← s.tensorIdent o src
    let b ← s.tensorIdent o dst
    match copyFault a.desc b.desc with
    | some off => failWith .tensorInvalid off
    | none =>
      if s.writesHeld && b.desc.tier = 3 then .ok (s, .waits)
      else do
        let s ← s.bindPair id src dst 0x08 0x0C
        let v := s.sourceView id src
        let s := (s.probeParts { v.desc with handle := src }).askTensor a.desc.part v.desc
        if s.hostFails a.desc.part v.desc then failKeep s .dataPoisoned 0
        if s.partsPoisoned v.desc then .ok ((s.integrity 4 3).loseTensor src, .now .dataPoisoned 0 [])
        else .ok ((s.copyWhole a.desc.part id v (s.viewOf id dst)).chargeCopy id v (s.viewOf id dst), .runs 0)))

/-- Fills a held part that a repair's source does not give: what the tensor held, or free values where that is poisoned. -/
def State.refillPart (s : State) (p : Nat) (id : CmdId) (v : View) (k : Nat) : State :=
  let n := v.desc.regionBytes k
  if n = 0 then s
  else if s.poisoned (v.bases.getD k 0) n then
    { (s.tensorPut p id v k 0 ((List.range n).map (Config.freeByte s.freeCount))) with freeCount := s.freeCount + 1 }
  else s.tensorPut p id v k 0 (s.devRd p (v.bases.getD k 0) n)

/-- The regions 0 to 3 that a tensor holds, with their offsets in a repair's input buffer. -/
def Desc.repairLayout (d : Desc) : List (Nat × Nat × Nat) :=
  ([0, 1, 2, 3].filter d.holds).map (fun k => (k, ((List.range k).map d.regionBytes).sum, d.regionBytes k))

/-- TENSOR_REPAIR (R172, R305): the whole element array and side data in one commit. -/
def execTensorRepair (id : CmdId) (h source : Nat) (s : State) : Res :=
  .next (s.startCmd id (.tensorRepair id h source) (fun s o => do
    noHold o
    let t ← s.tensorIdent o h
    let p := t.desc.part
    if source = nullHandle then do
      let n := (t.desc.repairLayout.map (fun x => x.2.2)).sum
      needIbuf o n
      if s.writesHeld && t.desc.tier = 3 then .ok (s, .waits)
      else do
        let s ← s.bindTarget id h
        let (s, bs) ← s.takeIbuf o n
        let v := s.viewOf id h
        let s := t.desc.repairLayout.foldl (fun s x => s.tensorPut p id v x.1 0 ((bs.drop x.2.1).take x.2.2)) s
        .ok (s.refillPart p id v 4, .runs 0)
    else do
      let a ← s.tensorIdent o source
      match copyFault a.desc t.desc with
      | some off => failWith .tensorInvalid off
      | none =>
        if s.writesHeld && t.desc.tier = 3 then .ok (s, .waits)
        else do
          let s ← s.bindPair id source h 0x0C 0x08
          let v := s.sourceView id source
          let s := (s.probeParts v.desc).askTensor p v.desc
          if s.hostFails p v.desc then failKeep s .dataPoisoned 0
          if s.partsPoisoned v.desc then .ok ((s.integrity 4 3).loseTensor source, .now .dataPoisoned 0 [])
          else
            let b := s.viewOf id h
            let s := (s.copyWhole p id v b).chargeCopy id v b
            .ok ([2, 3, 4].foldl (fun s k => if a.desc.holds k then s else s.refillPart p id b k) s, .runs 0)))

/-! ### Staging, write-back, eviction (R172, R183, R184) -/

/-- TENSOR_STAGE: a flash-backed tensor that is not staged takes its near memory and waits for STAGE_TRANSFER; any other has nothing to do. -/
def execTensorStage (id : CmdId) (h : Nat) (s : State) : Res :=
  .next (s.startCmd id (.tensorStage id h) (fun s o => do
    noHold o
    let t ← s.tensorIdent o h
    if t.staged || t.desc.tier ≠ 3 then okDone s
    else
      match s.stage id h (s.tensors.length + 1) with
      | none => failWith .resourceExhausted (s.fullDie h)
      | some _ => .ok (s, .runs 0)))

/-- The running TENSOR_STAGE commands of a tensor. -/
def State.stagersOf (s : State) (h : Nat) : List CmdId := ((s.host.outst.filter (fun o => o.cmd = .tensorStage o.id h && o.phase = .running)).map (·.id))

/-- STAGE_TRANSFER: the tensor that TENSOR_STAGE waits for is in near memory, or POISONED where its backing object cannot be read. -/
def execStageTransfer (h : Nat) (s : State) : Res :=
  .next (
    match s.stagersOf h with
    | [] => s
    | id :: ids =>
      match s.stage id h (s.tensors.length + 1) with
      | none => (id :: ids).foldl (fun s id => s.completeId id .resourceExhausted (s.fullDie h) []) s
      | some t => (id :: ids).foldl (fun s id => s.completeId id .ok 0 []) t)

/-- TENSOR_SYNC: completes when every dirty page has been written back. -/
def execTensorSync (id : CmdId) (h : Nat) (s : State) : Res :=
  .next (s.startCmd id (.tensorSync id h) (fun s o => do
    noHold o
    let t ← s.tensorIdent o h
    if t.dirty.isEmpty then okDone (s.writeBackAll h) else .ok (s, .runs 0)))

/-- TENSOR_WRITE_BACK (R33, R172, R183): the dirty pages of a tensor are written back in ascending order. -/
def execTensorWriteBack (h : Nat) (s : State) : Res :=
  .next (
    if !s.flashFree then s
    else
      let s := s.writeBackAll h
      let ids := (s.host.outst.filter (fun o => o.cmd = .tensorSync o.id h && o.phase = .running)).map (·.id)
      (if s.isClean h then ids.foldl (fun s id => s.completeId id .ok 0 []) s else s).settleCeiling)

/-- TENSOR_EVICT (R172, R184): after write-back the near-memory copy goes; it waits where the flash store has no place for a page now. -/
def execTensorEvict (id : CmdId) (h : Nat) (s : State) : Res :=
  .next (s.startCmd id (.tensorEvict id h) (fun s o => do
    noHold o
    let t ← s.tensorIdent o h
    need (!s.isBound h && !s.models.any (fun m => decide (h ∈ m.weights))) .resourceBusy 0
    if !t.staged then okDone s
    else
      let s := s.writeBackAll h
      if s.isClean h then okDone ((s.unstage h).settleCeiling) else .ok (s, .waits)))

end Sys2Proof.Machine
end

