-- ==== Sys2Proof/Machine/Program.lean ====
section
/-!
DEFINITION. Program and semaphore commands (group 0x4): loading an image, the binding of a run (R193, R465, R679), and semaphores.
-/
namespace Sys2Proof.Machine

open Sys2Proof

/-! ### PROG_LOAD -/

/-- The failure result of R530: a failed load always writes 8 bytes where its buffer holds them; CODE and WHERE are 0 for a failure that is
no numbered check. -/
def loadFailure {α : Type} (o : Outst) : Chk α → Chk α
  | .ok x => .ok x
  | .error f => .error { f with bytes := if o.hold || 8 ≤ o.rbufLen then (if f.bytes.isEmpty then zeros 8 else f.bytes) else [] }

/-- Bytes of the image that PROG_LOAD reads: IMAGE_LEN, once the header's first fields are those of an image. -/
def imageReads (hd : Bytes) : Nat :=
  if field hd 0 4 = 0x47504B4E ∧ field hd 4 2 = 1 ∧ field hd 6 2 = 0x80 then max 128 (field hd 8 4) else 128

/-- PROG_LOAD (R192, R195, R216). -/
def execProgLoad (id : CmdId) (s : State) : Res :=
  .next (s.startCmd id (.progLoad id) (fun s o => loadFailure o (do
    needIbuf o 128
    let hd ← s.ibuf o 128
    needIbuf o (imageReads hd)
    needRbuf o 8
    let (s, b) ← s.takeIbuf o (imageReads hd)
    let p := ioPart o
    let g ← validateImage b (s.runCores p).length (s.entry p).tpBytes
    match s.alloc p 0xFF b.length with
    | none => failWith .resourceExhausted 0xFFFF
    | some (s, base) =>
      let (s, h) := (s.devWr p base b).newHandle p
      okResult { s with progs := s.progs ++ [{ handle := h, part := p, alloc := base, len := b.length, img := g }] } (leBytes 4 h))))

/-- The program of a handle of the issuing partition. -/
def State.progIdent (s : State) (p h : Nat) : Chk Prog :=
  match s.progs.find? (fun x => x.handle = h && x.part = p) with
  | some x => .ok x
  | none => failWith .notFound 0

/-- Whether a queued or running command names a program (R195), or a bound model holds it. -/
def State.progNamed (s : State) (h : Nat) : Bool :=
  s.host.outst.any (fun o => o.phase != .posted && (match o.cmd with
    | .progRun _ x _ => x == h
    | .modelBind _ x _ => x == h
    | _ => false)) || s.models.any (fun m => m.prog == h)

/-- PROG_UNLOAD (R195). -/
def execProgUnload (id : CmdId) (prog : Nat) (s : State) : Res :=
  .next (s.startCmd id (.progUnload id prog) (fun s o => do
    noHold o
    let _ ← s.progIdent (ioPart o) prog
    need (!s.progNamed prog) .resourceBusy 0
    okDone ({ s with progs := s.progs.filter (fun x => x.handle ≠ prog) }).sweep))

/-! ### Binding of a run (R173 to R178, R193, R195) -/

/-- Whether a slot's template is a matrix operand of some step (R679). -/
def Image.matrixSlot (g : Image) (idx : Nat) : Bool :=
  g.steps.any (fun l => l.any (fun w => match w.kind with
    | .streamMm a => a.a == idx || a.w == idx
    | .mv a => a.a == idx || a.w == idx
    | .loadWeights a => a.w == idx
    | _ => false))

/-- Whether a tensor fits a slot (R193, R679): its template's TIER, FORMAT, RANK and EXTENT, scale data on a usable axis. -/
def Image.slotFits (g : Image) (idx : Nat) (d : Desc) : Bool :=
  let t := (g.tensors[idx]?).getD {}
  d.tier == t.tier && sameShape t d && !(g.matrixSlot idx && d.holds 2 && !d.matrixAxis)

/-- The checks of R193 on the tensor of slot `k`. -/
def State.slotCheck (s : State) (p : Nat) (g : Image) (k idx h : Nat) : Chk Unit :=
  match s.tensor? h with
  | none => failWith .notFound 0
  | some t => need (t.desc.part == p && g.slotFits idx t.desc) .tensorInvalid k

/-- The ring of a handle of the partition, formed or BROKEN (R447). -/
def State.runRing (s : State) (p h : Nat) : Chk Ring :=
  match s.ring? h with
  | some r => if r.part = p && r.forming.isNone then .ok r else failWith .notFound 0
  | none => failWith .notFound 0

/-- Units of a collective: LB32 blocks, blocks of 32 F32 elements, or bytes. -/
def collUnits (cop : Nat) (src : Desc) : Nat :=
  match cop with
  | 2 => src.arrayBytes
  | _ => ceilDiv (src.ext 0) 32

/-- Whether SRC and DST have the rank, format and extents that R458, R463 and R464 ask for `n` members: SRC's answer, then DST's. -/
def collShapes (cop n : Nat) (a b : Desc) : Bool × Bool :=
  let units := collUnits cop a
  match cop with
  | 0 => (a.rank == 1 && a.format == 0 && a.ext 0 % 32 == 0, b.rank == 1 && b.format == 7 && b.ext 0 == 2 * units)
  | 1 => (a.rank == 1 && a.format == 0x11 && a.ext 0 % 32 == 0,
          b.rank == 1 && (b.format == 0 || b.format == 0x11) && b.ext 0 == 32 * chunkMax units n)
  | _ => (a.rank == 1, b.rank == 1 && b.arrayBytes == n * units)

/-- The slot at which a COLLECTIVE step's operands do not suit its ring (R465). -/
def State.collFault (s : State) (g : Image) (slotT rings : List Nat) (a : CollArgs) : Option Nat :=
  let desc (i : Nat) : Desc := (((g.slotOf i).bind (fun k => s.tensor? (slotT.getD k 0))).map (·.desc)).getD {}
  let n := ((s.ring? (rings.getD a.ring 0)).map (·.members)).getD 0
  let ok := collShapes a.cop n (desc a.src) (desc a.dst)
  if !ok.1 then g.slotOf a.src else if !ok.2 then g.slotOf a.dst else none

/-- The COLLECTIVE steps of an image. -/
def Image.collectives (g : Image) : List CollArgs :=
  g.steps.flatMap (fun l => l.filterMap (fun w => match w.kind with
    | .collective a => some a
    | _ => none))

/-- Checks a list one by one. -/
def checkAll {α : Type} (f : α → Chk Unit) : List α → Chk Unit
  | [] => .ok ()
  | x :: xs => do
    f x
    checkAll f xs

/-- Slots of an image with what they are bound to: slot number, template index, access, handle. -/
def Image.bound (g : Image) (slotT : List Nat) : List (Nat × Nat × Nat × Nat) :=
  g.slots.zipIdx.map (fun x => (x.2, x.1.1, x.1.2, slotT.getD x.2 0))

/-- The tensors that a run may write, each once. -/
def Image.outputs (g : Image) (slotT : List Nat) : List Nat :=
  ((g.bound slotT).filter (fun x => x.2.2.1 != 0)).map (fun x => x.2.2.2) |>.eraseDups

/-- The tensors that a run reads as inputs, each once. -/
def Image.inputs (g : Image) (slotT : List Nat) : List Nat :=
  ((g.bound slotT).filter (fun x => x.2.2.1 != 1)).map (fun x => x.2.2.2) |>.eraseDups

/-- Handles of 4 bytes each, read from an input buffer. -/
def handlesOf (bs : Bytes) (off n : Nat) : List Nat := (List.range n).map (fun i => field bs (off + 4 * i) 4)

/-- Every check of a binding that needs no memory (R193, R195, R465). -/
def State.bindChecks (s : State) (p : Nat) (g : Image) (slotT rings : List Nat) : Chk Unit := do
  checkAll (fun h => do
    let _ ← s.runRing p h
    .ok ()) rings
  checkAll (fun x => s.slotCheck p g x.1 x.2.1 x.2.2.2) (g.bound slotT)
  checkAll (fun a => match s.collFault g slotT rings a with
    | some k => failWith .tensorInvalid k
    | none => .ok ()) g.collectives
  need (decide (g.cores ≤ (s.runCores p).length) && decide (g.tpBytes ≤ (s.entry p).tpBytes)) .resourceExhausted 0xFFFF

/-- Whether a run must wait for a CFG_WRITE that lowers the dirty ceiling (R33): it can add dirty tensor pages. -/
def State.outputsHeld (s : State) (hs : List Nat) : Bool := s.writesHeld && hs.any (fun h => decide (0 < s.tensorPieces h))

/-- PROG_RUN: binds and starts at step 0 (R193 to R195, R396). -/
def execProgRun (id : CmdId) (prog : Nat) (seed : W64) (s : State) : Res :=
  .next (s.startCmd id (.progRun id prog seed) (fun s o =>
    if !s.sliceAllows id then .ok (s, .waits)
    else do
      noHold o
      let p := ioPart o
      let x ← s.progIdent p prog
      let g := x.img
      let n := 4 * (g.slots.length + g.rings)
      needIbuf o n
      let (s, bs) ← s.takeIbuf o n
      let slotT := handlesOf bs 0 g.slots.length
      let rings := handlesOf bs (4 * g.slots.length) g.rings
      s.bindChecks p g slotT rings
      s.dirtyFits ((g.outputs slotT).map s.tensorPieces).sum
      if s.outputsHeld (g.outputs slotT) then .ok (s, .waits)
      else do
        let wher (h : Nat) : Nat := 4 * slotT.idxOf h
        let s ← (s.openBinding id).bindInputs id .dataPoisoned 0 (g.inputs slotT) wher
        let s ← s.bindOutputs id (g.outputs slotT) wher
        .ok (s.startRun id p (qCtx id.queue) g slotT rings seed, .runs 0)))

/-! ### Semaphores (R405 to R411) -/

/-- The semaphore of a handle of the issuing partition. -/
def State.semIdent (s : State) (p h : Nat) : Chk Sem :=
  match s.sems.find? (fun x => x.handle = h && x.part = p) with
  | some x => .ok x
  | none => failWith .notFound 0

/-- Whether a command may take a free semaphore (R407): no other SEM_ACQUIRE of it waits to start whose doorbell arrived before, and no entry that rang
before, which may be one, is still to be fetched. -/
def State.semTurn (s : State) (o : Outst) (sem : Nat) : Bool :=
  s.nothingRung o && s.host.outst.all (fun x => x.id == o.id || x.phase != .waiting || !x.ready s.host.outst || !s.rangBefore x.id o.id ||
    (match x.cmd with
     | .semAcquire _ h .. => h != sem || ioPart x != ioPart o
     | _ => true))

/-- SEM_CREATE (R405). -/
def execSemCreate (id : CmdId) (s : State) : Res :=
  .next (s.startCmd id (.semCreate id) (fun s o => do
    needRbuf o 4
    let p := ioPart o
    need (decide ((s.sems.filter (fun x => x.part = p)).length < 64)) .resourceExhausted 0xFFFF
    let (s, h) := s.newHandle p
    okResult { s with sems := s.sems ++ [{ handle := h, part := p, holder := none, abandoned := false, waiters := [] }] } (leBytes 4 h)))

/-- SEM_ACQUIRE (R406, R407): takes a free semaphore, or waits in the order of the doorbells. -/
def execSemAcquire (id : CmdId) (sem donateMax timeout : Nat) (s : State) : Res :=
  .next (s.startCmd id (.semAcquire id sem donateMax timeout) (fun s o => do
    inRange (decide (donateMax ≤ 64)) 0x0C
    inRange (decide (timeout ≤ 10000000)) 0x10
    let x ← s.semIdent (ioPart o) sem
    needRbuf o 4
    let c := qCtx id.queue
    match x.holder with
    | none =>
      if !s.semTurn o sem then .ok (s, .waits)
      else okResult (s.updSem sem (fun y => { y with holder := some c, abandoned := false })) (leBytes 4 (if x.abandoned then 1 else 0))
    | some h => do
      need (h != c) .resourceBusy 0
      let w : Waiter := { id := id, ctx := c, donateMax := donateMax, donations := 0, timeout := timeout }
      let join (y : Sem) : Sem := { y with waiters := insertBy (fun a b => s.rangBefore a.id b.id) w y.waiters }
      .ok (s.updSem sem join, .runs 4)))

/-- SEM_RELEASE (R407). -/
def execSemRelease (id : CmdId) (sem : Nat) (s : State) : Res :=
  .next (s.startCmd id (.semRelease id sem) (fun s o => do
    noHold o
    let x ← s.semIdent (ioPart o) sem
    need (x.holder == some (qCtx id.queue)) .semNotHolder (x.holder.getD 0xFFFF)
    okDone ((s.updSem sem (fun y => { y with holder := none })).passSem sem)))

/-- SEM_DESTROY (R411). -/
def execSemDestroy (id : CmdId) (sem : Nat) (s : State) : Res :=
  .next (s.startCmd id (.semDestroy id sem) (fun s o => do
    noHold o
    let x ← s.semIdent (ioPart o) sem
    need (x.holder.isNone && x.waiters.isEmpty) .resourceBusy 0
    okDone { s with sems := s.sems.filter (fun y => y.handle ≠ sem) }))

end Sys2Proof.Machine
end

