-- ==== Sys2Proof/Machine/Issue.lean ====
section
/-!
DEFINITION. The issue of steps (R200 to R206): engines and their room, operand hazards, events, prefetches, the reads and writes of a
step with poison (R222) and carried tidepool (R185, R186), and the failures of a run.
-/
namespace Sys2Proof.Machine

open Sys2Proof

/-! ### What a step touches -/

/-- Where a step's bytes lie for the hazard test: tidepool bytes, accumulator rows, scale registers, a side part of a program-local tensor, or a
whole tensor by handle (R200). -/
inductive Space where
  | tidepool
  | accRows
  | scaleRegs
  | side (idx k : Nat)
  | tensor (h : Nat)
  deriving DecidableEq, Repr

/-- A range of one space. -/
structure Span where
  space : Space
  lo : Nat
  n : Nat
  deriving DecidableEq, Repr

def Span.meets (a b : Span) : Bool :=
  a.space == b.space && decide (0 < a.n) && decide (0 < b.n) && decide (a.lo < b.lo + b.n) && decide (b.lo < a.lo + a.n)

def spansOverlap (xs ys : List Span) : Bool := xs.any (fun x => ys.any x.meets)

/-- Bytes of `len` elements from element `c0` of `n` rows from row `r0`: offsets in the element array with their lengths. -/
def Desc.cellBytes (d : Desc) (r0 n c0 len : Nat) : List (Nat × Nat) :=
  let w := fmtBits d.format
  if len = 0 then []
  else (List.range n).map (fun i => (d.rowOff (r0 + i) + c0 * w / 8, packedLen w (c0 + len) - c0 * w / 8))

/-- The exponent bytes of `len` elements from element `c0` of `n` rows from row `r0` of a program-local tensor (R171). -/
def Desc.expSpans (d : Desc) (idx r0 n c0 len : Nat) : List Span :=
  if len = 0 || d.expCount = 0 then []
  else (List.range n).map (fun i => ⟨.side idx 1, d.expIdx (r0 + i) c0, d.expIdx (r0 + i) (c0 + len - 1) + 1 - d.expIdx (r0 + i) c0⟩)

/-- The scale data, sums and statistics that a tensor can hold. -/
def Desc.sideSpans (d : Desc) (idx : Nat) (ks : List Nat) : List Span := ks.map (fun k => ⟨.side idx k, 0, d.partBytes k⟩)

/-- The spans that a step writes of an operand: exact bytes in tidepool with their exponents, or the whole bound tensor. -/
def Run.cellsOut (r : Run) (idx r0 n c0 len : Nat) : List Span :=
  match r.img.tensors[idx]? with
  | none => []
  | some d =>
    if d.tier = 0 then (d.cellBytes r0 n c0 len).map (fun x => ⟨.tidepool, d.base + x.1, x.2⟩) ++ d.expSpans idx r0 n c0 len
    else
      match r.img.slotOf idx with
      | some k => [⟨.tensor (r.slotT.getD k 0), 0, 1⟩]
      | none => []

/-- The spans that a step reads of an operand: scale data and sums come with its elements. -/
def Run.cells (r : Run) (idx r0 n c0 len : Nat) : List Span :=
  match r.img.tensors[idx]? with
  | none => []
  | some d => r.cellsOut idx r0 n c0 len ++ (if d.tier = 0 then d.sideSpans idx [2, 3] else [])

/-- The spans of a whole operand, every part of it. -/
def Run.whole (r : Run) (idx : Nat) : List Span :=
  match r.img.tensors[idx]? with
  | none => []
  | some d => r.cellsOut idx 0 d.rows 0 (d.stored0) ++ (if d.tier = 0 then d.sideSpans idx [1, 2, 3, 4] else [])

def Run.desc (r : Run) (idx : Nat) : Desc := (r.img.tensors[idx]?).getD {}

/-- Tidepool spans of a matrix step: what it reads, and what it writes (R96, R97, R198). -/
def Run.matSpans (r : Run) (a : MatArgs) (mv : Bool) : List Span × List Span :=
  let win : Span := ⟨.accRows, a.accBase, 2 ^ a.accLog2W⟩
  let regs : Span := ⟨.scaleRegs, a.sregBase, a.n⟩
  ( r.cells a.a a.mOff a.m a.kOff a.k ++ (if mv then r.cells a.w a.nOff a.n a.kOff a.k else r.cells a.w 0 0 0 0)
      ++ (if a.bias = noTensor then [] else r.cells a.bias 0 1 a.nOff a.n)
      ++ (if a.final && intTarget a.outFormat then [regs] else []) ++ [win]
  , win :: (if a.final then r.cellsOut a.out a.mOff a.m a.nOff a.n else []) )

/-- Rows, columns and entries of the group of a quantisation step (R138): first row and count, first column and count, entry count. -/
structure QuantGroup where
  r0 : Nat
  rn : Nat
  c0 : Nat
  cn : Nat
  entries : Nat
  deriving DecidableEq, Repr

def quantGroup (a : QuantArgs) (d : Desc) : QuantGroup :=
  let lo := 4096 * a.group
  match a.axis with
  | 1 => let n := min 4096 (d.ext 0 - lo); ⟨0, d.rows, lo, n, n⟩
  | 2 => let n := min 4096 (d.rows - lo); ⟨lo, n, 0, d.ext 0, n⟩
  | _ => ⟨0, d.rows, 0, d.ext 0, 1⟩

/-- Entries of the scale registers that a quantisation step uses (R138). -/
def quantRegs (g : Image) (a : QuantArgs) : Span := ⟨.scaleRegs, 0, (quantGroup a (g.desc a.src)).entries⟩

/-- What a quantisation step reads of its source: the elements of its group. -/
def Run.quantIn (r : Run) (a : QuantArgs) : List Span :=
  let q := quantGroup a (r.img.desc a.src)
  r.cells a.src q.r0 q.rn q.c0 q.cn

/-- What a QCONVERT writes: the codes of its group with its channels' scale data and statistics, and sums (R144 to R146). -/
def Run.quantOut (r : Run) (a : QuantArgs) : List Span :=
  let d := r.img.desc a.out
  let q := quantGroup a (r.img.desc a.src)
  let side (k w : Nat) : Span := ⟨.side a.out k, w * 4096 * quantGrp a, w * q.entries⟩
  r.cellsOut a.out q.r0 q.rn q.c0 q.cn ++ (if d.tier = 0 then [side 2 8, side 4 16] ++ d.sideSpans a.out [3] else [])

/-- What a VEC step reads of operand B or C: the elements that its rows take (R197), or all of the table of an LB32 conversion and of an index
tensor. -/
def Run.vecIn (r : Run) (a : VecArgs) (use i : Nat) : List Span :=
  match vecOperand use i with
  | none => []
  | some x =>
    let d := r.img.desc x
    let n := min (d.ext 0) ((r.img.desc (if a.a = noTensor then a.out else a.a)).ext 0)
    if vopMoves a.vop || d.format = 7 then r.whole x
    else if use = 2 then r.cells x 0 1 0 1
    else if use = 1 then r.cells x 0 1 0 n
    else r.cells x (vecRows r.img a).1 (vecRows r.img a).2 0 n

/-- What a VEC step writes to a tensor: the elements of its rows, in whole blocks (R675). -/
def Run.vecOut (r : Run) (a : VecArgs) (x : Nat) : List Span :=
  let d := r.img.desc x
  let len := vopOutLen a.vop a.topkK ((r.img.desc (if a.a = noTensor then a.out else a.a)).ext 0) (d.ext 0)
  let bs := max 1 (blockSize d.format)
  if vopMoves a.vop then r.whole x else r.cellsOut x (vecRows r.img a).1 (vecRows r.img a).2 0 (ceilDiv len bs * bs)

/-- Whether a matrix step runs on the MV (R100). -/
def Image.onMv (g : Image) (isMv : Bool) (a : MatArgs) : Bool := routeStep isMv a.engine a.m (g.desc a.w).format == some true

/-- What a step reads and what it writes (R200). -/
def Run.touches (r : Run) (k : StepKind) : List Span × List Span :=
  let g := r.img
  match k with
  | .loadWeights a =>
    let (k, n) := tileOf a.shape
    let d := g.desc a.w
    (r.cells a.w (a.tileN * n) (min n (d.rows - a.tileN * n)) (a.tileK * k) (min k (d.ext 0 - a.tileK * k)), [])
  | .streamMm a => r.matSpans a (g.onMv false a)
  | .mv a => r.matSpans a true
  | .vec a =>
    let (r0, n) := vecRows g a
    let gs := vopMoves a.vop
    let outs := r.vecOut a a.out
    let idx := if vopSorts a.vop then (vecOperand a.cUse a.c).toList else []
    let ins := (if a.a = noTensor then [] else if gs then r.whole a.a else r.cells a.a r0 n 0 ((g.desc a.a).ext 0)) ++ r.vecIn a a.bUse a.b
    (ins ++ (if vopSorts a.vop then [] else r.vecIn a a.cUse a.c) ++ (if gs then outs else []), outs ++ idx.flatMap (r.vecOut a))
  | .qscan a => (r.quantIn a, [quantRegs g a])
  | .qconvert a => (quantRegs g a :: r.quantIn a, quantRegs g a :: r.quantOut a)
  | .copy _ s d => (r.whole s, r.whole d)
  | .fill _ off n _ => ([], [⟨.tidepool, off, n⟩])
  | .tpCopy s d n => ([⟨.tidepool, s, n⟩], [⟨.tidepool, d, n⟩])
  | .collective a => (r.whole a.src, r.whole a.dst)
  | _ => ([], [])

/-! ### Engines (R200) -/

/-- The engines that hold steps. -/
inductive Engine where
  | loadPath
  | matrix
  | mv
  | vector
  | copyEngine
  | adders
  | sequencer
  deriving DecidableEq, Repr

def Image.engineOf (g : Image) (k : StepKind) : Engine :=
  match k with
  | .loadWeights _ => .loadPath
  | .swap _ => .matrix
  | .streamMm a => if g.onMv false a then .mv else .matrix
  | .mv _ => .mv
  | .vec _ => .vector
  | .qscan _ => .vector
  | .qconvert _ => .vector
  | .copy .. => .copyEngine
  | .fill .. => .copyEngine
  | .tpCopy .. => .copyEngine
  | .collective _ => .adders
  | _ => .sequencer

/-- Where the entries of the prefetch schedule begin in a list of what is in flight: step lists end below (R191). -/
def pfKey : Nat := 65536

/-- The steps that an engine of a core holds. -/
def Run.held (r : Run) (c : CoreRun) (e : Engine) : List StepKind :=
  let list := r.img.steps.getD ((r.cores.findIdx? (fun x => x.flat = c.flat)).getD 0) []
  ((c.inflight.filterMap (fun j => list[j]?)).map (·.kind)).filter (fun k => r.img.engineOf k == e)

def isSwap : StepKind → Bool
  | .swap _ => true
  | _ => false

/-- What the copy engine of a core has in its queue, in order of entry: steps and prefetch entries (R200). -/
def Run.copyQueue (r : Run) (c : CoreRun) : List Nat :=
  let list := r.img.steps.getD ((r.cores.findIdx? (fun x => x.flat = c.flat)).getD 0) []
  c.inflight.filter (fun j => decide (pfKey ≤ j) || ((list[j]?).map (fun w => r.img.engineOf w.kind == .copyEngine)).getD false)

/-- Whether an engine has room for a step (R200): the copy engine queues 16 transfers; every other engine holds one step, but the ME takes one
pending SWAP beside the stream that runs; the sequencer's own steps need none. -/
def Run.hasRoom (r : Run) (c : CoreRun) (k : StepKind) : Bool :=
  match r.img.engineOf k with
  | .copyEngine => decide ((r.copyQueue c).length < 16)
  | .sequencer => true
  | .matrix => if isSwap k then !(r.held c .matrix).any isSwap else (r.held c .matrix).isEmpty
  | e => (r.held c e).isEmpty

/-- The half of the array that a step uses: half B of DUAL alone is the second. -/
def halfOf (shape : Nat) (halfB : Bool) : Nat := if shape = 4 && halfB then 1 else 0

/-- The halves whose sets a tile of a shape takes: only DUAL works half by half (R87). -/
def tileHalves (shape half : Nat) : List Nat := if shape = 4 then [half] else [0, 1]

def b2n (b : Bool) : Nat := if b then 1 else 0

/-- Whether the declared cluster's counter of a WAIT has reached its COUNT (R202); counters are kept by flat cluster. -/
def State.eventOf (s : State) (cluster e : Nat) : Nat := (alookup (cluster, e) s.events).getD 0

/-! ### Prefetches (R203, R204) -/

/-- Prefetch entries of one core that a step at an index waits for: entries whose DST it names, past their AFTER_STEP. -/
def Image.awaits (g : Image) (k : StepKind) (idx core : Nat) : List Nat :=
  (g.prefetch.zipIdx.filter (fun p =>
    (stepNames k).contains p.1.dst && (p.1.core == core || p.1.srcTier == 3) && (match p.1.after with
      | none => true
      | some j => decide (j < idx)))).map (·.2)

/-- The declared number of a core in a run. -/
def Run.coreNo (r : Run) (flat : Nat) : Nat := (r.cores.findIdx? (fun c => c.flat = flat)).getD 0

/-- Whether a prefetch entry has completed, on whichever core issued it. -/
def Run.pfComplete (r : Run) (e : Nat) : Bool := r.cores.any (fun c => c.pfDone.contains e)

/-- Whether the stall share holds every sequencer now: the first part of each period of 10 µs, which has a share of it in percent (R604; log
entry 82). -/
def State.stalled (s : State) : Bool := decide (s.now % 10 * 10 < s.power.stall)

/-- The pseudocode can_issue (R200) for the step at `idx` of a core; in a stall nothing issues (R604). -/
def State.canIssue (s : State) (r : Run) (c : CoreRun) (w : StepWord) : Bool :=
  let g := r.img
  let no := r.coreNo c.flat
  let list := g.steps.getD no []
  let running := c.inflight.filterMap (fun j => list[j]?)
  let t := r.touches w.kind
  let x := s.core c.flat
  !s.stalled && (!w.sync || running.isEmpty) && r.hasRoom c w.kind &&
  running.all (fun e =>
    let u := r.touches e.kind
    !spansOverlap u.2 (t.1 ++ t.2) && !spansOverlap u.1 t.2) &&
  (g.awaits w.kind c.pc no).all r.pfComplete &&
  (match w.kind with
   | .streamMm a => !(c.pendingSwap.getD (halfOf a.shape a.halfB) false)
   | .swap h => !(c.pendingSwap.getD (b2n h) false)
   | .loadWeights a => (tileHalves a.shape (halfOf a.shape a.halfB)).all (fun h => !(x.loaded.getD h false))
   | .wait e n => decide (n ≤ s.eventOf (c.flat / 8) e)
   | .signal .. => running.isEmpty
   | .collective a => (match s.ring? (r.rings.getD a.ring 0) with
     | some ring => ring.current.isNone
     | none => true)
   | _ => true)

/-- Changes the progress of one core of a run. -/
def State.updCore (s : State) (id : CmdId) (flat : Nat) (f : CoreRun → CoreRun) : State :=
  s.updRun id (fun r => { r with cores := mapIf (fun c => c.flat = flat) f r.cores })

/-- Whether a kind of step stays in its engine after it has been issued. -/
def stays : StepKind → Bool
  | .wait .. => false
  | .signal .. => false
  | .layerMark _ => false
  | .commit => false
  | _ => true

/-- The tidepool bytes that a step is about to overwrite on a core, and those that a copy writes in the host window, as they stand (R210). -/
def State.standing (s : State) (r : Run) (flat : Nat) (spans : List Span) : List (Nat × Bytes) :=
  spans.flatMap (fun x => match x.space with
    | .tidepool => [(tpBase flat + x.lo, s.rd (tpBase flat + x.lo) x.n)]
    | .tensor h =>
      match s.tensor? h with
      | some t => if t.desc.tier = 2 then [(t.desc.base, s.devRd r.part t.desc.base t.desc.arrayBytes)] else []
      | none => []
    | _ => [])

/-- Keeps what a step in flight overwrites, until it has completed (R210). -/
def State.keepOld (s : State) (r : Run) (flat idx : Nat) (spans : List Span) : State :=
  let old := s.standing r flat spans
  if old.isEmpty then s else s.updCore r.id flat (fun c => { c with undo := c.undo ++ [(idx, old)] })

/-- Issues the next step of a core's list when it is `k` and every condition of R200 holds; its effect follows. -/
def State.issue (s : State) (flat : Nat) (k : StepKind) (eff : State → Run → CoreRun → State) : State :=
  match s.runOn flat with
  | none => s
  | some r =>
    match r.cores.find? (fun c => c.flat = flat) with
    | none => s
    | some c =>
      match (r.img.steps.getD (r.coreNo flat) [])[c.pc]? with
      | none => s
      | some w =>
        if w.kind == k && !c.atCommit && s.canIssue r c w then
          let go (x : CoreRun) : CoreRun := { x with pc := x.pc + 1, inflight := if stays k then x.inflight ++ [x.pc] else x.inflight }
          eff ((s.keepOld r flat c.pc (if stays k then (r.touches k).2 else [])).updCore r.id flat go) r c
        else s

/-! ### Operand access -/

/-- The device addresses of `n` bytes at `off` of a part of a view, as the run reads them. -/
def State.viewSpans (s : State) (id : CmdId) (v : View) (k off n : Nat) : List (Nat × Nat) :=
  (pagePieces (n / 16384 + 2) off n).map (fun x => (s.pageBase id v k (x.1 / 16384) + x.1, x.2))

/-- Device addresses of some cells of an operand, its exponent bytes and its side data included. -/
def State.cellSpans (s : State) (id : CmdId) (v : View) (r0 n c0 len : Nat) : List (Nat × Nat) :=
  (v.desc.cellBytes r0 n c0 len).flatMap (fun x => s.viewSpans id v 0 x.1 x.2)
    ++ (if len = 0 || v.desc.expCount = 0 then [] else (List.range n).flatMap (fun i =>
      s.viewSpans id v 1 (v.desc.expIdx (r0 + i) c0) (v.desc.expIdx (r0 + i) (c0 + len - 1) + 1 - v.desc.expIdx (r0 + i) c0)))
    ++ [2, 3].flatMap (fun k => if v.desc.holds k then s.viewSpans id v k 0 (v.desc.partBytes k) else [])

/-- Reads operands: what the checkers find comes first (R222), then poison stops the run, and so does host data that arrives bad (R226), else
the step goes on. -/
def State.reading (s : State) (id : CmdId) (spans : List (Nat × Nat)) (go : State → State) : State :=
  let s := spans.foldl (fun s x => s.probe x.1 x.2) s
  if (s.run? id).isNone then s
  else if spans.any (fun x => s.hwinBad ((qPart id.queue).getD 0) x.1 x.2) then s.failRun id .dataPoisoned 0
  else
    match spans.find? (fun x => s.poisoned x.1 x.2) with
    | some x => s.consumed id (if x.1 < 0x80000000 then 0 else 4)
    | none => go s

/-- Before a write to tidepool: dirty bits (R185), and the save of a carried region at its first write in the run when it is dirty (R186). -/
def State.tpTouch (s : State) (r : Run) (flat off n : Nat) : State :=
  let core := r.coreNo flat
  ((List.range ((off + n + 4095) / 4096 - off / 4096)).map (· + off / 4096)).foldl (fun s reg =>
    let key := core * 2048 + reg
    let first := reg * 4096 < r.img.carry && !((s.run? r.id).map (fun x => x.carryWritten.contains key)).getD true
    let addr := tpBase flat + reg * 4096
    let s :=
      if first && (flat, reg) ∈ s.tpDirty then
        let s := s.findAll addr 4096
        let bytes := s.rd addr 4096
        let marks := s.saveMarks core flat reg
        (s.updCtx r.part r.ctx (fun x => { x with saveArea := x.saveArea.writeN 0 (core * 2 ^ 23 + reg * 4096) bytes })).putMarks r.part r.ctx core reg marks
      else s
    let s := if first then s.updRun r.id (fun x => { x with carryWritten := addOnce key x.carryWritten }) else s
    { s with tpDirty := addOnce (flat, reg) s.tpDirty }) s

/-- Notes that a step is about to write `n` bytes at `off` of a part of a view: tidepool regions, or the side data of a local tensor. -/
def State.touchView (s : State) (r : Run) (v : View) (k off n : Nat) : State :=
  match v.loc with
  | none => s
  | some (flat, idx) =>
    if k = 0 then s.tpTouch r flat (v.bases.getD 0 0 - tpBase flat + off) n
    else
      let upd (x : Run) : Run := { x with localFlags := ainsert (flat, idx) (((alookup (flat, idx) x.localFlags).getD 0) ||| partFlag k) x.localFlags }
      s.updRun r.id upd

/-- A step's write of bytes at `off` of a part of a view. -/
def State.stepWr (s : State) (r : Run) (v : View) (k off : Nat) (bs : Bytes) : State :=
  if bs.isEmpty then s
  else
    let s := ((s.touchView r v k off bs.length).lookPages r.id v k off bs.length).settleFaults
    if (s.run? r.id).isNone then s else s.viewPut r.part r.id v k off bs

/-- A step's write of element codes to row `row` from element `c0`. -/
def State.stepCodes (s : State) (r : Run) (v : View) (row c0 : Nat) (cs : List Nat) : State :=
  if cs.isEmpty then s
  else
    let w := fmtBits v.desc.format
    let lo := c0 * w / 8
    let n := packedLen w (c0 + cs.length) - lo
    let s := ((s.touchView r v 0 (v.desc.rowOff row + lo) n).lookPages r.id v 0 (v.desc.rowOff row + lo) n).settleFaults
    if (s.run? r.id).isNone then s else (s.putCodes r.part r.id v row c0 cs).dropView r.id v 0 (v.desc.rowOff row + lo) n

/-- Adds what a step has raised to its run (R69, R70, R122). -/
def State.addEv (s : State) (id : CmdId) (ev : Ev) : State :=
  s.updRun id (fun r => { r with flags := r.flags ||| ev.flags, saturations := r.saturations + ev.sats, nanConv := r.nanConv + ev.nans })

/-! ### Random draws (R124 to R127) -/

/-- One draw of generator `g` of a core: its new state. -/
def State.drawWord (s : State) (flat g : Nat) : State × W64 :=
  let c := s.core flat
  let x := rngStep ((alookup g c.rng).getD (rngInit c.rngSeed flat g))
  (s.setCore flat { c with rng := ainsert g x c.rng }, x)

/-- The value r of an SR rounding; another mode draws nothing (R126). -/
def State.drawSr (s : State) (flat g mode : Nat) : State × Nat :=
  if mode = 2 then
    let (s, x) := s.drawWord flat g
    (s, x.toNat / 2 ^ 48)
  else (s, 0)

/-- Draws for a list of generators, in order. -/
def State.drawMany (s : State) (flat mode : Nat) : List Nat → State × List Nat
  | [] => (s, [])
  | g :: gs =>
    let (s, x) := s.drawSr flat g mode
    let (s, xs) := State.drawMany s flat mode gs
    (s, x :: xs)

/-! ### Sequencer and copy-engine steps -/

/-- WAIT (R202): it completes as soon as its counter has reached COUNT. -/
def execWait (core event count : Nat) (s : State) : Res := .next (s.issue core (.wait event count) (fun s _ _ => s))

/-- SIGNAL (R202): the counter of a declared cluster rises by INCREMENT. -/
def execSignal (core event cluster increment : Nat) (s : State) : Res :=
  .next (s.issue core (.signal event cluster increment) (fun s r _ =>
    match r.cores[8 * cluster]? with
    | none => s
    | some c => { s with events := ainsert (c.flat / 8, event) (s.eventOf (c.flat / 8) event + increment) s.events }))

/-- LAYER_MARK (R203). -/
def execLayerMark (core layer : Nat) (s : State) : Res :=
  .next (s.issue core (.layerMark layer) (fun s r _ => s.updCore r.id core (fun c => { c with layer := layer })))

/-- COMMIT (R206): the core issues nothing further. -/
def execCommit (core : Nat) (s : State) : Res :=
  .next (s.issue core .commit (fun s r _ => s.updCore r.id core (fun c => { c with atCommit := true })))

/-- The bytes that FILL writes (R155): the constant repeated from OFFSET on. -/
def fillBytes (width n value : Nat) : Bytes := (List.range n).map (fun i => BitVec.ofNat 8 (value / 256 ^ (i % width)))

/-- FILL (R155). -/
def execFill (core width offset length value : Nat) (s : State) : Res :=
  .next (s.issue core (.fill width offset length value) (fun s r _ =>
    (s.tpTouch r core offset length).devWr r.part (tpBase core + offset) (fillBytes width length value)))

/-- TP_COPY (R156): the destination receives the source as it stood before the step. -/
def execTpCopy (core srcOff dstOff length : Nat) (s : State) : Res :=
  .next (s.issue core (.tpCopy srcOff dstOff length) (fun s r _ =>
    let src := tpBase core + srcOff
    let dst := tpBase core + dstOff
    let s := s.probe src length
    if (s.run? r.id).isNone then s
    else
      let bad := s.carryPoison src dst length
      ((s.tpTouch r core dstOff length).devWr r.part dst (s.rd src length)).addPoison bad))

/-- The device addresses of every part that a copy's source holds. -/
def State.copySpans (s : State) (id : CmdId) (v : View) : List (Nat × Nat) :=
  (List.range 5).flatMap (fun k => if v.desc.regionBytes k = 0 then [] else s.viewSpans id v k 0 (v.desc.regionBytes k))

/-- One piece of a copy: bytes of a part, with the poison that they bring into tidepool (R222). -/
def State.copyPiece (s : State) (r : Run) (a b : View) (k src dst n : Nat) : State :=
  let here : Nat := s.pageBase r.id a k (src / 16384) + src
  let bad := if b.loc.isSome && !inHostWindow here then s.carryPoison here (b.bases.getD k 0 + dst) n else []
  (s.stepWr r b k dst (s.viewRd r.part r.id a k src n)).addPoison bad

/-- Copies every element and the present side data between two operands of a run (R179); `hint` keeps the source out of the die cache (R163).
Poison goes into tidepool with the data; it may reach no shadow and no host (R222, R224). -/
def State.copyRun (s : State) (r : Run) (hint : Bool) (a b : View) : State :=
  let spans := s.copySpans r.id a
  let s := spans.foldl (fun s x => (s.probeHint hint x.1 x.2).askHost r.part x.1 x.2) s
  if (s.run? r.id).isNone then s
  else
   match (if b.loc.isNone then spans.find? (fun x => s.poisoned x.1 x.2) else none) with
   | some x => s.consumed r.id (if x.1 < 0x80000000 then 0 else 4)
   | none =>
    if spans.any (fun x => s.hwinBad r.part x.1 x.2) then s.failRun r.id .dataPoisoned 0
    else
    let w := packedLen (fmtBits a.desc.format) a.desc.stored0
    let s := (List.range a.desc.rows).foldl (fun s row => s.copyPiece r a b 0 (a.desc.rowOff row) (b.desc.rowOff row) w) s
    let s := [1, 2, 3, 4].foldl (fun s k =>
      let n := min (a.desc.regionBytes k) (b.desc.partBytes k)
      if n = 0 then s else s.copyPiece r a b k 0 0 n) s
    s.chargeCopy r.id a b

/-- COPY (R179): the copy engine's whole-tensor copy. -/
def execCopy (core : Nat) (stream : Bool) (src dst : Nat) (s : State) : Res :=
  .next (s.issue core (.copy stream src dst) (fun s r _ =>
    match s.operand r core src, s.operand r core dst with
    | some a, some b => s.copyRun r stream a b
    | _, _ => s))

/-- Whether a prefetch entry of a core may be issued: due by its layer and its AFTER_STEP, or wanted by the next step (R204); entries of a
core go in schedule order unless a step waits for one. -/
def Run.pfDue (r : Run) (c : CoreRun) (e : Nat) (p : Prefetch) : Bool :=
  let no := r.coreNo c.flat
  let after := match p.after with
    | none => true
    | some j => decide (j < c.pc) && c.inflight.all (fun i => decide (j < i))
  let earlier := (List.range e).all (fun i => match r.img.prefetch[i]? with
    | some q => q.core != no || c.pfIssued.contains i
    | none => true)
  let wanted := r.cores.any (fun x => match (r.img.steps.getD (r.coreNo x.flat) [])[x.pc]? with
    | some w => (r.img.awaits w.kind x.pc (r.coreNo x.flat)).contains e
    | none => false)
  p.core == no && !c.pfIssued.contains e && after && ((decide (p.layer ≤ c.layer + r.img.lookahead) && earlier) || wanted)

/-- A prefetch's copy waits for the steps in flight that touch its DST (R200). -/
def Run.pfClear (r : Run) (c : CoreRun) (p : Prefetch) : Bool :=
  let list := r.img.steps.getD (r.coreNo c.flat) []
  let running := c.inflight.filterMap (fun j => list[j]?)
  p.dstTier != 0 || running.all (fun e => let u := r.touches e.kind
    !spansOverlap (u.1 ++ u.2) (r.whole p.dst) && !spansOverlap u.2 (r.whole p.src))

/-- PREFETCH_ISSUE: the copy engine of a core issues entry `entry` of the schedule, which takes a place in its queue until
ENGINE_STEP_COMPLETE names it as step 65536 + `entry` (log entry 76). -/
def execPrefetchIssue (core entry : Nat) (s : State) : Res :=
  .next (
    match s.runOn core with
    | none => s
    | some r =>
      match r.cores.find? (fun c => c.flat = core), r.img.prefetch[entry]? with
      | some c, some p =>
        if !s.stalled && r.pfDue c entry p && r.pfClear c p && decide ((r.copyQueue c).length < 16) then
          let go (x : CoreRun) : CoreRun := { x with pfIssued := x.pfIssued ++ [entry], inflight := x.inflight ++ [pfKey + entry] }
          let s := (s.keepOld r core (pfKey + entry) (if p.dstTier = 0 then r.whole p.dst else [])).updCore r.id core go
          if p.dstTier = 1 then s
          else
            match s.operand r core p.src, s.operand r core p.dst with
            | some a, some b => s.copyRun r false a b
            | _, _ => s
        else s
      | _, _ => s)

/-- COLLECTIVE: the step's operation starts on its ring (R451, R458, R463, R464). -/
def execCollective (core : Nat) (a : CollArgs) (s : State) : Res :=
  .next (s.issue core (.collective a) (fun s r c =>
    let op : RingOp :=
      { id := r.id, flat := core, stepIdx := c.pc, op := 0, cop := a.cop, headroom := a.headroom
        units := collUnits a.cop (((s.operand r core a.src).map (·.desc)).getD {}), src := a.src, dst := a.dst, startSeen := false, first := [], second := [] }
    s.startOp (r.rings.getD a.ring 0) op))

end Sys2Proof.Machine
end

