-- ==== Sys2Proof/Machine/Commit.lean ====
section
/-!
DEFINITION. The commit of a command (R206 to R208): when it may enter its commit, the six orders of the *Commit sequence* table, and what a
run leaves in its context's flags and counters (R69, R122). `Finish.lean` calls it for COMMAND_COMMIT.
-/
namespace Sys2Proof.Machine

open Sys2Proof

/-- The commands whose work is published by a commit point of their own. -/
def commits : Instr → Bool
  | .blockWrite .. => true
  | .blockTrim .. => true
  | .objWrite .. => true
  | .objDelete .. => true
  | .tensorWrite .. => true
  | .tensorCopy .. => true
  | .tensorRepair .. => true
  | .progRun .. => true
  | .idxInsert .. => true
  | .idxDelete .. => true
  | .accordRun .. => true
  | _ => false

/-- Whether a prefetch entry's layer lies beyond what its core has reached, so that it never falls due once the core stands at COMMIT (R204). -/
def Run.pfBeyond (r : Run) (e : Nat) : Bool :=
  match r.img.prefetch[e]? with
  | none => true
  | some p => r.cores.all (fun c => r.coreNo c.flat != p.core || decide (c.layer + r.img.lookahead < p.layer))

/-- Whether every core of a run has reached COMMIT and every step and every prefetch entry that falls due has completed (R206). -/
def Run.ended (r : Run) : Bool :=
  r.cores.all (fun c => c.atCommit && c.inflight.isEmpty) && (List.range r.img.prefetch.length).all (fun e => r.pfComplete e || r.pfBeyond e)

def State.bindingOf (s : State) (id : CmdId) : Binding := (s.binding? id).getD { id := id, inputs := [], shadows := [] }

/-- Pieces that a command's commit adds to the dirty data (R181, R182). -/
def State.commitPieces (s : State) (id : CmdId) : Nat := s.shadowPieces (s.bindingOf id) + s.pendPieces id + s.indexPieces id

/-- Whether a command runs, and has not been killed by what a read of its commit has found (R222, R304). -/
def State.stillRuns (s : State) (id : CmdId) : Bool := ((s.outst? id).map (fun o => o.phase == .running)).getD false

/-- Orders 1 and 2: unwritten pages are filled and older dirty pages written back; the second component tells whether the command goes on to its
commit point: it still runs, and the new total fits. -/
def State.prepareCommit (s : State) (id : CmdId) : Chk (State × Bool) := do
  let s ← s.prepareShadows (s.bindingOf id)
  let s := State.makeRoom (fun s => s.commitPieces id) (s.dirtyPieces + 1) s
  .ok (s, s.stillRuns id && (s.commitPieces id == 0 || decide (s.dirtyPieces + s.commitPieces id ≤ s.ceilingPieces)))

/-- A commit that fails: the findings stay (R222), and the command ends with the status. -/
def State.commitFails (s : State) (id : CmdId) (f : Fail) : State := (f.keep.getD s).failRun id f.status f.detail

/-- A re-run that reaches its commit point has overcome the errors that killed its command: each counts once (RECOVERED, R241). -/
def State.noteRecovered (s : State) (id : CmdId) : State :=
  match s.outst? id with
  | none => s
  | some o =>
    ((o.poisonKills.drop o.recovered).foldl (fun s t => s.integrity t clsRecovered) s).updOutst id (fun o => { o with recovered := o.poisonKills.length })

/-- The completion of a committed command with result data: where the data has been found to hold poison, the command stays committed, and no
result data is sent (R225). -/
def State.postResult (s : State) (id : CmdId) (st : Status) (detail : Nat) (bs : Bytes) : State :=
  if ((s.outst? id).map (·.resultBad)).getD false && !bs.isEmpty then (s.integrity 4 clsConsumed).completeId id .resultPoisoned 0 []
  else s.completeId id st detail bs

/-- Order 3, the commit point: one sequence number for every change. Answers it with the index operations that R267 refuses. -/
def State.commitPoint (s : State) (id : CmdId) : State × Nat × List (Nat × DEntry) :=
  let b := s.bindingOf id
  let (s, seq) := (s.noteRecovered id).takeSeq
  let (s, bad) := State.commitEntries id seq (s.openEntries id) s
  ((s.switchShadows b seq).publishPend id seq, seq, bad)

/-- Order 4 for what runs have raised: flags into the context, event counters into the accounts (R68 to R70, R122). -/
def State.applyEvents (s : State) (id : CmdId) (p c flags sats nans rescales : Nat) : State :=
  let add (i n : Nat) (s : State) : State := if n = 0 then s else s.chargeCmd id i n
  add 26 rescales (add 25 nans (add 24 sats (s.updCtx p c (fun x => { x with flags := x.flags ||| flags }))))

/-- A run ends with its work kept: its engine time is useful (R413, R414). -/
def State.closeRun (s : State) (r : Run) : State :=
  { (s.chargeEngines r true) with runs := s.runs.filter (fun x => x.id ≠ r.id) }

/-- Order 5: write-back of the commit-list entries flagged SYNC_AFTER. -/
def State.syncAfter (s : State) (r : Run) : State :=
  (r.img.commits.filter (·.2)).foldl (fun s e => s.writeBackAll (r.slotT.getD e.1 0)) s

/-- Commands that wait for slots or dirty data to go look again. -/
def State.settleWaits (s : State) : State := s.settleFlush.settleCeiling

/-- The commit of a command without a run or index operation. -/
def State.commitPlain (s : State) (id : CmdId) : State :=
  match s.prepareCommit id with
  | .error f => s.commitFails id f
  | .ok (s, false) => s
  | .ok (s, true) => (((s.commitPoint id).1).completeId id .ok 0 []).settleWaits

/-- The completion status of a command whose matrix steps ran with K = 0 `n` times (R108, R540). -/
def emptyStatus (n : Nat) : Status × Nat := if n = 0 then (.ok, 0) else (.okEmptyReduction, n)

/-- The commit of a PROG_RUN. -/
def State.commitRun (s : State) (r : Run) : State :=
  if !r.ended then s
  else
    match s.prepareCommit r.id with
    | .error f => s.commitFails r.id f
    | .ok (s, false) => s
    | .ok (s, true) =>
      let s := (s.commitPoint r.id).1
      let s := (s.closeRun r).applyEvents r.id r.part r.ctx r.flags r.saturations r.nanConv r.rescales
      let (st, d) := emptyStatus r.emptySteps
      ((s.syncAfter r).completeId r.id st d []).settleWaits

/-- The commit of an IDX_INSERT or IDX_DELETE (R266, R267): `bs` is the result. An index that is gone answers NOT_FOUND (R245). -/
def State.commitIndexOp (s : State) (id : CmdId) : State :=
  match s.openEntries id with
  | [] => s.failRun id .notFound 0
  | (ns, e) :: _ =>
    let s := s.readDirectory id
    let verdict := ((s.index? ns).map (fun x => x.judge e)).getD .notFound
    if verdict ≠ .ok then s.failRun id verdict 0
    else
      match s.prepareCommit id with
      | .error f => s.commitFails id f
      | .ok (s, false) => s
      | .ok (s, true) =>
        (((s.commitPoint id).1).postResult id .ok 0 (if e.isInsert then leBytes 5 e.slot ++ zeros 3 else [])).settleWaits

end Sys2Proof.Machine
end

