-- ==== Sys2Proof/Machine/Search.lean ====
section
/-!
DEFINITION. Vector search (chapter *Vector search*): the search commands (group 0x6), the walk with its visited filter and driftline lap (R254
to R264, R268, R269), and merges with epochs and reclamation (R270 to R279).
-/
namespace Sys2Proof.Machine

open Sys2Proof

/-! ### Distances and filters (R261 to R263) -/

def f32Zero : W32 := 0#32

/-- An F32 value with the count of the roundings on the way to it that saturated (R67, R68). -/
structure CntF32 where
  v : W32
  n : Nat
  deriving DecidableEq, Repr

/-- One rounding of a walker (R261): RNE on the fast path, counted where it saturates. -/
def cntRound (n : Nat) (x : Num) : CntF32 :=
  let (w, ev) := toF32 rndRne x 0
  { v := w, n := n + ev.sats }

def cntAdd (a b : CntF32) : CntF32 := cntRound (a.n + b.n) ((decF32 a.v).add false (decF32 b.v))
def cntMul (a b : CntF32) : CntF32 := cntRound (a.n + b.n) ((decF32 a.v).mul (decF32 b.v))

/-- Σ q_i v_i in ascending order, each product and each sum rounded (R261). -/
def f32Dot (q v : List W32) : CntF32 := (q.zip v).foldl (fun a x => cntAdd a (cntMul ⟨x.1, 0⟩ ⟨x.2, 0⟩)) ⟨f32Zero, 0⟩

/-- (q − v)², the difference rounded once. -/
def f32SqDiff (q v : W32) : CntF32 :=
  let d := cntRound 0 ((decF32 q).add false (decF32 v).neg)
  cntMul d ⟨d.v, 0⟩

/-- Σ (q_i − v_i)² (R261). -/
def f32DistSq (q v : List W32) : CntF32 := (q.zip v).foldl (fun a x => cntAdd a (f32SqDiff x.1 x.2)) ⟨f32Zero, 0⟩

/-- √Σ q_i² (R261). -/
def f32Norm (q : List W32) : CntF32 :=
  let d := f32Dot q q
  cntRound d.n (decF32 d.v).root

/-- The *Distance kinds* table (R261). -/
def scoreOf (kind : Nat) (q v : List W32) : CntF32 :=
  match kind with
  | 0 => f32Dot q v
  | 1 => f32DistSq q v
  | _ =>
    let a := f32Norm q
    let b := f32Norm v
    if (decF32 a.v).isZero || (decF32 b.v).isZero then ⟨f32Zero, a.n + b.n⟩
    else
      let d := f32Dot q v
      let m := cntMul a b
      cntRound (d.n + m.n) ((decF32 d.v).quot (decF32 m.v))

/-- Whether score `a` is better than `b` (R261). -/
def scoreBetter (kind : Nat) (a b : W32) : Bool := if kind = 1 then (decF32 a).lt (decF32 b) else (decF32 b).lt (decF32 a)

/-- The order of results (R262). -/
def hitBefore (kind : Nat) (x y : Hit) : Bool :=
  scoreBetter kind x.score y.score || (!scoreBetter kind y.score x.score && decide (x.node < y.node))

/-- The word test of a filter word (R263). -/
def QBlock.wordTest (b : QBlock) (f : Nat) : Bool := f &&& b.eqMask == b.eqValue && (b.anyMask == 0 || f &&& b.anyMask != 0)

/-- Whether a record is eligible, its score apart (R263). -/
def QBlock.eligible (b : QBlock) (r : Bytes) : Bool :=
  b.wordTest (recFilter r) && decide (b.a0Lo ≤ recAttr0 r) && decide (recAttr0 r ≤ b.a0Hi)
    && decide (b.a1Lo ≤ recAttr1 r) && decide (recAttr1 r ≤ b.a1Hi)

/-- Bits in which two sketches differ. -/
def hamming (a b : Bytes) : Nat := ((a.zip b).map (fun x => popCount 8 (x.1 ^^^ x.2).toNat)).sum

/-! ### The visited filter and the candidate queue (R258, R259) -/

/-- The three bits of a slot in the visited filter (R259). -/
def visitBits (slot : Nat) : List Nat :=
  [0x9E3779B97F4A7C15, 0xC2B2AE3D27D4EB4F, 0x165667B19E3779F9].map (fun k => (slot + 1) * k % 2 ^ 64 / 2 ^ 49)

def Query.visitedAt (q : Query) (slot : Nat) : Bool := (visitBits slot).all (fun b => b ∈ q.visited)

def Query.visit (q : Query) (slot : Nat) : Query := { q with visited := (visitBits slot).foldl (fun l b => addOnce b l) q.visited }

/-- Candidates are ordered by key, then by slot. -/
def candBefore (a b : Cand) : Bool := decide (a.key < b.key) || (a.key == b.key && decide (a.slot < b.slot))

/-- The pseudocode offer: the worst entry goes when there are more than L. -/
def Query.offer (q : Query) (slot key : Nat) : Query :=
  { q with queue := (insertBy candBefore { slot := slot, key := key, wasRead := false } q.queue).take q.l }

/-- The best unread entry. -/
def Query.nextUnread (q : Query) : Option Cand := q.queue.find? (fun c => !c.wasRead)

/-- Whether MAX_READS allows another record read. -/
def Query.mayRead (q : Query) : Bool := q.maxReads == 0 || decide (q.reads + q.outstanding.length < q.maxReads)

/-- Issues record reads while the walk allows any. -/
def Query.pump : Nat → Query → Query
  | 0, q => q
  | fuel + 1, q =>
    if decide (q.outstanding.length < q.beam) && q.mayRead then
      match q.nextUnread with
      | none => q
      | some c =>
        let mark (x : Cand) : Cand := { x with wasRead := true }
        Query.pump fuel { q with queue := mapIf (fun x => x.slot = c.slot) mark q.queue, outstanding := q.outstanding ++ [c.slot] }
    else q

/-- Issues what it can, and notes whether the walk has ended: nothing unread that may be read, nothing outstanding, the lap done. -/
def Query.go (q : Query) : Query :=
  let q := q.pump 17
  if q.outstanding.isEmpty && q.lapLeft.isEmpty && (q.nextUnread.isNone || !q.mayRead) then { q with finished := true, walker := none } else q

/-- Whether a record may be returned to a query (R258, R269). -/
def Query.returnable (q : Query) (slot : Nat) (r : Bytes) : Bool :=
  recInsertSeq r != 0 && seqLe (recInsertSeq r) q.snapshot && (recDeleteSeq r == noDelete || seqLt q.snapshot (recDeleteSeq r))
    && !q.gone.contains slot

/-- A record adds to the results: at most L stay, in the order of R262. -/
def Query.addHit (q : Query) (kind : Nat) (h : Hit) : Query := { q with results := (insertBy (hitBefore kind) h q.results).take q.l }

/-- The neighbours of a record are offered (R258). -/
def Query.offerAll (q : Query) (x : Index) (ns : List Nat) : Query :=
  ns.foldl (fun q n =>
    if q.visitedAt n then q
    else
      let q := q.visit n
      let e := (alookup n x.sketches).getD (zeros 64, 0)
      if q.prune && !q.blk.wordTest e.2 then q else q.offer n (hamming q.blk.sketch e.1)) q

/-- Takes an arriving record (R258): results, hops, neighbours. The distance is computed for a record that may be returned, and the roundings of
it that saturate count (R68). -/
def Query.takeRecord (q : Query) (x : Index) (slot : Nat) (r : Bytes) : Query :=
  let q := { q with outstanding := q.outstanding.filter (· ≠ slot), reads := q.reads + 1 }
  let wanted := q.returnable slot r && q.blk.eligible r
  let sc := scoreOf x.params.distance q.blk.vector (recVector x.params r)
  let q := if wanted then { q with sats := q.sats + sc.n } else q
  let q := if wanted && !fltF32.isNan sc.v.toNat then
      q.addHit x.params.distance { pos := 0, slot := slot, node := recNode r % 2 ^ 36, score := sc.v, record := r } else q
  let dead := recDeleteSeq r != noDelete && seqLe (recDeleteSeq r) q.snapshot
  let q := if dead || q.gone.contains slot then { q with hops := q.hops + 1 } else q
  q.offerAll x (recNeighbours r)

/-- A record that cannot be read is skipped (R280). -/
def Query.skipRecord (q : Query) (slot : Nat) : Query :=
  { q with outstanding := q.outstanding.filter (· ≠ slot), reads := q.reads + 1, degraded := true }

/-- Takes a driftline entry of the lap (R258, R269). -/
def Query.takeEntry (q : Query) (e : DEntry) : Query :=
  if e.seq ≠ 0 && seqLt q.base e.seq && seqLe e.seq q.snapshot then
    if e.isInsert then
      if q.blk.wordTest e.filter && !q.visitedAt e.slot then (q.visit e.slot).offer e.slot (hamming q.blk.sketch e.sketch) else q
    else
      let q := q.visit e.slot
      { q with results := q.results.filter (fun h => h.slot ≠ e.slot), gone := addOnce e.slot q.gone }
  else q

/-- The start of a walk: the entry points with key 0, each visited, since every slot is read at most once (R258); the lap covers what the
driftline lists now (R268). -/
def Query.begin (q : Query) (x : Index) (walker : Nat) : Query :=
  let q := { q.restart with walker := some walker, lapLeft := x.driftline.filter (fun e => e.seq ≠ 0) }
  x.entries.foldl (fun q e => (q.visit e).offer e 0) q

/-! ### Results (R260) -/

/-- An entry of the *Query result layout*. -/
def hitBytes (h : Hit) : Bytes := leBytes 8 h.node ++ leBytes 4 h.score.toNat ++ zeros 4

/-- A position beyond the results found. -/
def noHit : Bytes := leBytes 8 (2 ^ 64 - 1) ++ leBytes 4 0x7FC00000 ++ zeros 4

/-- A header and `k` entries. -/
def resultBytes (k flags reads hops : Nat) (hs : List Hit) : Bytes :=
  leBytes 2 (hs.take k).length ++ leBytes 2 flags ++ leBytes 4 reads ++ leBytes 4 hops ++ zeros 4
    ++ (hs.take k).flatMap hitBytes ++ (List.replicate (k - (hs.take k).length) noHit).flatten

/-- FLAGS of a query's header. -/
def Query.flags (q : Query) : Nat := (if q.maxReads ≠ 0 ∧ q.reads = q.maxReads then 1 else 0) + (if q.degraded then 2 else 0)

def Query.bytes (q : Query) : Bytes := resultBytes q.k q.flags q.reads q.hops q.results

/-! ### IDX_CREATE, IDX_DESTROY, IDX_INFO -/

/-- The parameters that a creation block spells (R244). -/
def idxParamsOf (b : Bytes) : IdxParams :=
  let a := field b 0x18 4
  let bl := field b 0x1C 2
  { sketchBits := field b 0 2, vformat := field b 2 1, distance := field b 3 1, dim := field b 4 2, degree := field b 6 1, entryCount := field b 7 1
    slots := field b 8 8, idLimit := field b 0x10 8, alpha := if a = 0 then 0x3F99999A#32 else BitVec.ofNat 32 a, buildL := if bl = 0 then 128 else bl }

/-- Largest DIM of a vector format. -/
def dimMax (vf : Nat) : Nat := if vf = 4 then 3584 else 1792

/-- The offset of the first creation parameter out of its range (R244). -/
def idxParamFault (b : Bytes) : Option Nat :=
  let p := idxParamsOf b
  let a := decF32 p.alpha
  let bad : List (Nat × Bool) :=
    [ (0x00, p.sketchBits ≠ 256 && p.sketchBits ≠ 512), (0x02, decide (p.vformat < 2) || decide (4 < p.vformat)), (0x03, decide (2 < p.distance))
    , (0x04, p.dim = 0 || decide (dimMax p.vformat < p.dim)), (0x06, decide (p.degree < 8) || decide (64 < p.degree))
    , (0x07, p.entryCount = 0 || decide (16 < p.entryCount)), (0x08, p.slots = 0), (0x10, p.idLimit = 0 || decide (2 ^ 36 < p.idLimit))
    , (0x18, a = .nan || a.lt (Num.ofInt 1) || (Num.ofInt 2).lt a), (0x1C, decide (p.buildL < 16) || decide (1024 < p.buildL)), (0x1E, field b 0x1E 2 ≠ 0) ]
  (bad.find? (·.2)).map (·.1)

/-- Largest SLOTS of a variant (*Index capacity* table, R252). -/
def Variant.maxSlots (v : Variant) (sketchBits : Nat) : Nat := Variant.dies v / 2 * 2 ^ 30 * (if sketchBits = 256 then 2 else 1)

/-- IDX_CREATE (R244, R249 to R252): the epoch base of a new index is the latest commit point. -/
def execIdxCreate (id : CmdId) (ns : Nat) (s : State) : Res :=
  .next (s.startNs id ns (.idxCreate id ns) (fun s o => do
    noHold o
    inRange (decide (ns < 64)) 0x08
    let x ← s.nsIdent o ns
    need (s.index? ns).isNone .idInUse 0
    needIbuf o 32
    s.nsIs x 2
    let (s, b) ← s.takeIbuf o 32
    match idxParamFault b with
    | some off => failWith .indexParamInvalid off
    | none => do
      let p := idxParamsOf b
      need (decide (p.slots ≤ Variant.maxSlots s.variant p.sketchBits) && decide (p.slots ≤ x.capacity)) .resourceExhausted 0xFFFF
      match s.placeTables (ioPart o) p with
      | none => failWith .resourceExhausted 0xFFFF
      | some (s, bases) =>
        okDone { s with indexes := s.indexes ++ [{ ns := ns, part := ioPart o, params := p, sketches := [], directory := [], tombstones := []
                                                   usedSlots := [], entries := [], driftline := [], epoch := 0, epochBase := s.lastSeq, merge := none
                                                   reclaim := [], unreadable := [], reads := 0, hops := 0, lost := false, allocs := bases, dirty := []
                                                   dirPoison := [], scan := [], copies := [] }] }))

/-- The index that a search command names: an INDEX namespace without one answers NOT_FOUND (R245). -/
def State.indexIdent (s : State) (o : Outst) (ns : Nat) : Chk Ns := do
  let x ← s.nsIdent o ns
  need (x.type != 2 || (s.index? ns).isSome) .notFound 0
  .ok x

/-- The index itself, after the type check (R35, R245). -/
def State.theIndex (s : State) (x : Ns) : Chk Index := do
  s.nsIs x 2
  match s.index? x.nsid with
  | none => failWith .notFound 0
  | some i => .ok i

/-- IDX_DESTROY (R533). -/
def execIdxDestroy (id : CmdId) (ns : Nat) (s : State) : Res :=
  .next (s.startNs id ns (.idxDestroy id ns) (fun s o => do
    noHold o
    inRange (decide (ns < 64)) 0x08
    let x ← s.indexIdent o ns
    let _ ← s.theIndex x
    need (!s.indexBusy ns) .resourceBusy 0
    let (s, seq) := s.takeSeq
    okDone (s.emptyNs ns seq).settleWaits))

/-- The 64 bytes of IDX_INFO (R279). -/
def Index.infoBytes (x : Index) : Bytes :=
  leBytes 4 (x.epoch % 2 ^ 32) ++ leBytes 1 (if x.merge.isSome then 1 else 0) ++ zeros 3 ++ leBytes 8 x.epochBase
    ++ leBytes 4 (x.driftline.filter (fun e => !e.folded)).length ++ leBytes 4 (x.driftline.filter (·.folded)).length
    ++ leBytes 8 (x.params.slots - x.usedSlots.length) ++ leBytes 8 x.tombstones.length ++ leBytes 8 x.unreadable.length
    ++ leBytes 8 (capAt max64 x.reads) ++ leBytes 8 (capAt max64 x.hops)

/-- IDX_INFO (R279). -/
def execIdxInfo (id : CmdId) (ns : Nat) (s : State) : Res :=
  .next (s.startNs id ns (.idxInfo id ns) (fun s o => do
    inRange (decide (ns < 64)) 0x08
    let x ← s.indexIdent o ns
    needRbuf o 64
    let i ← s.theIndex x
    okResult s i.infoBytes))

/-! ### IDX_INSERT, IDX_DELETE (R266, R267) -/

/-- IDX_INSERT: bound here, published by COMMAND_COMMIT. -/
def execIdxInsert (id : CmdId) (ns : Nat) (s : State) : Res :=
  .next (s.startNs id ns (.idxInsert id ns) (fun s o => do
    inRange (decide (ns < 64)) 0x08
    let x ← s.indexIdent o ns
    needIbuf o 4096
    needRbuf o 8
    let i ← s.theIndex x
    let (s, b) ← s.takeIbuf o 4096
    match s.insertChecks i b with
    | .error f => if f.status = .driftlineFull then .ok (s.forceMerge, .now .driftlineFull 0 []) else .error f
    | .ok slot => do
      s.dirtyFits (1 + (i.sketchPages slot ++ Index.dirPages (recNode b)).eraseDups.length)
      if s.writesHeld || !s.roomFor (unitsOf slot 1) then .ok (s, .waits)
      else .ok (s.bindInsert id ns slot b, .runs 8)))

/-- IDX_DELETE: bound here, published by COMMAND_COMMIT. -/
def execIdxDelete (id : CmdId) (ns node : Nat) (s : State) : Res :=
  .next (s.startNs id ns (.idxDelete id ns node) (fun s o => do
    noHold o
    inRange (decide (ns < 64)) 0x08
    let x ← s.indexIdent o ns
    let i ← s.theIndex x
    need (!i.dirBad node) .dataPoisoned 0
    if s.poolFull || s.flash.driftFull then .ok (s.forceMerge, .now .driftlineFull 0 [])
    else .ok (s.bindDelete id ns node, .runs 0)))

/-! ### IDX_QUERY (R254 to R257) -/

/-- Bytes of a query block (R254). -/
def queryBlockLen (dim : Nat) : Nat := ceilDiv (128 + 4 * dim) 64 * 64

/-- The offset within a query block of its first wrong field (R254). -/
def queryBlockFault (p : IdxParams) (b : Bytes) : Option Nat :=
  let bad : List (Nat × Bool) :=
    [ (0x08, field b 8 8 &&& field b 0 8 ≠ field b 8 8), (0x28, !zeroAt b 0x28 24), (0x60, decide (p.sketchBits = 256) && !zeroAt b 0x60 32)
    , (0x80 + 4 * p.dim, !zeroAt b (0x80 + 4 * p.dim) (queryBlockLen p.dim - (0x80 + 4 * p.dim))) ]
  (bad.find? (·.2)).map (·.1)

/-- The fields of a query block (R254): the first 40 bytes of them, with a sketch and a vector. -/
def qblockOf (b : Bytes) (sketch : Bytes) (v : List W32) : QBlock :=
  { eqMask := field b 0 8, eqValue := field b 8 8, anyMask := field b 0x10 8, a0Lo := field b 0x18 4, a0Hi := field b 0x1C 4
    a1Lo := field b 0x20 4, a1Hi := field b 0x24 4, sketch := sketch, vector := v }

/-- A query that waits for a walker slot (R255). -/
def Query.new (id : CmdId) (qi ns : Nat) (blk : QBlock) (l beam k maxReads : Nat) (prune : Bool) (snapshot base : Nat) : Query :=
  { id := id, qi := qi, ns := ns, blk := blk, l := l, beam := beam, k := k, maxReads := maxReads, prune := prune, snapshot := snapshot, base := base
    walker := none, queue := [], results := [], visited := [], reads := 0, hops := 0, outstanding := [], gone := [], lapLeft := [], sats := 0
    degraded := false, finished := false }

/-- The ranges of the query parameters (R254): the packet offset of the first one outside. -/
def queryParamFault (prune count l k beam maxReads : Nat) : Option Nat :=
  let bad : List (Nat × Bool) :=
    [ (0x09, decide (1 < prune)), (0x0A, count = 0 || decide (256 < count)), (0x0C, decide (l < 16) || decide (1024 < l))
    , (0x0E, k = 0 || decide (l < k)), (0x10, beam = 0 || decide (16 < beam)), (0x12, maxReads ≠ 0 && decide (maxReads < 16)) ]
  (bad.find? (·.2)).map (·.1)

/-- IDX_QUERY: snapshot, epoch base, and the batch to the walkers (R254 to R257). -/
def execIdxQuery (id : CmdId) (ns prune count l k beam maxReads : Nat) (s : State) : Res :=
  .next (s.startNs id ns (.idxQuery id ns prune count l k beam maxReads) (fun s o => do
    inRange (decide (ns < 64)) 0x08
    match queryParamFault prune count l k beam maxReads with
    | some off => failWith .indexParamInvalid off
    | none => do
      let x ← s.indexIdent o ns
      let dim := ((s.index? ns).map (·.params.dim)).getD 0
      needIbuf o (count * queryBlockLen dim)
      needRbuf o (count * (16 + 16 * k))
      let i ← s.theIndex x
      let (s, bs) ← s.takeIbuf o (count * queryBlockLen dim)
      let blk (j : Nat) : Bytes := slice bs (j * queryBlockLen dim) (queryBlockLen dim)
      match (List.range count).findSome? (fun j => queryBlockFault i.params (blk j)) with
      | some off => failWith .indexParamInvalid off
      | none => do
        need (!i.lost) .dataPoisoned 0
        let vec (j : Nat) : List W32 := (List.range dim).map (fun e => BitVec.ofNat 32 (field (blk j) (0x80 + 4 * e) 4))
        let mk (j : Nat) : Query :=
          Query.new id j ns (qblockOf (blk j) (slice (blk j) 0x40 64) (vec j)) l beam k maxReads (prune == 1) s.lastSeq i.epochBase
        .ok ({ s with queries := s.queries ++ (List.range count).map mk }, .runs (count * (16 + 16 * k)))))

/-! ### Walkers -/

/-- The queries of a command. -/
def State.queriesOf (s : State) (id : CmdId) : List Query := s.queries.filter (fun q => q.id = id)

def State.updQuery (s : State) (id : CmdId) (qi : Nat) (f : Query → Query) : State :=
  { s with queries := mapIf (fun q => q.id = id && q.qi == qi) f s.queries }

/-- The end of a query: its walker slot time is charged (R413); the cycle counts are out of scope, so the time is a free value. -/
def State.chargeWalk (s : State) (id : CmdId) : State :=
  let (s, v) := s.freeNat
  s.chargeCmd id 10 (v % 2 ^ 32)

/-- A batch whose queries have all ended: an IDX_QUERY completes with their results in order (R260); an invocation's stage takes them itself. -/
def State.settleBatch (s : State) (id : CmdId) : State :=
  let qs := s.queriesOf id
  if qs.isEmpty || qs.any (fun q => !q.finished) || s.invocations.any (fun i => i.id = id) then s
  else
    let bs := (sortBy (fun a b => decide (a.qi < b.qi)) qs).flatMap Query.bytes
    let s := s.chargeCmd id 24 (qs.map (·.sats)).sum
    { (s.completeId id .ok 0 bs) with queries := s.queries.filter (fun q => q.id ≠ id) }

/-- A query after an event: issues its next reads, and ends its batch when it is the last. -/
def State.runQuery (s : State) (id : CmdId) (qi : Nat) : State :=
  let s := s.updQuery id qi Query.go
  let s := if s.queries.any (fun q => q.id = id && q.qi == qi && q.finished) then s.chargeWalk id else s
  s.settleBatch id

/-- The walkers that serve a partition: one for each cluster in service, ascending (R257). -/
def State.walkersOf (s : State) (p : Nat) : List Nat :=
  (maskList (Variant.clusters s.variant) (s.entry p).clusterMask).filter (fun k => !s.unitDown 5 k && s.dieUp (k / 4))

/-- The first walker of a partition with a free query slot of its 256 (R257). -/
def State.freeWalker (s : State) (p : Nat) : Option Nat :=
  (s.walkersOf p).find? (fun k => decide ((s.queries.filter (fun q => q.walker = some k)).length < 256))

/-- The query of a partition that has waited longest (R257). -/
def State.firstWaiting (s : State) (p : Nat) : Option Query := s.queries.find? (fun q => qPart q.id.queue = some p && q.walker.isNone && !q.finished)

/-- QUERY_SLOT_START (R257, R258): the longest-waiting query takes a slot of the lowest walker with one free. -/
def execQuerySlotStart (id : CmdId) (qi walker : Nat) (s : State) : Res :=
  .next (
    match qPart id.queue with
    | none => s
    | some p =>
      match s.firstWaiting p with
      | none => s
      | some q =>
        if q.id = id && q.qi = qi && s.freeWalker p = some walker then
          match s.index? q.ns with
          | none => s.failRun id .notFound 0
          | some x => (s.updQuery id qi (fun q => q.begin x walker)).runQuery id qi
        else s)

/-- What a walker reads for a slot (R253, R258, R280): an entry point's copy on its own die; the record itself, on flash, of any other slot, and of
an entry point whose copy is poisoned, which is then copied again. -/
def State.walkerRead (s : State) (q : Query) (x : Index) (slot : Nat) : State × Option Bytes :=
  let fromFlash (s : State) : State × Option Bytes :=
    ((s.noteReads x.ns slot 1).chargeBytes q.id 14 (s.readTraffic x.ns slot 1), match s.readBlocks x.ns slot 1 with
      | .ok r => some r
      | .error _ => none)
  match q.walker, x.copies.findIdx? (· == slot) with
  | some w, some i =>
    let a := copyAddr (w / 4) x.ns i
    let len := 4096 + x.params.entryBytes
    let s := s.look a len
    if s.poisoned a len then
      let (s, r) := fromFlash s
      (if r.isSome then s.copyOne x (w / 4) i slot else s, r)
    else (s, some (s.devRd x.part a 4096))
  | _, _ => fromFlash s

/-- The sketch entries of a record's neighbours are read where the walk has not visited them (R258, R280). -/
def State.readSketches (s : State) (q : Query) (x : Index) (r : Bytes) : State :=
  ((recNeighbours r).filter (fun n => !q.visitedAt n)).foldl (fun s n => s.look (x.sketchAddr n) x.params.entryBytes) s

/-- RECORD_ARRIVAL (R258, R280): the record that a walker has read arrives, or cannot be read. -/
def execRecordArrival (id : CmdId) (qi slot : Nat) (s : State) : Res :=
  .next (
    match s.queries.find? (fun q => q.id = id && q.qi == qi) with
    | none => s
    | some q =>
      if !q.outstanding.contains slot then s
      else
        match s.index? q.ns with
        | none => s
        | some x =>
          let (s, rec) := s.walkerRead q x slot
          let q' := match rec with
            | none => q.skipRecord slot
            | some r => q.takeRecord x slot r
          let s := match rec with
            | none => s.markUnreadable q.ns slot
            | some r => s.readSketches q x r
          let count (y : Index) : Index := { y with reads := y.reads + 1, hops := y.hops + (q'.hops - q.hops) }
          ((s.updIndex q.ns count).updQuery id qi (fun _ => q')).runQuery id qi)

/-- Whether two entries are the same committed operation. -/
def DEntry.same (a b : DEntry) : Bool := a.seq == b.seq && a.node == b.node && a.slot == b.slot && a.isInsert == b.isInsert

/-- A query passes an entry of its lap, once (R268, R269). -/
def Query.pass (q : Query) (e : DEntry) : Query :=
  if q.lapLeft.any e.same then ({ q with lapLeft := q.lapLeft.filter (fun d => !d.same e) }).takeEntry e else q

/-- The scan of a walker stands behind an entry of the list; it starts again at the end (R268). -/
def Index.scanPast (x : Index) (walker entry : Nat) : Index :=
  { x with scan := ainsert walker (if entry + 1 < x.driftline.length then entry + 1 else 0) x.scan }

/-- DRIFTLINE_ENTRY_SCAN (R268, R269, R280): a walker compares the entry at its scan position with every query of the index in its slots, and moves
on; a walker that has scanned nothing yet starts anywhere. A poisoned entry is first reloaded from the flash log, and the laps wait. -/
def execDriftlineEntryScan (walker ns entry : Nat) (s : State) : Res :=
  .next (
    match s.index? ns with
    | none => s
    | some x =>
      match x.driftline[entry]? with
      | none => s
      | some e =>
        if (alookup walker x.scan).getD entry ≠ entry then s
        else if e.poisoned then s.updIndex ns (fun x => { x with driftline := mapIf (fun d => d.same e) (fun d => { d with poisoned := false }) x.driftline })
        else
          let mine (q : Query) : Bool := q.walker = some walker && q.ns == ns && !q.lapLeft.isEmpty
          let qs := s.queries.filter mine
          let s := { s with queries := mapIf mine (fun q => q.pass e) s.queries }
          qs.foldl (fun s q => s.runQuery q.id q.qi) (s.updIndex ns (fun x => x.scanPast walker entry)))

/-! ### Merges (R270 to R278) -/

/-- IDX_MERGE (R270, R277). -/
def execIdxMerge (id : CmdId) (ns flags : Nat) (s : State) : Res :=
  .next (s.startNs id ns (.idxMerge id ns flags) (fun s o => do
    noHold o
    inRange (decide (ns < 64)) 0x08
    let x ← s.indexIdent o ns
    let i ← s.theIndex x
    need i.merge.isNone .resourceBusy 0
    .ok (s.startMerge ns (some id) (bitAt flags 0), .runs 0)))

/-- The work of one round: records changed and not yet committed, tombstoned slots, the nodes that this merge has built, and the slots whose records the
round has read. -/
structure Round where
  recs : List (Nat × Bytes)
  tomb : List Nat
  built : List Nat
  read : List Nat
  deriving DecidableEq, Repr

/-- Notes records that the round has read. -/
def Round.note (w : Round) (slots : List Nat) : Round := { w with read := slots.foldl (fun l n => addOnce n l) w.read }

/-- A record as the round sees it: its own change, else what is committed; none when it cannot be read (R280). -/
def State.roundRec (s : State) (ns : Nat) (w : Round) (slot : Nat) : Option Bytes :=
  match alookup slot w.recs with
  | some b => some b
  | none =>
    match s.readBlocks ns slot 1 with
    | .ok b => some b
    | .error _ => none

/-- The build distance d (R272), by the walker's own arithmetic (R261). What saturates here counts for no context: a merge is the device's work
(log entry 44). -/
def buildDist (p : IdxParams) (a b : Bytes) : Num :=
  let sc := (scoreOf (if p.distance = 1 then 1 else 2) (recVector p a) (recVector p b)).v
  decF32 (if p.distance = 1 then sc else f32Sub 0x3F800000#32 sc)

/-- a ≤ b; never of NaN. -/
def Num.atMost (a b : Num) : Bool := a.lt b || a.eq b

/-- Nearer first; a distance that is no number comes last. -/
def distLess (a b : Num) : Bool := a.lt b || (b = .nan && a != .nan)

/-- Slots with their records and their distance from a node, nearest first, ties by slot. -/
def nearest (p : IdxParams) (r : Bytes) (xs : List (Nat × Bytes)) : List (Nat × Bytes × Num) :=
  sortBy (fun a b => distLess a.2.2 b.2.2 || (!distLess b.2.2 a.2.2 && decide (a.1 < b.1))) (xs.map (fun x => (x.1, x.2, buildDist p r x.2)))

/-- The pseudocode prune (R272) on the readable ones of some slots. -/
def State.pruneTo (s : State) (x : Index) (w : Round) (n : Nat) (r : Bytes) (cands : List Nat) : List Nat :=
  let xs := (cands.eraseDups.filter (fun c => c ≠ n && c ∉ w.tomb)).filterMap (fun c => (s.roundRec x.ns w c).map (fun b => (c, b)))
  let keep := (nearest x.params r xs).foldl (fun (keep : List (Nat × Bytes)) c =>
    if x.params.degree ≤ keep.length then keep
    else if keep.any (fun y => ((decF32 x.params.alpha).mul (buildDist x.params y.2 c.2.1)).atMost c.2.2) then keep
    else keep ++ [(c.1, c.2.1)]) []
  keep.map (·.1)

/-- The graph that a build walks (R272): the records as committed. While the index has no entry point there is none to walk from, and the nodes
that this merge has built stand for it with the round's own records (log entry 44). -/
def State.walkRec (s : State) (x : Index) (w : Round) (slot : Nat) : Option Bytes :=
  s.roundRec x.ns (if x.entries.isEmpty then w else { w with recs := [] }) slot

/-- The walk that a build makes (R272): the walk of R258 without filter or lap, with queue length BUILD_L; the slots that it reads. -/
def State.buildWalk (s : State) (x : Index) (w : Round) : Nat → Query → List Nat → List Nat
  | 0, _, seen => seen
  | fuel + 1, q, seen =>
    match q.nextUnread with
    | none => seen
    | some c =>
      let mark (y : Cand) : Cand := { y with wasRead := true }
      let q := { q with queue := mapIf (fun y => y.slot = c.slot) mark q.queue }
      match s.walkRec x w c.slot with
      | none => State.buildWalk s x w fuel q seen
      | some r => State.buildWalk s x w fuel (q.offerAll x (recNeighbours r)) (seen ++ [c.slot])

/-- The slots that the walk of a node's build reads (R272): from the entry points, or, while the index has none, from the nodes that this merge
has built. -/
def State.buildReads (s : State) (x : Index) (w : Round) (n : Nat) (r : Bytes) : List Nat :=
  let blk : QBlock := { eqMask := 0, eqValue := 0, anyMask := 0, a0Lo := 0, a0Hi := 0, a1Lo := 0, a1Hi := 0, sketch := recSketch r, vector := [] }
  let q := Query.new { queue := .admin 0, tag := 0 } 0 x.ns blk x.params.buildL 1 x.params.buildL 0 false 0 0
  let starts := if x.entries.isEmpty then w.built else x.entries
  let q := starts.foldl (fun q e => (q.visit e).offer e 0) (q.visit n)
  s.buildWalk x w (x.usedSlots.length + 1) q []

/-- Candidates for the neighbourhood of a node, of those that its walk has read (R272). -/
def State.buildCands (s : State) (x : Index) (w : Round) (r : Bytes) (seen : List Nat) : List Nat :=
  let found := seen.filter (fun c => c ∉ w.tomb)
  let recs := found.filterMap (fun c => (s.walkRec x w c).map (fun b => (c, b)))
  ((nearest x.params r recs).map (·.1)).take x.params.buildL

/-- Writes a node's neighbour list in the round. -/
def State.setNeighbours (s : State) (x : Index) (w : Round) (n : Nat) (l : List Nat) : Round :=
  match s.roundRec x.ns w n with
  | none => w
  | some r => { w with recs := ainsert n (recWithNeighbours r l) w.recs }

/-- Adds an edge to `n` to one of its neighbours, pruned to DEGREE (R272). -/
def State.linkBack (s : State) (x : Index) (n : Nat) (w : Round) (m : Nat) : Round :=
  match s.roundRec x.ns w m with
  | none => w
  | some r =>
    let l := addOnce n (recNeighbours r)
    if x.params.degree < l.length then (s.setNeighbours x w m (s.pruneTo x w m r l)).note (m :: l) else (s.setNeighbours x w m l).note [m]

/-- Folds an insert (R272): a slot that the same merge deletes never enters the graph (R273). -/
def State.foldInsert (s : State) (x : Index) (m : Merge) (w : Round) (n : Nat) : Round :=
  if m.all.any (fun e => !e.isInsert && e.slot == n) then w
  else
    match s.roundRec x.ns w n with
    | none => w
    | some r =>
      let seen := s.buildReads x w n r
      let l := s.pruneTo x w n r (s.buildCands x w r seen)
      let w := (s.setNeighbours x w n l).note (n :: seen)
      let w := l.foldl (s.linkBack x n) w
      { w with built := w.built ++ [n] }

/-- Folds a delete (R273). -/
def State.foldDelete (s : State) (x : Index) (w : Round) (e : DEntry) : Round :=
  let w := { w with tomb := addOnce e.slot w.tomb }
  match s.roundRec x.ns w e.slot with
  | none => w
  | some r =>
    let own := recNeighbours r
    let w := Round.note { w with recs := ainsert e.slot (overlay r 0x20 (leBytes 8 e.seq)) w.recs } (e.slot :: own)
    own.foldl (fun w m =>
      match s.roundRec x.ns w m with
      | none => w
      | some b =>
        if (recNeighbours b).contains e.slot then (s.setNeighbours x w m (s.pruneTo x w m b (recNeighbours b ++ own))).note (recNeighbours b) else w) w

/-- Folds entries while the round's 4,096 records have room for another (R271); answers the entries left. -/
def State.foldSome (s : State) (x : Index) (m : Merge) : List DEntry → Round → Round × List DEntry
  | [], w => (w, [])
  | e :: es, w =>
    if 4096 < w.recs.length + 66 then (w, e :: es)
    else State.foldSome s x m es (if e.isInsert then s.foldInsert x m w e.slot else s.foldDelete x w e)

/-- The sweep of some slots: edges to tombstoned slots go (R275); answers the first slot left for another round. -/
def State.sweepSome (s : State) (x : Index) : List Nat → Round → Round × Option Nat
  | [], w => (w, none)
  | n :: ns, w =>
    if 4096 ≤ w.recs.length then (w, some n)
    else
      match s.roundRec x.ns w n with
      | none => State.sweepSome s x ns w
      | some r =>
        let l := (recNeighbours r).filter (fun m => m ∉ w.tomb)
        State.sweepSome s x ns ((if l = recNeighbours r then w else s.setNeighbours x w n l).note [n])

/-- The bitwise majority of some sketches: a bit that half of them have set or fewer is 0 (R274). -/
def majority (bits : Nat) (l : List Bytes) : Bytes :=
  (List.range (bits / 8)).map (fun i => BitVec.ofNat 8 ((List.range 8).map (fun j =>
    if l.length < 2 * (l.filter (fun b => bitAt (field b i 1) j)).length then 2 ^ j else 0)).sum)

/-- The entry points after a merge's final round (R274). -/
def State.newEntries (s : State) (x : Index) (m : Merge) (w : Round) : List Nat :=
  let live := x.entries.filterMap (fun e =>
    if e ∉ w.tomb then some e
    else
      match s.roundRec x.ns w e with
      | none => none
      | some r =>
        let xs := ((recNeighbours r).filter (fun c => c ∉ w.tomb)).filterMap (fun c => (s.roundRec x.ns w c).map (fun b => (c, b)))
        (nearest x.params r xs).head?.map (·.1))
  let live := live.eraseDups
  let folded := (m.all.filter (fun e => e.isInsert && e.slot ∉ w.tomb)).map (fun e => (e.slot, e.sketch))
  let maj := majority x.params.sketchBits (folded.map (·.2))
  let byDist := sortBy (fun (a b : Nat × Bytes) => decide (hamming a.2 maj < hamming b.2 maj) || (hamming a.2 maj == hamming b.2 maj && decide (a.1 < b.1)))
    (folded.filter (fun f => f.1 ∉ live))
  live ++ (byDist.map (·.1)).take (x.params.entryCount - live.length)

/-- The directory that a sweep rebuilds from the records (R275): undeleted ones, less the slots that entries above M delete; what cannot be
read keeps its entry. -/
def State.rebuildDir (s : State) (x : Index) (w : Round) : List (Nat × Nat) :=
  let dead := w.tomb ++ (x.driftline.filter (fun e => e.seq ≠ 0 && !e.isInsert)).map (·.slot)
  let openSlots := (x.driftline.filter (fun e => e.seq = 0 && e.isInsert)).map (·.slot)
  (x.usedSlots.filter (fun n => n ∉ dead && n ∉ openSlots)).filterMap (fun n =>
    match s.roundRec x.ns w n with
    | some r => some (recNode r % 2 ^ 36, n)
    | none => x.directory.find? (fun e => e.2 = n))

/-- The name under which a forced merge's rounds write: no command bears it. -/
def mergeOwner (ns : Nat) : CmdId := { queue := .admin 2, tag := ns }

/-- Slots whose tombstone bit a round sets. -/
def Index.newTombs (x : Index) (w : Round) : List Nat := w.tomb.filter (fun t => t ∉ x.tombstones)

/-- Identifiers whose directory entry a sweep's rebuilding changes (R275). -/
def Index.dirChanges (x : Index) (dir : List (Nat × Nat)) : List Nat :=
  ((x.directory.filter (fun e => alookup e.1 dir ≠ some e.2)).map (·.1) ++ (dir.filter (fun e => alookup e.1 x.directory ≠ some e.2)).map (·.1)).eraseDups

/-- Table pages that a round dirties (R251): those of its tombstone bits, and, where it ends a sweep, those of the directory that it writes anew. -/
def Index.roundPages (x : Index) (w : Round) (dir : Option (List (Nat × Nat))) : List (Nat × Nat) :=
  (x.newTombs w).flatMap Index.tombPages ++ (match dir with
    | none => []
    | some d => (x.dirChanges d).flatMap Index.dirPages ++ x.dirPoison.map (fun sec => (1, sec / 512)))

/-- The index after a round's commit point. -/
def Index.afterRound (x : Index) (m : Merge) (w : Round) (seq : Nat) (left : List DEntry) (sweptTo : Nat) (pages : List (Nat × Nat)) : Index :=
  Index.touch { x with tombstones := w.tomb, unreadable := x.unreadable.filter (fun n => (alookup n w.recs).isNone)
                       merge := some { m with todo := left, built := w.built, sweptTo := sweptTo }, rounds := x.rounds ++ [seq] } seq pages

/-- The index after a merge's final round (R274 to R276). -/
def Index.afterMerge (x : Index) (m : Merge) (seq : Nat) (entries : List Nat) (dir : Option (List (Nat × Nat))) : Index :=
  let seqs := m.all.map (·.seq)
  let mark (e : DEntry) : DEntry := { e with folded := true }
  { x with merge := none, epoch := x.epoch + 1, epochBase := m.bound, entries := entries
           driftline := mapIf (fun e => e.seq ≠ 0 && seqs.contains e.seq) mark x.driftline
           reclaim := x.reclaim ++ [(seq, seqs, if m.sweep then x.tombstones.filter (fun t => x.reclaim.all (fun r => !r.2.2.contains t)) else [])]
           directory := dir.getD x.directory, dirPoison := if dir.isSome then [] else x.dirPoison
           rounds := [], prior := some { rounds := x.rounds, epoch := x.epoch, base := x.epochBase, entries := x.entries, freed := [] } }

/-- The slots that a sweep has still to pass. -/
def Index.sweepLeft (x : Index) (m : Merge) : List Nat :=
  if m.sweep then (sortBy (fun a b => decide (a < b)) x.usedSlots).filter (fun n => decide (m.sweptTo ≤ n)) else []

/-- The tombstone bitmap that a sweep rebuilds from the records (R275); what cannot be read keeps its bit. -/
def State.rebuildTomb (s : State) (x : Index) (w : Round) : Round :=
  let look (l : List Nat) (n : Nat) : List Nat :=
    match s.roundRec x.ns w n with
    | some r => if recInsertSeq r != 0 && recDeleteSeq r != noDelete then addOnce n l else l
    | none => l
  Round.note { w with tomb := x.usedSlots.foldl look w.tomb } x.usedSlots

/-- The records that a round rewrites, the entries that it leaves, and where the sweep has come to, if it is not at its end (R271 to R275). -/
def State.roundWork (s : State) (x : Index) (m : Merge) : Round × List DEntry × Option Nat :=
  let (w, left) := s.foldSome x m m.todo { recs := [], tomb := x.tombstones, built := m.built, read := [] }
  if left.isEmpty then
    let (w, sweptTo) := s.sweepSome x (x.sweepLeft m) (if m.sweep then s.rebuildTomb x w else w)
    (w, left, sweptTo)
  else (w, left, some m.sweptTo)

/-- The units of the write buffer that a round's records take. -/
def Round.units (w : Round) : List (Nat × Nat) := w.recs.map (fun r => (r.1 / 4, 2 ^ (r.1 % 4)))

/-- The units whose pages a round reads, each once (R344). -/
def Round.readUnits (w : Round) : List Nat := (w.read.map (· / 4)).eraseDups

/-- The directory that a sweep's last round puts in place. -/
def State.roundDir (s : State) (x : Index) (m : Merge) (w : Round) (last : Bool) : Option (List (Nat × Nat)) :=
  if last && m.sweep then some (s.rebuildDir x w) else none

/-- A round's records in the write buffer, with room made under the dirty ceiling, and the pieces that its commit adds (R181, R327, R369). -/
def State.roundStore (s : State) (x : Index) (owner : CmdId) (w : Round) (pages : List (Nat × Nat)) : State × Nat :=
  let t := w.recs.foldl (fun s r => s.writeBlocks owner x.ns r.1 1 r.2) s
  let adds (s : State) : Nat := s.pendPieces owner + ((s.index? x.ns).map (fun y => y.newPages pages)).getD 0
  let t := State.makeRoom adds (t.dirtyPieces + 1) t
  (t, adds t)

/-- The writes of a round to the tables in near memory (R250, R273, R275). -/
def State.roundWrites (s : State) (x : Index) (w : Round) (dir : Option (List (Nat × Nat))) : State :=
  let s := (x.newTombs w).foldl (fun s t => s.tableWrite (x.tombAddr t) 1) s
  match dir with
  | none => s
  | some d => (x.dirChanges d).foldl (fun s n => s.tableWrite (x.dirAddr n) 5) s

/-- The commit point of a round (R271). Entry points whose records it writes are copied afresh (R253). -/
def State.roundPublish (s : State) (x : Index) (m : Merge) (owner : CmdId) (w : Round) (left : List DEntry) (sweptTo : Nat)
    (dir : Option (List (Nat × Nat))) : State :=
  let (t, seq) := s.takeSeq
  let t := ((t.publishPend owner seq).updIndex x.ns (fun x =>
    { x.afterRound m w seq left sweptTo (x.roundPages w dir) with ctx := (m.id.map (fun (i : CmdId) => qCtx i.queue)).getD x.ctx })).roundWrites x w dir
  if x.entries.any (fun e => (alookup e w.recs).isSome) then t.copyEntries x.ns else t

/-- The end of a merge whose last round committed under `seq` (R253, R274, R275). -/
def State.mergeEnd (s : State) (x : Index) (m : Merge) (w : Round) (seq : Nat) (dir : Option (List (Nat × Nat))) : State :=
  let entries := s.newEntries x m w
  let t := (s.updIndex x.ns (fun x => x.afterMerge m seq entries dir)).copyEntries x.ns
  let t := if m.sweep then t.dropMarks (fun a => ((t.tableAt x a).map (fun b => b.1 != 0)).getD false) else t
  (match m.id with
   | some id => t.completeId id .ok 0 []
   | none => t).settleWaits

/-- MERGE_ROUND (R271 to R275): folds and sweeps what one round holds, and commits it; the last round opens a new epoch. A round waits while
the write buffer or the dirty ceiling has no room, and the power-loss sequence starts none (R362, R364). -/
def execMergeRound (ns : Nat) (s : State) : Res :=
  .next (
    match s.index? ns with
    | none => s
    | some x =>
      match x.merge with
      | none => s
      | some m =>
        let owner := m.id.getD (mergeOwner ns)
        let (w, left, sweptTo) := s.roundWork x m
        let last := left.isEmpty && sweptTo.isNone
        let dir := s.roundDir x m w last
        if !s.flashFree || s.writesHeld || !s.roomFor w.units then s
        else
          let (t, n) := (w.readUnits.foldl (fun s u => s.readPage ns u) s).roundStore x owner w (x.roundPages w dir)
          if t.ceilingPieces < t.dirtyPieces + n then t.dropPend owner
          else
            let u := t.roundPublish x m owner w left (sweptTo.getD 0) dir
            if last then u.mergeEnd x m w t.commitSeq dir else u.settleWaits)

/-- Whether an ended merge's freeing is due: no query of the index with a snapshot below C is pending (R276). -/
def State.reclaimDue (s : State) (ns c : Nat) : Bool := !s.queries.any (fun q => q.ns == ns && seqLt q.snapshot c) &&
  !s.invocations.any (fun i => match i.snap with
    | some (n, snapshot, _) => n == ns && seqLt snapshot c
    | none => false)

/-- Table pages that freeing some slots dirties (R251, R276). -/
def Index.freedPages (x : Index) (slots : List Nat) : List (Nat × Nat) := slots.flatMap (fun n => Index.tombPages n ++ x.sketchPages n)

/-- The index after an ended merge's freeing (R276). -/
def Index.afterReclaim (x : Index) (r : Nat × List Nat × List Nat) (seq : Nat) : Index :=
  let mine (e : DEntry) : Bool := e.folded && r.2.1.contains e.seq
  let y := x.removeEntries mine
  let keep (b : Prior) : Prior := if b.rounds.getLast? = some r.1 then { b with freed := b.freed ++ x.driftline.filter mine } else b
  Index.touch { y with prior := x.prior.map keep, reclaim := x.reclaim.filter (· ≠ r), tombstones := x.tombstones.filter (fun t => t ∉ r.2.2)
                       sketches := x.sketches.filter (fun e => e.1 ∉ r.2.2), usedSlots := x.usedSlots.filter (fun n => n ∉ r.2.2)
                       unreadable := x.unreadable.filter (fun n => n ∉ r.2.2) } seq (x.freedPages r.2.2)

/-- Entries that have been freed leave the laps that still hold them. -/
def State.dropLaps (s : State) (x : Index) (r : Nat × List Nat × List Nat) : State :=
  let gone (e : DEntry) : Bool := r.2.1.contains e.seq && x.driftline.any (fun d => d.folded && d.same e)
  let cut (q : Query) : Query := { q with lapLeft := q.lapLeft.filter (fun e => !gone e) }
  let mine := s.queries.filter (fun q => q.ns == x.ns && q.walker.isSome)
  mine.foldl (fun s q => s.runQuery q.id q.qi) { s with queries := mapIf (fun q => q.ns == x.ns) cut s.queries }

/-- Frees what an ended merge left (R276): its driftline entries, and after a sweep the slots with their records, sketches and tombstones, whose
trims are a commit of the device's own. -/
def State.reclaimOne (s : State) (x : Index) (owner : CmdId) (r : Nat × List Nat × List Nat) : State :=
  let (s, seq) := if r.2.2.isEmpty then (s, s.lastSeq) else s.takeSeq
  let s := ((s.publishPend owner seq).updIndex x.ns (fun x => x.afterReclaim r seq)).poolFreed
  let s := r.2.2.foldl (fun s n => (s.tableWrite (x.sketchAddr n) x.params.entryBytes).tableWrite (x.tombAddr n) 1) s
  s.dropLaps x r

/-- The trims of the slots that are freed, with room made under the dirty ceiling, and the pieces that they and the tables add (R181, R331). -/
def State.reclaimStore (s : State) (x : Index) (owner : CmdId) (slots : List Nat) : State × Nat :=
  let t := slots.foldl (fun s n => s.trimRun owner x.ns n 1) s
  let adds (s : State) : Nat := s.pendPieces owner + ((s.index? x.ns).map (fun y => y.newPages (x.freedPages slots))).getD 0
  let t := State.makeRoom adds (t.dirtyPieces + 1) t
  (t, adds t)

/-- DRIFTLINE_RECLAIM (R276, R278): it waits while a query needs what it frees, and while the write buffer or the dirty ceiling has no room. -/
def execDriftlineReclaim (ns : Nat) (s : State) : Res :=
  .next (
    match s.index? ns with
    | none => s
    | some x =>
      match x.reclaim with
      | [] => s
      | r :: _ =>
        if !s.flashFree || !s.reclaimDue ns r.1 || !s.roomFor (r.2.2.map (fun n => (n / 4, 2 ^ (n % 4)))) then s
        else
          let (t, n) := s.reclaimStore x (mergeOwner ns) r.2.2
          if n ≠ 0 && decide (t.ceilingPieces < t.dirtyPieces + n) then t.dropPend (mergeOwner ns)
          else (t.reclaimOne x (mergeOwner ns) r).forceMerge.settleWaits)

end Sys2Proof.Machine
end

