-- ==== Sys2Proof/Machine/Accord.lean ====
section
/-!
DEFINITION. Accords and bound models (chapter *Service accords and resident models*): the definition and its checks (R283 to R289), working
tensors (R286), and the commands of group 0x7 but for ACCORD_RUN.
-/
namespace Sys2Proof.Machine

open Sys2Proof

/-! ### The definition (R283, R284) -/

/-- A stage entry at an offset of a definition (R284). -/
def stageOf (b : Bytes) (off : Nat) : Stage :=
  { kind := field b off 1, model := field b (off + 4) 4, target := field b (off + 8) 1
    binds := (List.range (min 8 (field b (off + 2) 1))).map (fun i => field b (off + 0xC + 2 * i) 2), param := slice b (off + 0x1C) 20 }

/-- A parameter field by its offset within the stage entry (R285). -/
def Stage.prm (st : Stage) (off n : Nat) : Nat := field st.param (off - 0x1C) n

/-- Stages that run a model (R285). -/
def Stage.runsModel (st : Stage) : Bool := st.kind == 2 || st.kind == 5 || st.kind == 0xB || st.kind == 0xD

/-- A filter term at an offset (R289). -/
def termOf (b : Bytes) (off : Nat) : Term :=
  { src := field b off 1, op := field b (off + 1) 1, negate := bitAt (field b (off + 2) 1) 0, offset := field b (off + 4) 2, set := field b (off + 6) 2
    a := field b (off + 8) 4, b := field b (off + 0xC) 4 }

/-- Offsets of the stage entries. -/
def stageOffs (b : Bytes) : List Nat := (List.range (field b 7 1)).map (fun i => 0x40 + 48 * i)

def stagesOf (b : Bytes) : List Stage := (stageOffs b).map (stageOf b)

/-- The parameter of the first stage of a kind, 0 without one. -/
def prmOf (l : List Stage) (kind off n : Nat) : Nat := ((l.find? (fun s => s.kind == kind)).map (fun s => s.prm off n)).getD 0

/-- K of the SEARCH stage. -/
def searchK (l : List Stage) : Nat := prmOf l 3 0x20 2

/-- Filter terms of the FILTER stage. -/
def termCount (l : List Stage) : Nat := prmOf l 4 0x1C 1

/-- An accord as its definition gives it, before its tensors are allocated. -/
def accordOf (b : Bytes) (handle part ctx : Nat) (tensors : List Nat) : Accord :=
  let st := stagesOf b
  { handle := handle, part := part, ctx := ctx, kind := field b 6 1, batch := field b 8 2, seq := field b 0xA 2, textMax := field b 0xC 4
    rings := field b 0x12 1, padToken := field b 0x18 4, stages := st
    terms := (List.range (termCount st)).map (fun i => termOf b (field b 0x14 4 + 16 * i)), tensors := tensors, working := [], poisoned := false }

/-! ### The checks of R288 -/

/-- A failed check: its status with the check number and the offset of the stage entry (R288, R530). -/
def acFail {α : Type} (st : Status) (detail check wher : Nat) : Chk α :=
  .error { status := st, detail := detail, bytes := leBytes 4 check ++ leBytes 4 wher }

/-- A condition of a check that answers ACCORD_INVALID. -/
def acNeed (c : Bool) (check wher : Nat) : Chk Unit := if c then .ok () else acFail .accordInvalid check check wher

/-- The stage kinds that may follow `prev` in an accord of a kind (R287); `prev` is 0 at the start. -/
def nextStages (kind prev : Nat) : List Nat :=
  match kind, prev with
  | 2, 0 => [0xA]
  | 2, _ => [0xB, 0xC, 0xD]
  | _, 0 => [1]
  | _, 1 => [2]
  | 0, 2 => [3]
  | 0, 3 => [4, 5, 6, 7]
  | 0, 4 => [5, 6, 7]
  | 0, 5 => [6, 7]
  | 0, 6 => [7]
  | 1, 2 => [8]
  | 1, 8 => [9]
  | 1, 9 => [7]
  | _, _ => []

/-- The index of the first stage out of order (R287). -/
def orderFault (kind : Nat) (ks : List Nat) : Option Nat :=
  match ((List.range ks.length).find? (fun i => !(nextStages kind (if i = 0 then 0 else ks.getD (i - 1) 0)).contains (ks.getD i 0))) with
  | some i => some i
  | none => if kind = 2 then (if ks.length < 2 then some 0 else none) else if ks.getLast? = some 7 then none else some (ks.length - 1)

/-- The bytes of PARAM that a stage kind names (R285). -/
def paramFields (kind : Nat) : List (Nat × Nat) :=
  match kind with
  | 3 => [(0x1C, 2), (0x1E, 1), (0x1F, 1), (0x20, 2), (0x22, 2)]
  | 4 => [(0x1C, 1)]
  | 5 => [(0x1C, 2)]
  | 6 => [(0x1C, 2)]
  | 0xC => [(0x1C, 1), (0x1D, 1), (0x1E, 1), (0x20, 2), (0x22, 2), (0x24, 2)]
  | _ => []

/-- Ranges of a stage's parameters (R285). -/
def Stage.paramsOk (st : Stage) (k rings tensors : Nat) : Bool :=
  match st.kind with
  | 3 => (queryParamFault (st.prm 0x1F 1) 1 (st.prm 0x1C 2) (st.prm 0x20 2) (st.prm 0x1E 1) (st.prm 0x22 2)).isNone
  | 4 => decide (1 ≤ st.prm 0x1C 1) && decide (st.prm 0x1C 1 ≤ 16)
  | 5 => decide (1 ≤ st.prm 0x1C 2) && decide (st.prm 0x1C 2 ≤ k)
  | 6 => st.prm 0x1C 2 % 16 == 0 && decide (st.prm 0x1C 2 ≤ 4096)
  | 0xC => decide (st.prm 0x1C 1 ≤ 2) && decide (st.prm 0x1D 1 < rings) && decide (st.prm 0x1E 1 ≤ 16) && decide (st.prm 0x20 2 < tensors)
      && decide (st.prm 0x22 2 < tensors) && decide (st.prm 0x24 2 ≤ 2000)
  | _ => true

/-- Whether a BIND value names a tensor (R286). -/
def bindOk (tensors x : Nat) : Bool := (decide (x < 0x100) && decide (x < tensors)) || (decide (0xFF0 ≤ x) && decide (x ≤ 0xFF5))

/-- Check 1 on one stage entry: reserved fields, ranges. -/
def stageEntryOk (b : Bytes) (off k rings tensors : Nat) : Bool :=
  let st := stageOf b off
  zeroAt b (off + 1) 1 && zeroAt b (off + 3) 1 && decide (field b (off + 2) 1 ≤ 8) && zeroAt b (off + 9) 3
    && (st.runsModel || st.model == nullHandle) && (st.hasTarget || st.target == 0) && st.binds.all (bindOk tensors)
    && (List.range 20).all (fun i => (paramFields st.kind).any (fun p => decide (p.1 ≤ 0x1C + i) && decide (0x1C + i < p.1 + p.2)) || zeroAt st.param i 1)
    && st.paramsOk k rings tensors

/-- Check 1 on one filter term (R289). -/
def termOk (b : Bytes) (off tensors : Nat) : Bool :=
  let t := termOf b off
  decide (t.src ≤ 4) && decide (t.op ≤ 9) && decide (field b (off + 2) 1 ≤ 1) && zeroAt b (off + 3) 1
    && (t.src != 4 || (t.offset % 4 == 0 && decide (t.set < tensors)))

/-- Check 1 (R288). -/
def accordCheck1 (b : Bytes) : Chk Unit := do
  let tensors := field b 0x10 2
  let kind := field b 6 1
  acNeed (decide (0x40 ≤ b.length) && field b 0 4 == 0x43414B4E && field b 4 2 == 1 && decide (kind ≤ 2)) 1 0
  acNeed (decide (1 ≤ field b 7 1) && decide (field b 7 1 ≤ 16) && decide (1 ≤ field b 8 2) && decide (field b 8 2 ≤ 256)
    && decide (1 ≤ field b 0xA 2) && decide (field b 0xA 2 ≤ 8192)) 1 0
  acNeed (if kind = 1 then field b 0xC 4 % 64 == 0 && decide (field b 0xC 4 ≤ 1048576) else field b 0xC 4 == 0) 1 0
  acNeed (decide (tensors ≤ 256) && decide (field b 0x12 1 ≤ 4) && zeroAt b 0x13 1 && zeroAt b 0x1C 36) 1 0
  let st := stagesOf b
  acNeed (decide (0x40 + 48 * st.length ≤ b.length)) 1 0
  let k := searchK st
  match (stageOffs b).find? (fun off => !stageEntryOk b off k (field b 0x12 1) tensors) with
  | some off => acNeed false 1 off
  | none => .ok ()
  match orderFault kind (st.map (·.kind)) with
  | some i => acNeed false 1 (0x40 + 48 * i)
  | none => .ok ()
  let n := termCount st
  let wher := 0x40 + 48 * (st.findIdx (fun x => x.kind == 4))
  acNeed (n == 0 || (decide (0x40 + 48 * st.length ≤ field b 0x14 4) && decide (field b 0x14 4 + 16 * n ≤ b.length))) 1 wher
  acNeed ((List.range n).all (fun i => termOk b (field b 0x14 4 + 16 * i) tensors)) 1 wher

/-- The bound model of a handle in a partition (R298). -/
def State.model? (s : State) (p h : Nat) : Option Model := s.models.find? (fun m => m.handle = h && m.part = p)

/-- A stage's model with its program's image. -/
def State.stageModel (s : State) (p : Nat) (st : Stage) : Option (Model × Image) :=
  match s.model? p st.model with
  | none => none
  | some m => (s.progs.find? (fun x => x.handle = m.prog)).map (fun x => (m, x.img))

/-- A near-memory tensor packed without gaps: extents from dimension 0 on (R170). -/
def packedDesc (handle part fmt blockDim : Nat) (exts : List Nat) : Desc :=
  let d : Desc := { handle := handle, tier := 1, format := fmt, rank := exts.length, part := part, blockDim := blockDim
                    extent := exts ++ List.replicate (5 - exts.length) 1, stride := [0, 0, 0, 0, 0] }
  let d := { d with stride := [0, d.span 0, 0, 0, 0] }
  let d := if 2 < exts.length then { d with stride := [0, d.span 0, d.span 1, 0, 0] } else { d with stride := if exts.length < 2 then [0, 0, 0, 0, 0] else d.stride }
  { d with channels := 1, bytes := d.arrayBytes }

/-- The name of a working tensor in a binding: above every handle (R286). -/
def workHandle (idx : Nat) : Nat := 2 ^ 32 + idx

/-- The slot template that EMBED's program gives a working tensor. -/
def State.embedSlot (s : State) (p : Nat) (l : List Stage) (idx : Nat) : Option Desc :=
  match l.find? (fun st => st.kind == 2) with
  | none => none
  | some st =>
    match s.stageModel p st, st.binds.findIdx? (· == idx) with
    | some (_, g), some i => (g.slots[i]?).bind (fun x => g.tensors[x.1]?)
    | _, _ => none

/-- The namespace that SEARCH or INSERT names. -/
def indexTarget (l : List Stage) : Option Nat := (l.find? (fun st => st.kind == 3 || st.kind == 9)).map (·.target)

/-- The working tensors of an accord (*Working tensors* table, R286), those whose shape is known: rows run along dimension 0. -/
def State.workTensors (s : State) (a : Accord) : List (Nat × Desc) :=
  let mk (idx fmt bd : Nat) (exts : List Nat) : Nat × Desc := (idx, packedDesc (workHandle idx) a.part fmt bd exts)
  let emb (idx : Nat) : List (Nat × Desc) := match s.embedSlot a.part a.stages idx with
    | some t => [mk idx (if idx = 0xFF3 then 7 else t.format) (if idx = 0xFF3 then 0 else t.blockDim) [t.ext 0, a.batch]]
    | none => []
  let k := searchK a.stages
  let vec := match (indexTarget a.stages).bind s.index? with
    | some x => if a.kind = 0 then [mk 0xFF4 x.params.vformat 0 [x.params.dim, k, a.batch]] else []
    | none => []
  [mk 0xFF0 9 0 [a.seq, a.batch], mk 0xFF1 9 0 [a.batch]]
    ++ (if a.kind = 2 then [] else emb 0xFF2 ++ emb 0xFF3) ++ vec ++ (if a.kind = 0 then [mk 0xFF5 0 0 [k, a.batch]] else [])

/-- The descriptor that a BIND value names. -/
def State.bindDesc (s : State) (a : Accord) (work : List (Nat × Desc)) (x : Nat) : Option Desc :=
  if x < 0x100 then ((a.tensors[x]?).bind s.tensor?).map (fun (t : Tensor) => t.desc) else alookup x work

/-- Whether a working tensor's shape is not known yet, because its index does not exist or EMBED's model is not bound: that is for check 3 to say. -/
def State.shapeOpen (s : State) (a : Accord) (x : Nat) : Bool :=
  (x == 0xFF4 && a.kind == 0 && ((indexTarget a.stages).bind s.index?).isNone) ||
    ((x == 0xFF2 || x == 0xFF3) && a.kind != 2 && a.stages.any (fun st => st.kind == 2 && (s.stageModel a.part st).isNone))

/-- Check 2 on one stage: slots, templates (R193), CARRY and ring slots. A stage whose model is not bound is left to check 3. -/
def State.stageFits (s : State) (a : Accord) (work : List (Nat × Desc)) (st : Stage) : Bool :=
  if st.runsModel then
    match s.stageModel a.part st with
    | none => true
    | some (m, g) =>
      g.slots.length == st.binds.length + m.weights.length && g.carry == 0 && decide (g.rings ≤ a.rings) &&
        g.slots.zipIdx.all (fun x =>
          match (match st.binds[x.2]? with
            | some bnd => s.bindDesc a work bnd
            | none => ((m.weights[x.2 - st.binds.length]?).bind s.tensor?).map (fun (t : Tensor) => t.desc)) with
          | some d => d.part == a.part && g.slotFits x.1.1 d
          | none => (st.binds[x.2]?).any (s.shapeOpen a))
  else if st.kind = 4 then
    a.terms.all (fun t => t.src != 4 || (match s.bindDesc a work t.set with
      | some d => d.tier == 1 && d.format == 7 && decide (t.offset + 4 ≤ d.ext 0)
      | none => false))
  else true

/-- The type that a stage needs of its TARGET: OBJECT, or INDEX for SEARCH and INSERT. -/
def Stage.targetType (st : Stage) : Nat := if st.kind == 3 || st.kind == 9 then 2 else 1

/-- Check 3 on stage `i` (R245, R288). -/
def State.stageResources (s : State) (a : Accord) (i : Nat) (st : Stage) : Chk Unit := do
  let off := 0x40 + 48 * i
  if st.runsModel && (s.stageModel a.part st).isNone then acFail .modelUnbound i 3 off
  else if !st.hasTarget then .ok ()
  else if s.nsOwner st.target ≠ some a.part || 64 ≤ st.target then acFail .resourceAbsent (off + 8) 3 off
  else
    match s.ns? st.target with
    | none => acFail .notFound 0 3 off
    | some n =>
      if n.encrypt && s.sec.debugOpened then acFail .protectionDenied s.cfl.protLevel 3 off
      else if n.type ≠ st.targetType then acFail .namespaceTypeMismatch st.target 3 off
      else if st.targetType = 2 && (s.index? st.target).isNone then acFail .notFound 0 3 off
      else .ok ()

/-- Check 4: the embedding and the sketch have the index's sizes. -/
def State.embedFits (s : State) (a : Accord) : Bool :=
  if a.kind = 2 then true
  else
    match (indexTarget a.stages).bind s.index?, s.embedSlot a.part a.stages 0xFF2, s.embedSlot a.part a.stages 0xFF3 with
    | some x, some e, some k => e.ext 0 == x.params.dim && k.ext 0 == x.params.sketchBits / 8
    | _, _, _ => false

/-- Checks stages one by one. -/
def checkStages (f : Nat → Stage → Chk Unit) : Nat → List Stage → Chk Unit
  | _, [] => .ok ()
  | i, st :: rest => do
    f i st
    checkStages f (i + 1) rest

/-- Check 5: allocates the working tensors in near memory of the partition. -/
def State.allocWork (s : State) (p : Nat) : List (Nat × Desc) → Option (State × List (Nat × Desc))
  | [] => some (s, [])
  | (i, d) :: rest =>
    match s.allocTensor p 0xFF d.partBytes with
    | none => none
    | some (s, bases) =>
      match State.allocWork s p rest with
      | none => none
      | some (s, l) => some (s, (i, d.setBases bases) :: l)

/-- ACCORD_LOAD (R283 to R288). -/
def execAccordLoad (id : CmdId) (ctx defLen : Nat) (s : State) : Res :=
  .next (s.startCmd id (.accordLoad id ctx defLen) (fun s o => loadFailure o (do
    inRange (decide (ctx < 16)) 0x08
    let p := ioPart o
    need (s.ctx? p ctx).isSome .notFound 0
    needIbuf o defLen
    needRbuf o 8
    let hd ← s.ibuf o defLen
    let n := field hd 0x10 2
    needIbuf o (defLen + 4 * n)
    accordCheck1 hd
    let given ← s.ibuf o (defLen + 4 * n)
    if (accordOf hd 0 p ctx (handlesOf given defLen n)).namespaces.any s.nsHeld then .ok (s, .waits) else
    let (s, bs) ← s.takeIbuf o (defLen + 4 * n)
    let a := accordOf hd 0 p ctx (handlesOf bs defLen n)
    need (a.tensors.all (fun h => ((s.tensor? h).map (fun t => t.desc.part == p)).getD false)) .notFound 0
    let work := s.workTensors a
    checkStages (fun i st => acNeed (s.stageFits a work st) 2 (0x40 + 48 * i)) 0 a.stages
    checkStages (s.stageResources a) 0 a.stages
    acNeed (s.embedFits a) 4 (0x40 + 48 * 1)
    match s.allocWork p work with
    | none => acFail .resourceExhausted 0xFFFF 5 0
    | some (s, work) =>
      let (s, h) := s.newHandle p
      okResult { s with accords := s.accords ++ [{ a with handle := h, working := work }] } (leBytes 4 h))))

/-- The accord of a handle of the issuing partition (R527). -/
def State.accordIdent (s : State) (o : Outst) (h : Nat) : Chk Accord :=
  match s.accords.find? (fun a => a.handle = h && a.part = ioPart o) with
  | some a => .ok a
  | none => failWith .notFound 0

/-- Whether an invocation of an accord is queued or running (R299). -/
def State.accordInUse (s : State) (h : Nat) : Bool :=
  s.host.outst.any (fun o => o.phase != .posted && (match o.cmd with
    | .accordRun _ x .. => x == h
    | _ => false))

/-- ACCORD_UNLOAD (R299). -/
def execAccordUnload (id : CmdId) (acc : Nat) (s : State) : Res :=
  .next (s.startCmd id (.accordUnload id acc) (fun s o => do
    noHold o
    let _ ← s.accordIdent o acc
    need (!s.accordInUse acc) .resourceBusy 0
    okDone ({ s with accords := s.accords.filter (fun a => a.handle ≠ acc) }).sweep))

/-! ### Models (R298, R299, R304) -/

/-- Checks the weights of a model against their slot templates, which follow the explicit bindings (R286); a POISONED one is unreadable. -/
def State.weightCheck (s : State) (p : Nat) (g : Image) (k h : Nat) : Chk Unit := do
  s.slotCheck p g k ((g.slots[k]?).getD (0, 0)).1 h
  need (((s.tensor? h).map (fun t => t.desc.state != 3)).getD false) .weightsUnreadable 0xFFFF

/-- Stages every weight, or none of them (R298). -/
def State.stageAll (id : CmdId) : List Nat → State → Option State
  | [], s => some s
  | h :: hs, s =>
    match State.stage id h (s.tensors.length + 1) s with
    | none => none
    | some s => State.stageAll id hs s

/-- MODEL_BIND (R298, R304). A weight just staged is not evicted for a later one: it is bound meanwhile. -/
def execModelBind (id : CmdId) (prog count : Nat) (s : State) : Res :=
  .next (s.startCmd id (.modelBind id prog count) (fun s o => do
    inRange (decide (1 ≤ count) && decide (count ≤ 4095)) 0x0C
    let p := ioPart o
    let x ← s.progIdent p prog
    needIbuf o (4 * count)
    needRbuf o 4
    let (s, bs) ← s.takeIbuf o (4 * count)
    let hs := handlesOf bs 0 count
    let first := x.img.slots.length - count
    need (decide (count ≤ x.img.slots.length)) .tensorInvalid x.img.slots.length
    checkAll (fun j => s.weightCheck p x.img (first + j) (hs.getD j 0)) (List.range count)
    let (s, h) := s.newHandle p
    let s := { s with models := s.models ++ [{ handle := h, part := p, prog := prog, weights := hs }] }
    match State.stageAll id hs.eraseDups s with
    | none => failWith .resourceExhausted 0xFFFF
    | some s => do
      if hs.any (fun h => ((s.tensor? h).map (fun t => t.desc.state == 3)).getD true) then
        failKeep { s with models := s.models.filter (fun m => m.handle ≠ h) } .weightsUnreadable 0xFFFF
      okResult s (leBytes 4 h)))

/-- MODEL_UNBIND (R299). -/
def execModelUnbind (id : CmdId) (model : Nat) (s : State) : Res :=
  .next (s.startCmd id (.modelUnbind id model) (fun s o => do
    noHold o
    let _ ← (match s.model? (ioPart o) model with
      | some m => .ok m
      | none => failWith .notFound 0 : Chk Model)
    need (!s.accords.any (fun a => a.part == ioPart o && a.stages.any (fun st => st.runsModel && st.model == model))) .resourceBusy 0
    okDone { s with models := s.models.filter (fun m => !(m.handle == model && m.part == ioPart o)) }))

end Sys2Proof.Machine
end

