-- ==== Sys2Proof/Machine/Stages.lean ====
section
/-!
DEFINITION. Invocations of accords (R290 to R297, R300, R304, R306, R307): ACCORD_RUN and the thirteen stages.
-/
namespace Sys2Proof.Machine

open Sys2Proof

/-! ### Items (R290) -/

/-- Bytes of an item, or of a sampling entry (R307). -/
def Accord.itemLen (a : Accord) : Nat := if a.kind = 2 then 16 else 64 + 4 * a.seq + (if a.kind = 1 then a.textMax else 0)

/-- An item without tokens (R290). -/
def isPad (b : Bytes) : Bool := field b 0 4 == 0

/-- The wrong field of an item (R292), or of a sampling entry (R307). -/
def Accord.itemFault (a : Accord) (b : Bytes) : Option Nat :=
  if a.kind = 2 then
    if field b 8 4 % 4 ≠ 0 then some 0x08 else if a.seq < field b 0xC 4 then some 0x0C else none
  else if a.seq < field b 0 4 then some 0 else if a.textMax < field b 4 4 then some 4 else none

def itemNode (b : Bytes) : Nat := field b 8 5 % 2 ^ 36
def itemObject (b : Bytes) : Nat := field b 0x21 6

/-- Results per item that OUT writes (R296). -/
def Accord.kFinal (a : Accord) : Nat := if a.stages.any (fun st => st.kind == 5) then prmOf a.stages 5 0x1C 2 else searchK a.stages

/-- Snippet bytes, and whether GATHER is present. -/
def Accord.snipLen (a : Accord) : Option Nat := if a.stages.any (fun st => st.kind == 6) then some (prmOf a.stages 6 0x1C 2) else none

/-- Result length of an invocation (R296, R530). -/
def Accord.outLen (a : Accord) : Nat :=
  match a.kind with
  | 0 => a.batch * (16 + 16 * a.kFinal + (match a.snipLen with
    | some n => a.kFinal * (16 + n)
    | none => 0))
  | 1 => a.batch * 16
  | _ => 8

/-! ### Bindings of an invocation (R173 to R178, R182, R286) -/

/-- The handle that a BIND value stands for in the binding of an invocation. -/
def Accord.bindHandle (a : Accord) (x : Nat) : Nat := if x < 0x100 then a.tensors.getD x nullHandle else workHandle x

/-- The handles of a model-running stage's slots, in order (R286). -/
def State.stageHandles (s : State) (a : Accord) (st : Stage) : List Nat :=
  st.binds.map a.bindHandle ++ ((s.model? a.part st.model).map (·.weights)).getD []

/-- Tensors, working ones apart, that a stage reads, and those that it writes. -/
def State.stageTensors (s : State) (a : Accord) (st : Stage) : List Nat × List Nat :=
  let real (l : List Nat) : List Nat := l.filter (fun h => decide (h < 2 ^ 32))
  if st.runsModel then
    match s.stageModel a.part st with
    | none => ([], [])
    | some (_, g) => (real (g.inputs (s.stageHandles a st)), real (g.outputs (s.stageHandles a st)))
  else if st.kind = 0xC then ([a.bindHandle (st.prm 0x20 2)], [a.bindHandle (st.prm 0x22 2)])
  else if st.kind = 4 then ((a.terms.filter (fun t => t.src == 4)).map (fun t => a.bindHandle t.set), [])
  else ([], [])

/-- Puts the working tensors into a binding: they are read and written in place. -/
def State.bindWork (s : State) (id : CmdId) (a : Accord) : State :=
  s.updBinding id (fun b => { b with inputs := b.inputs ++ a.working.map (·.2) })

/-- Binds inputs, the weights of bound models first: a POISONED weight makes the invocation WEIGHTS_UNREADABLE (R304), whether the stage binds it as
its own model's or by another name. -/
def State.bindStageInputs (s : State) (id : CmdId) (a : Accord) (i : Nat) (st : Stage) : Chk State := do
  let ws := ((s.model? a.part st.model).map (·.weights)).getD []
  let ins := (s.stageTensors a st).1
  let seen (l : List Nat) : List Nat := l.filter (fun h => !((s.bindingOf id).inputs.any (fun d => d.handle = h)))
  let weights := ws ++ ins.filter s.isWeight
  let spoilt (h : Nat) : Bool := s.isWeight h && ((s.tensor? h).map (fun t => t.desc.state == 3)).getD false
  if (s.stageTensors a st).2.any spoilt then failKeep s .weightsUnreadable i
  let s ← s.bindInputs id .weightsUnreadable i (seen weights.eraseDups)
  s.bindInputs id .dataPoisoned 0 (seen ((ins.filter (fun h => h ∉ weights)).eraseDups))

/-- Binds a stage's tensors into the open binding of its invocation. -/
def State.bindStage (s : State) (id : CmdId) (a : Accord) (i : Nat) (st : Stage) : Chk State := do
  let s ← s.bindStageInputs id a i st
  s.bindOutputs id (s.stageTensors a st).2.eraseDups

/-- Binds the stages of a RETRIEVE or INGEST invocation, one after another. -/
def State.bindStages (id : CmdId) (a : Accord) : Nat → List Stage → State → Chk State
  | _, [], s => .ok s
  | i, st :: rest, s => do
    let s ← s.bindStage id a i st
    State.bindStages id a (i + 1) rest s

/-- The namespace of the first stage of a kind. -/
def prmTarget (l : List Stage) (kind : Nat) : Nat := ((l.find? (fun x => x.kind == kind)).map (·.target)).getD 0


/-! ### The texts of a batch (R285, R295, R322 to R324) -/

/-- Writes an item's text over an object: whole blocks of its extent, the last one filled with zeros. -/
def State.putText (s : State) (id : CmdId) (o : Obj) (text : Bytes) : State :=
  if text.isEmpty then s
  else s.writeBlocks id o.ns o.first (ceilDiv text.length 4096) (padTo (4096 * ceilDiv text.length 4096) text)

/-- Stores one item's text as the object it names (R285, R323, R324): over an object that exists with a length of TEXT_LEN, else as a new one,
beside every other object that is there or placed; the one that it replaces goes in the same commit, so its extent is free to take. Answers the slots that
the text fills and the object that it makes. -/
def State.storeItem (s : State) (id : CmdId) (n : Ns) (b : Bytes) : Chk (State × StoredText) := do
  let len := field b 4 4
  let text := slice b (b.length - len) len
  need (decide (itemObject b < n.objects)) .rangeExceeded 0x0C
  let placed := s.pendingObjs.any (fun o => o.ns = n.nsid && o.obj == itemObject b)
  match (s.obj? n.nsid (itemObject b)).filter (fun o => o.length == len && !placed) with
  | some o =>
    let t := s.putText id o text
    .ok (t, { sids := (s.flash.nextSlot, t.flash.nextSlot), made := none })
  | none =>
    let others := s.flash.objs.filter (fun o => !(o.ns = n.nsid && o.obj == itemObject b))
    let view := { s with flash := { s.flash with objs := others ++ s.pendingObjs } }
    match view.newExtent n (itemObject b) len false with
    | none => failWith .resourceExhausted 0xFFFF
    | some o =>
      let t := (s.putText id o text).addPend id (.objNew o)
      .ok (t, { sids := (s.flash.nextSlot, t.flash.nextSlot), made := some o })

/-- The text of an item starts after its tokens. -/
def Accord.textItem (a : Accord) (b : Bytes) : Bytes := b.take 64 ++ slice b (64 + 4 * a.seq) (field b 4 4)

/-- Stores items one by one. -/
def State.storeItems (id : CmdId) (n : Ns) : List Bytes → State → Chk (State × List StoredText)
  | [], s => .ok (s, [])
  | b :: bs, s => do
    let (s, x) ← s.storeItem id n b
    let (s, l) ← State.storeItems id n bs s
    .ok (s, x :: l)

/-! ### What an invocation can dirty (R182) -/

/-- The write-buffer slots that storing a batch's texts fills: those of the texts, one for each block of the object table that new objects change, and the zero
slots where an object that one of them replaces ends within a unit (R322, R324). -/
def State.storePieces (s : State) (id : CmdId) (n : Ns) (items : List Bytes) : Nat :=
  match State.storeItems id n items s with
  | .error _ => 0
  | .ok (_, l) =>
    let made := l.filterMap (·.made)
    let gone := (made.filterMap (fun o => s.obj? o.ns o.obj)).eraseDups
    (l.map (fun x => x.sids.2 - x.sids.1)).sum + (made.map (fun o => o.obj / 256)).eraseDups.length +
      (gone.map (fun o => (partialUnits o.first o.blocks).length)).sum

/-- The slots that inserting a batch takes, the lowest free ones, and the table pages that it dirties, each counted once (R251, R266). -/
def Index.batchPages (x : Index) (nodes : List Nat) : List (Nat × Nat) :=
  let free := ((List.range (min x.params.slots (x.usedSlots.length + nodes.length))).filter (fun i => i ∉ x.usedSlots)).take nodes.length
  (free.flatMap x.sketchPages ++ nodes.flatMap Index.dirPages).eraseDups

/-- Everything that an invocation can dirty (R182): its output tensors, and for INGEST each item's text and record and the table pages. -/
def State.invPieces (s : State) (id : CmdId) (a : Accord) (items : List Bytes) : Nat :=
  let live := items.filter (fun b => !isPad b)
  ((a.stages.flatMap (fun st => (s.stageTensors a st).2)).eraseDups.map s.tensorPieces).sum +
    (if a.kind = 1 then
      ((s.ns? (prmTarget a.stages 8)).map (fun n => s.storePieces id n (live.map a.textItem))).getD 0 + live.length +
        ((s.index? (prmTarget a.stages 9)).map (fun x => (x.batchPages (live.map itemNode)).length)).getD 0
     else 0)

/-! ### ACCORD_RUN (R290 to R294) -/

/-- A new invocation at a stage. -/
def Invocation.new (id : CmdId) (acc stage : Nat) (seed : W64) (items : List Bytes) : Invocation :=
  { id := id, accord := acc, stage := stage, busy := false, seed := seed, items := items, cands := [], heads := [], snippets := []
    itemStatus := items.map (fun _ => .ok), output := [], snap := none, texts := [], flags := 0, saturations := 0, nanConv := 0, rescales := 0, emptySteps := 0 }

/-- The failure result of a TRAIN invocation that fails before a stage runs (R530): the stage it was to start with. -/
def trainFailure {α : Type} (a : Accord) (start : Nat) (c : Chk α) : Chk α :=
  match c with
  | .ok x => .ok x
  | .error f => .error { f with bytes := if a.kind = 2 then leBytes 4 start ++ zeros 4 else f.bytes }

/-- An invocation's own checks of its accord: no debug access to its encrypted namespaces (R588), their keys (R584), its working tensors (R222). -/
def State.accordOpen (s : State) (a : Accord) : Chk Unit := do
  need (!(s.sec.debugOpened && a.namespaces.any s.encrypted)) .protectionDenied s.cfl.protLevel
  need (!(a.namespaces.any (fun n => ((s.ns? n).map Ns.keyGone).getD false))) .dataPoisoned 0
  need (!a.poisoned) .dataPoisoned 0

/-- The start of an invocation. -/
def State.startInvocation (s : State) (id : CmdId) (o : Outst) (a : Accord) (start : Nat) (seed : W64) : Chk (State × Done) := do
  let (s, bs) ← s.takeIbuf o (a.batch * a.itemLen)
  let items := (List.range a.batch).map (fun i => slice bs (i * a.itemLen) a.itemLen)
  match items.findSome? a.itemFault with
  | some off => failWith .tensorInvalid off
  | none => do
    s.dirtyFits (s.invPieces id a items)
    let outs := (a.stages.flatMap (fun st => (s.stageTensors a st).2)).eraseDups
    if s.outputsHeld outs || (a.kind = 1 && s.writesHeld) then .ok (s, .waits)
    else do
      let inv := Invocation.new id a.handle start seed items
      let s := { s with invocations := s.invocations.filter (fun i => i.id ≠ id) ++ [inv] }
      let s ← if a.kind = 2 then .ok s else State.bindStages id a 0 a.stages ((s.openBinding id).bindWork id a)
      .ok (s, .runs a.outLen)

/-- Whether a command names an encrypted namespace (R566, R588): by its NSID, or an ACCORD_RUN by its accord's stages. -/
def State.namesEncrypted (s : State) (c : Instr) : Bool :=
  match c with
  | .accordRun _ acc _ _ => s.accords.any (fun a => a.handle = acc && a.namespaces.any s.encrypted)
  | c => ((namesNs c).map s.encrypted).getD false

/-- Whether a command is held while a protection level is lowered (R566). -/
def State.commandHeld (s : State) (c : Instr) : Bool := s.cfl.isLowering && s.namesEncrypted c

/-- ACCORD_RUN (R292 to R294, R297, R527): a killed invocation goes on with what it has kept. -/
def execAccordRun (id : CmdId) (acc startStage : Nat) (seed : W64) (s : State) : Res :=
  .next (s.startCmd id (.accordRun id acc startStage seed) (fun s o =>
    if !s.sliceAllows id || s.commandHeld (.accordRun id acc startStage seed) then .ok (s, .waits)
    else do
      let a ← s.accordIdent o acc
      match s.invocations.find? (fun i => i.id = id) with
      | some i => trainFailure a i.stage (do
        s.accordOpen a
        s.dirtyFits (s.invPieces id a i.items)
        let s ← if a.kind = 2 then .ok s else State.bindStages id a 0 a.stages ((s.openBinding id).bindWork id a)
        .ok (s, .runs a.outLen))
      | none => trainFailure a startStage (do
        inRange (if a.kind = 2 then decide (startStage < a.stages.length) else startStage == 0) 0x0C
        need (a.ctx == qCtx id.queue) .resourceAbsent 0x08
        needIbuf o (a.batch * a.itemLen)
        needRbuf o a.outLen
        s.accordOpen a
        s.startInvocation id o a startStage seed)))

/-! ### The progress of an invocation (R293) -/

def State.inv? (s : State) (id : CmdId) : Option Invocation := s.invocations.find? (fun i => i.id = id)

def State.updInv (s : State) (id : CmdId) (f : Invocation → Invocation) : State := { s with invocations := mapIf (fun i => i.id = id) f s.invocations }

def State.accordOf? (s : State) (h : Nat) : Option Accord := s.accords.find? (fun a => a.handle = h)

/-- The working tensor of an accord. -/
def Accord.work (a : Accord) (idx : Nat) : Desc := (alookup idx a.working).getD {}

/-- A view of a working tensor. -/
def Accord.workView (a : Accord) (idx : Nat) : View := { desc := a.work idx, bases := (a.work idx).bases, shadow := none, loc := none }

/-- Keeps what a run has raised until the invocation commits (R69, R108). -/
def Invocation.absorb (i : Invocation) (r : Run) : Invocation :=
  { i with flags := i.flags ||| r.flags, saturations := i.saturations + r.saturations, nanConv := i.nanConv + r.nanConv
           rescales := i.rescales + r.rescales, emptySteps := i.emptySteps + r.emptySteps }

/-- Counts what a conversion outside a run has counted (R68). -/
def Invocation.count (i : Invocation) (e : Ev) : Invocation :=
  { i with flags := i.flags ||| e.flags, saturations := i.saturations + e.sats, nanConv := i.nanConv + e.nans }

def Invocation.advance (i : Invocation) : Invocation := { i with stage := i.stage + 1, busy := false }

/-- Reads that a stage makes of working tensors and record sets: what the checkers find comes first, and poison fails the invocation (R217, R222,
R224). -/
def State.stageReading (s : State) (id : CmdId) (spans : List (Nat × Nat)) (go : State → State) : State :=
  let s := spans.foldl (fun s x => s.probe x.1 x.2) s
  if (s.inv? id).isNone then s else if spans.any (fun x => s.poisoned x.1 x.2) then s.consumed id 4 else go s

/-- The element array of a working tensor. -/
def Accord.workSpan (a : Accord) (idx : Nat) : Nat × Nat := ((a.work idx).base, (a.work idx).arrayBytes)

/-- Scores order candidates: larger first, equal ones by NODE_ID (R285); a score that is no number comes last. -/
def rerankBefore (x y : Hit) : Bool :=
  let a := decF32 x.score
  let b := decF32 y.score
  b.lt a || (b = .nan && a != .nan) || (!a.lt b && !b.lt a && (a = .nan) == (b = .nan) && decide (x.node < y.node))

/-- The end of RERANK: each candidate takes its score from 0xFF5, and the K_OUT best stay. -/
def State.rescored (s : State) (a : Accord) (st : Stage) (i : Invocation) : List (List Hit) :=
  let k := searchK a.stages
  i.cands.zipIdx.map (fun x =>
    let hs := x.1.map (fun (h : Hit) => { h with score := BitVec.ofNat 32 (ofLe (s.devRd a.part ((a.work 0xFF5).base + 4 * (x.2 * k + h.pos)) 4)) })
    (sortBy rerankBefore hs).take (st.prm 0x1C 2))

/-- The end of SEARCH: each item takes the best K of its query; 0xFF4 takes the vectors of the records read (R286). -/
def State.collectHits (s : State) (a : Accord) (i : Invocation) : State :=
  let k := searchK a.stages
  let d := a.work 0xFF4
  let qs := s.queriesOf i.id
  let of (j : Nat) : Option Query := qs.find? (fun q => q.qi == j)
  let rank (l : List Hit) : List Hit := (l.take k).zipIdx.map (fun x => { x.1 with pos := x.2 })
  let cands := (List.range a.batch).map (fun j => ((of j).map (fun q => rank q.results)).getD [])
  let heads := (List.range a.batch).map (fun j => ((of j).map (fun q => (q.flags, q.reads, q.hops))).getD (0, 0, 0))
  let w := packedLen (fmtBits d.format) d.stored0
  let s := cands.zipIdx.foldl (fun s c => c.1.foldl (fun s h => s.devWr a.part (d.base + d.rowOff (c.2 * k + h.pos)) (slice h.record 0x200 w)) s) s
  let put (x : Invocation) : Invocation := { x with cands := cands, heads := heads, saturations := x.saturations + (qs.map (·.sats)).sum }
  { (s.updInv i.id put) with queries := s.queries.filter (fun q => q.id ≠ i.id) }

/-- Ends the stage under way when its run or its queries have ended. A TRAIN stage ends at its own commit (R297). -/
def State.endStage (s : State) (id : CmdId) : State :=
  match s.inv? id with
  | none => s
  | some i =>
    match s.accordOf? i.accord with
    | none => s
    | some a =>
      if !i.busy || a.kind = 2 then s
      else
        match a.stages[i.stage]?, s.run? id with
        | some st, some r =>
          if r.ended then
            s.stageReading id (if st.kind = 5 then [a.workSpan 0xFF5] else []) (fun s =>
              let cands := if st.kind = 5 then s.rescored a st i else i.cands
              let upd (x : Invocation) : Invocation := { (x.absorb r).advance with cands := cands }
              (s.closeRun r).updInv id upd)
          else s
        | some _, none =>
          if (s.queriesOf id).all (·.finished) then (s.collectHits a i).updInv id Invocation.advance else s
        | none, _ => s

/-- Runs the next stage of an invocation when it is of a kind: the stage before has finished for the whole batch (R293). -/
def State.stageRow (s : State) (id : CmdId) (kind : Nat) (eff : State → Invocation → Accord → Stage → State) : State :=
  let s := s.endStage id
  match s.inv? id, s.outst? id with
  | some i, some o =>
    match s.accordOf? i.accord with
    | none => s
    | some a =>
      match a.stages[i.stage]? with
      | none => s
      | some st => if !i.busy && o.phase = .running && st.kind = kind then eff s i a st else s
  | _, _ => s

/-- The stage is done at once. -/
def State.stageDone (s : State) (id : CmdId) : State := s.updInv id Invocation.advance

def State.stageBusy (s : State) (id : CmdId) : State := s.updInv id (fun i => { i with busy := true })

/-! ### Stages that run a model (R194, R195, R286, R300) -/

/-- Opens the binding of a TRAIN stage: each stage binds for itself, since it commits on its own (R297). -/
def State.openTrain (s : State) (id : CmdId) (a : Accord) (i : Nat) (st : Stage) : Chk State :=
  if a.kind = 2 then State.bindStage ((s.openBinding id).bindWork id a) id a i st else .ok s

/-- Starts the run of an image for a stage. Its COLLECTIVE steps must suit their rings (R465), and no working tensor does, so nothing that a loader has read is
sent (R20). -/
def State.startStageRun (s : State) (i : Invocation) (a : Accord) (st : Stage) (g : Image) (hs rings : List Nat) : State :=
  match s.openTrain i.id a i.stage st with
  | .error f => (f.keep.getD s).failRun i.id f.status f.detail
  | .ok s =>
    if (s.runCores a.part).length < g.cores || (s.entry a.part).tpBytes < g.tpBytes then s.failRun i.id .resourceExhausted 0xFFFF
    else
      match g.collectives.findSome? (s.collFault g hs rings) with
      | some k => s.failRun i.id .tensorInvalid k
      | none => (s.startRun i.id a.part a.ctx g hs rings i.seed).stageBusy i.id

/-- A model-running stage. -/
def State.runModelStage (s : State) (i : Invocation) (a : Accord) (st : Stage) : State :=
  match s.stageModel a.part st with
  | none => s.failRun i.id .modelUnbound i.stage
  | some (_, g) => s.startStageRun i a st g (s.stageHandles a st) (s.accordRings a.part g.rings)

/-- EMBED. -/
def execEmbed (id : CmdId) (s : State) : Res := .next (s.stageRow id 2 (fun s i a st => s.runModelStage i a st))

/-- RERANK: the model writes one score per candidate to 0xFF5. -/
def execRerank (id : CmdId) (s : State) : Res := .next (s.stageRow id 5 (fun s i a st => s.runModelStage i a st))

/-- MODEL of a TRAIN accord. -/
def execModelStage (id : CmdId) (s : State) : Res := .next (s.stageRow id 0xB (fun s i a st => s.runModelStage i a st))

/-- OPTIMISER of a TRAIN accord. -/
def execOptimiser (id : CmdId) (s : State) : Res := .next (s.stageRow id 0xD (fun s i a st => s.runModelStage i a st))

/-- The image of a COLLECTIVE stage: one COLLECTIVE step on one core, from SRC to DST (R285); RUN_BOUND 0 means 200, which is 2 ms (R190). -/
def collectiveImage (src dst : Desc) (st : Stage) : Image :=
  let step : CollArgs := { cop := st.prm 0x1C 1, ring := st.prm 0x1D 1, src := 0, dst := 1, headroom := st.prm 0x1E 1 }
  { cores := 1, events := 0, tpBytes := 0, accRows := 0, lookahead := 0, atomicRun := true, hasCollective := true, runBound := (if st.prm 0x24 2 = 0 then 200 else st.prm 0x24 2), carry := 0
    rings := 4, tensors := [src, dst], slots := [(0, 0), (1, 1)], steps := [[{ kind := .collective step, sync := false }, { kind := .commit, sync := false }]]
    prefetch := [], commits := [(1, false)] }

/-- COLLECTIVE stage: its operands must suit the ring (R465). -/
def execCollectiveStage (id : CmdId) (s : State) : Res :=
  .next (s.stageRow id 0xC (fun s i a st =>
    let hs := [a.bindHandle (st.prm 0x20 2), a.bindHandle (st.prm 0x22 2)]
    let desc (k : Nat) : Desc := (((s.tensor? (hs.getD k 0)).map (·.desc)).getD {})
    let g := collectiveImage (desc 0) (desc 1) st
    let rings := s.accordRings a.part a.rings
    if rings.length ≤ st.prm 0x1D 1 then s.failRun id .notFound 0
    else if (desc 0).tier ≠ 1 then s.failRun id .tensorInvalid 0
    else if (desc 1).tier ≠ 1 then s.failRun id .tensorInvalid 1
    else
      match g.collectives.findSome? (s.collFault g hs rings) with
      | some k => s.failRun id .tensorInvalid k
      | none => s.startStageRun i a st g hs rings))

/-! ### Stages of RETRIEVE and INGEST -/

/-- TOKENS_IN (R285, R290, R291): pads pass like any item. -/
def execTokensIn (id : CmdId) (s : State) : Res :=
  .next (s.stageRow id 1 (fun s i a _ =>
    let s := i.items.zipIdx.foldl (fun s x =>
      (s.devWr a.part ((a.work 0xFF0).base + 4 * a.seq * x.2) (slice x.1 0x40 (4 * a.seq))).devWr a.part ((a.work 0xFF1).base + 4 * x.2) (slice x.1 0 4)) s
    s.stageDone id))

/-- The sketch of an item: its row of 0xFF3, 64 bytes with zeros beyond a 256-bit one (R254). -/
def State.itemSketch (s : State) (a : Accord) (j : Nat) : Bytes :=
  let d := a.work 0xFF3
  padTo 64 (s.devRd a.part (d.base + d.rowOff j) (min 64 (d.ext 0)))

/-- The embedding of an item as F32 values: its row of 0xFF2. -/
def State.itemVector (s : State) (id : CmdId) (a : Accord) (j : Nat) : List W32 := (s.rowNums a.part id (a.workView 0xFF2) false true j).map rneF32

/-- SEARCH (R245, R255, R285, R291): one query for each item that is no pad, with snapshot and epoch base taken now. -/
def execSearch (id : CmdId) (s : State) : Res :=
  .next (s.stageRow id 3 (fun s i a st =>
    match s.index? st.target with
    | none => s.failRun id .notFound 0
    | some x =>
      if x.lost then s.failRun id .dataPoisoned 0
      else if i.items.any (fun b => !isPad b && field b 0x10 8 &&& field b 8 8 ≠ field b 0x10 8) then s.failRun id .indexParamInvalid 0x08
      else
       s.stageReading id [a.workSpan 0xFF2, a.workSpan 0xFF3] (fun s =>
        let taken := i.snap.getD (st.target, s.lastSeq, x.epochBase)
        let mk (b : Bytes × Nat) : Query :=
          Query.new id b.2 st.target (qblockOf (slice b.1 8 40) (s.itemSketch a b.2) (s.itemVector id a b.2)) (st.prm 0x1C 2) (st.prm 0x1E 1) (st.prm 0x20 2)
            (st.prm 0x22 2) (st.prm 0x1F 1 == 1) taken.2.1 taken.2.2
        let s := s.updInv id (fun y => { y with snap := some taken })
        ({ s with queries := s.queries ++ ((i.items.zipIdx.filter (fun (b : Bytes × Nat) => !isPad b.1)).map mk) }).stageBusy id)))

/-- One filter term before NEGATE (R289); `row` is the 32-bit field of the record set, none beyond its rows. -/
def Term.holds (t : Term) (r : Bytes) (row : Option Nat) : Bool :=
  let x : Option Nat := match t.src with
    | 0 => some (recAttr0 r)
    | 1 => some (recAttr1 r)
    | 2 => some (field r 8 4)
    | 3 => some (field r 0xC 4)
    | _ => row
  match x with
  | none => false
  | some x =>
    match t.op with
    | 0 => x == t.a
    | 1 => x != t.a
    | 2 => decide (x < t.a)
    | 3 => decide (x ≤ t.a)
    | 4 => decide (t.a < x)
    | 5 => decide (t.a ≤ x)
    | 6 => decide (t.a ≤ x) && decide (x ≤ t.b)
    | 7 => x &&& t.a == t.a
    | 8 => x &&& t.a != 0
    | _ => x &&& t.a == 0

/-- Where a term's field of a node lies in its record set: none beyond the rows (R289). -/
def State.termAddr (s : State) (id : CmdId) (a : Accord) (t : Term) (node : Nat) : Option Nat :=
  match s.boundView id (a.bindHandle t.set) with
  | none => none
  | some v => if node < v.desc.rows then some (s.pageBase id v 0 ((v.desc.rowOff node + t.offset) / 16384) + v.desc.rowOff node + t.offset) else none

/-- Whether a candidate passes every term (R289). -/
def State.passes (s : State) (id : CmdId) (a : Accord) (h : Hit) : Bool :=
  a.terms.all (fun t =>
    let row := if t.src = 4 then (s.termAddr id a t h.node).map (fun x => ofLe (s.devRd a.part x 4)) else none
    t.holds h.record row != t.negate)

/-- FILTER (R289): a poisoned row field fails the invocation (R222). -/
def execFilter (id : CmdId) (s : State) : Res :=
  .next (s.stageRow id 4 (fun s i a _ =>
    let spans := i.cands.flatMap (fun hs => hs.flatMap (fun h => a.terms.filterMap (fun t => if t.src = 4 then s.termAddr id a t h.node else none)))
    s.stageReading id (spans.map (fun x => (x, 4))) (fun s => (s.updInv id (fun y => { y with cands := y.cands.map (fun hs => hs.filter (s.passes id a)) })).stageDone id)))

/-- The snippet of a candidate: LENGTH, 12 reserved bytes, the text (R296, R306). -/
def State.snippetOf (s : State) (a : Accord) (n : Nat) (h : Hit) : Chk Bytes :=
  let c := recChunk h.record
  let own := decide (c.1 < 64) && s.nsOwner c.1 == some a.part
  match (if own then s.obj? c.1 c.2 else none) with
  | none => .ok (zeros (16 + n))
  | some ob => do
    let bs ← s.readNsBytes c.1 (4096 * ob.first) (min n ob.length)
    .ok (leBytes 4 bs.length ++ zeros 12 ++ padTo n bs)

/-- The snippets of one item's candidates. -/
def State.snippetsOf (s : State) (a : Accord) (n : Nat) : List Hit → Chk (List Bytes)
  | [] => .ok []
  | h :: hs => do
    let b ← s.snippetOf a n h
    let bs ← s.snippetsOf a n hs
    .ok (b :: bs)

/-- The snippets of every item. -/
def State.snippetsAll (s : State) (a : Accord) (n : Nat) : List (List Hit) → Chk (List (List Bytes))
  | [] => .ok []
  | l :: ls => do
    let b ← s.snippetsOf a n l
    let bs ← s.snippetsAll a n ls
    .ok (b :: bs)

/-- The page reads that the snippets of some candidates take (R344). -/
def State.noteSnippets (s : State) (a : Accord) (n : Nat) (hs : List Hit) : State :=
  hs.foldl (fun s h =>
    let c := recChunk h.record
    match (if decide (c.1 < 64) && s.nsOwner c.1 == some a.part then s.obj? c.1 c.2 else none) with
    | none => s
    | some ob => s.noteBytes c.1 (4096 * ob.first) (min n ob.length)) s

/-- GATHER (R306): a snippet that cannot be read fails the invocation (R222, R305). -/
def execGather (id : CmdId) (s : State) : Res :=
  .next (s.stageRow id 6 (fun s i a st =>
    match s.snippetsAll a (st.prm 0x1C 2) i.cands with
    | .error f => (f.keep.getD s).failRun id f.status f.detail
    | .ok l => ((s.noteSnippets a (st.prm 0x1C 2) i.cands.flatten).updInv id (fun y => { y with snippets := l })).stageDone id))

/-- The output entry of a RETRIEVE item (R260, R296). -/
def Accord.retrieveEntry (a : Accord) (hs : List Hit) (head : Nat × Nat × Nat) (snips : List Bytes) : Bytes :=
  resultBytes a.kFinal head.1 head.2.1 head.2.2 hs ++
    (match a.snipLen with
     | none => []
     | some n => snips.take a.kFinal |>.flatten |> padTo (a.kFinal * (16 + n)))

/-- The output entry of an INGEST item (R296). -/
def ingestEntry (b : Bytes) (st : Status) : Bytes :=
  leBytes 8 (if isPad b then 2 ^ 64 - 1 else itemNode b) ++ leBytes 2 st.code ++ zeros 6

/-- The output of an invocation (R296). -/
def Invocation.outBytes (i : Invocation) (a : Accord) : Bytes :=
  match a.kind with
  | 0 => (List.range a.batch).flatMap (fun j => a.retrieveEntry (i.cands.getD j []) (i.heads.getD j (0, 0, 0)) (i.snippets.getD j []))
  | 1 => (List.range a.batch).flatMap (fun j => ingestEntry (i.items.getD j []) (i.itemStatus.getD j .ok))
  | _ => leBytes 4 0xFFFFFFFF ++ zeros 4

/-- OUT (R291, R296): the answers are ready; they reach the host when the invocation has committed (R293). -/
def execOut (id : CmdId) (s : State) : Res :=
  .next (s.stageRow id 7 (fun s i a _ => (s.updInv id (fun y => { y with output := i.outBytes a })).stageDone id))

/-- STORE (R285, R291, R354): it waits while the write buffer has no room. -/
def execStore (id : CmdId) (s : State) : Res :=
  .next (s.stageRow id 8 (fun s i a st =>
    match s.ns? st.target with
    | none => s.failRun id .notFound 0
    | some n =>
      if s.flash.readOnly then s.failRun id .mediaReadOnly 0
      else
        match State.storeItems id n ((i.items.filter (fun b => !isPad b)).map a.textItem) s with
        | .error f => (f.keep.getD s).failRun id f.status f.detail
        | .ok (t, l) =>
          if (List.range 8).all (fun d => t.slotRoom d 0) then (t.updInv id (fun y => { y with texts := l })).stageDone id else s))

/-- An item's embedding in an index's vector format, with what the conversion counts (R65, R68). -/
def State.itemCodes (s : State) (id : CmdId) (a : Accord) (p : IdxParams) (j : Nat) : Bytes × Ev :=
  match fmtOf p.vformat with
  | some (.flt f) =>
    let l := (s.itemVector id a j).map (fun w => f.encode rndRne (decF32 w) 0)
    (l.flatMap (fun x => leBytes p.elemBytes x.1), l.foldl (fun e x => e.add x.2) {})
  | _ => ([], {})

/-- The record that INSERT writes for an item (R247, R285): sketch and vector from EMBED, CHUNK_REF naming the stored object. -/
def State.itemRecord (s : State) (id : CmdId) (a : Accord) (p : IdxParams) (chunkNs j : Nat) (b : Bytes) : Bytes :=
  let codes := (s.itemCodes id a p j).1
  leBytes 5 (itemNode b) ++ leBytes 1 p.vformat ++ zeros 2 ++ slice b 0x10 16 ++ zeros 16 ++ leBytes 2 p.dim ++ zeros 6 ++ zeros 320
    ++ leBytes 1 chunkNs ++ leBytes 6 (itemObject b) ++ zeros 9 ++ s.itemSketch a j ++ zeros 64 |> fun h => padTo 4096 (h ++ codes)

/-- Binds the inserts of the items one by one (R266). -/
def State.insertItems (id : CmdId) (a : Accord) (ns chunkNs : Nat) : List (Bytes × Nat) → State → Chk State
  | [], s => .ok s
  | (b, j) :: rest, s =>
    match s.index? ns with
    | none => failWith .notFound 0
    | some x => do
      let r := s.itemRecord id a x.params chunkNs j b
      let slot ← s.insertChecks x r
      State.insertItems id a ns chunkNs rest ((s.bindInsert id ns slot r).updInv id (fun i => i.count (s.itemCodes id a x.params j).2))

/-- INSERT (R266, R278, R285, R291): bound here; the invocation's commit point publishes the items or refuses them (R295). -/
def execInsert (id : CmdId) (s : State) : Res :=
  .next (s.stageRow id 9 (fun s i a st =>
   if (s.index? st.target).isNone then s.failRun id .notFound 0
   else
    s.stageReading id [a.workSpan 0xFF2, a.workSpan 0xFF3] (fun s =>
    let chunk := prmTarget a.stages 8
    match State.insertItems id a st.target chunk (i.items.zipIdx.filter (fun b => !isPad b.1)) s with
    | .error f => (if f.status = .driftlineFull then s.forceMerge else f.keep.getD s).failRun id f.status f.detail
    | .ok t => if (List.range 8).all (fun d => t.slotRoom d 0) then t.stageDone id else s)))

/-! ### Stages of TRAIN -/

/-- One row of the loader (R307): its tokens and its length. -/
def State.loadRow (s : State) (a : Accord) (ns j : Nat) (b : Bytes) : Chk State := do
  let n := field b 0xC 4
  let off := field b 8 4
  let bs ← (if n = 0 then .ok [] else
    match s.obj? ns (field b 0 6) with
    | none => failWith .notFound 0
    | some o => if o.length < off + 4 * n then failWith .notFound 0 else s.readNsBytes ns (4096 * o.first + off) (4 * n) : Chk Bytes)
  let row := bs ++ (List.replicate (a.seq - n) (leBytes 4 a.padToken)).flatten
  let s := match s.obj? ns (field b 0 6) with
    | some o => if n = 0 then s else s.noteBytes ns (4096 * o.first + off) (4 * n)
    | none => s
  .ok ((s.devWr a.part ((a.work 0xFF0).base + 4 * a.seq * j) row).devWr a.part ((a.work 0xFF1).base + 4 * j) (leBytes 4 n))

def State.loadRows (a : Accord) (ns : Nat) : List (Bytes × Nat) → State → Chk State
  | [], s => .ok s
  | (b, j) :: rest, s => do
    let s ← s.loadRow a ns j b
    State.loadRows a ns rest s

/-- LOADER (R307). -/
def execLoader (id : CmdId) (s : State) : Res :=
  .next (s.stageRow id 0xA (fun s i a st =>
    match State.loadRows a st.target i.items.zipIdx s with
    | .error f => (f.keep.getD s).failRun id f.status f.detail
    | .ok t => t.stageDone id))

/-! ### Commit of an invocation (R293, R295, R297) -/

/-- Takes one item's text back: its slots, and the object that it would make (R295). -/
def State.dropText (s : State) (id : CmdId) (x : StoredText) : State :=
  let s := ((s.pendSlots id).filter (fun w => decide (x.sids.1 ≤ w.sid) && decide (w.sid < x.sids.2))).foldl (fun s w => s.dropSlot id w.sid) s
  match x.made with
  | none => s
  | some o => { s with flash := { s.flash with pend := ainsert id ((s.pendOf id).erase (.objNew o)) s.flash.pend } }

/-- Texts whose object a later one of the batch makes anew. -/
def overtaken : List StoredText → List StoredText
  | [] => []
  | x :: xs => (if xs.any (fun y => match x.made, y.made with
    | some a, some b => a.ns == b.ns && a.obj == b.obj
    | _, _ => false) then [x] else []) ++ overtaken xs

/-- Gives an older object of a stored item's name up: its extent is trimmed in the same commit. -/
def State.replaceObj (s : State) (id : CmdId) (o : Obj) : State :=
  match s.obj? o.ns o.obj with
  | none => s
  | some old =>
    let s := if old.blocks = 0 then s else s.trimRun id old.ns old.first old.blocks
    { s with flash := { s.flash with objs := s.flash.objs.filter (fun x => x ≠ old) } }

/-- Puts what a command has added to its changes since `n` of them before the rest: a trim of an old extent comes before the text that takes its place. -/
def State.pendFirst (s : State) (id : CmdId) (n : Nat) : State :=
  let l := s.pendOf id
  if l.length = n then s else { s with flash := { s.flash with pend := ainsert id (l.drop n ++ l.take n) s.flash.pend } }

/-- Puts the object-table blocks of new objects among a command's changes (R322). -/
def State.writeTables (s : State) (id : CmdId) (os : List Obj) : State :=
  ((os.map (fun o => (o.ns, o.obj / 256))).eraseDups).foldl (fun s t => s.writeBlocks id t.1 t.2 1 (tableBlock t.1 t.2 (s.flash.objs ++ os))) s

/-- The commit point of an INGEST or RETRIEVE invocation: the items that R267 refuses are neither inserted nor stored (R295). Answers the
indices of the refused entries among the command's entries. -/
def State.invCommitPoint (s : State) (id : CmdId) (texts : List StoredText) : State × List Nat :=
  let b := s.bindingOf id
  let entries := s.openEntries id
  let (s, seq) := (s.noteRecovered id).takeSeq
  let (s, bad) := State.commitEntries id seq entries s
  let refused := (List.range entries.length).filter (fun k => bad.any (fun e => entries[k]? = some e))
  let kept := (texts.zipIdx.filter (fun x => x.2 ∉ refused)).map (·.1)
  let s := ((texts.zipIdx.filter (fun x => x.2 ∈ refused)).map (·.1) ++ overtaken kept).foldl (fun s x => s.dropText id x) s
  let new := (s.pendOf id).filterMap (fun p => match p with
    | .objNew o => some o
    | _ => none)
  let s := ((new.foldl (fun s o => s.replaceObj id o) s).pendFirst id (s.pendOf id).length).writeTables id new
  ((s.switchShadows b seq).publishPend id seq, refused)

/-- The commit of an INGEST or RETRIEVE invocation. -/
def State.commitInvocation (s : State) (i : Invocation) (a : Accord) : State :=
  let s := s.readDirectory i.id
  if s.directoryBad i.id then s.failRun i.id .dataPoisoned 0
  else
  match s.prepareCommit i.id with
  | .error f => (f.keep.getD s).failRun i.id f.status f.detail
  | .ok (s, false) => s
  | .ok (s, true) =>
    let live := (i.items.zipIdx.filter (fun b => !isPad b.1))
    let (s, refused) := s.invCommitPoint i.id i.texts
    let bad := refused.filterMap (fun k => (live[k]?).map (·.2))
    let i := { i with itemStatus := i.itemStatus.zipIdx.map (fun (x : Status × Nat) => if bad.contains x.2 then .idInUse else x.1) }
    let out := if a.kind = 1 then i.outBytes a else i.output
    let s := s.applyEvents i.id a.part a.ctx i.flags i.saturations i.nanConv i.rescales
    let (st, d) := if bad.isEmpty then emptyStatus i.emptySteps else (.okItemsRejected, bad.length)
    ({ (s.postResult i.id st d out) with invocations := s.invocations.filter (fun x => x.id ≠ i.id) }).settleWaits

/-- The end of a TRAIN invocation (R530). -/
def State.endTrain (s : State) (i : Invocation) (a : Accord) : State :=
  let (st, d) := emptyStatus i.emptySteps
  { (s.postResult i.id st d (i.outBytes a)) with invocations := s.invocations.filter (fun x => x.id ≠ i.id) }

/-- The commit of a TRAIN stage (R297): the run's work is published; after the last stage the invocation completes. -/
def State.commitStage (s : State) (i : Invocation) (a : Accord) (r : Run) : State :=
  if !r.ended then s
  else
    match s.prepareCommit i.id with
    | .error f => (f.keep.getD s).failRun i.id f.status f.detail
    | .ok (s, false) => s
    | .ok (s, true) =>
      let s := (s.commitPoint i.id).1
      let s := (((s.closeRun r).applyEvents i.id r.part r.ctx r.flags r.saturations r.nanConv r.rescales).syncAfter r).dropShadows i.id
      let upd (x : Invocation) : Invocation := { x.advance with emptySteps := x.emptySteps + r.emptySteps }
      let s := s.updInv i.id upd
      match s.inv? i.id with
      | some i => if i.stage = a.stages.length then (s.endTrain i a).settleWaits else s.settleWaits
      | none => s

/-- COMMAND_COMMIT on an invocation. -/
def State.commitAccord (s : State) (id : CmdId) : State :=
  let s := s.endStage id
  match s.inv? id with
  | none => s
  | some i =>
    match s.accordOf? i.accord with
    | none => s
    | some a =>
      if a.kind = 2 then
        match s.run? id with
        | some r => if i.busy then s.commitStage i a r else s
        | none => s
      else if !i.busy && i.stage = a.stages.length then s.commitInvocation i a
      else s

/-- COMMAND_COMMIT (R206 to R208): the command enters its commit when all its work has completed, and waits while R181 makes room. -/
def execCommandCommit (id : CmdId) (s : State) : Res :=
  .next (
    match s.outst? id with
    | none => s
    | some o =>
      if o.phase = .running && commits o.cmd then
        match o.cmd, s.run? id with
        | .progRun .., some r => s.commitRun r
        | .progRun .., none => s
        | .idxInsert .., _ => s.commitIndexOp id
        | .idxDelete .., _ => s.commitIndexOp id
        | .accordRun .., _ => s.commitAccord id
        | _, _ => s.commitPlain id
      else s)

end Sys2Proof.Machine
end

