-- ==== Sys2Proof/Machine/ConfigFlash.lean ====
section
/-!
DEFINITION. The configuration flash (chapter *Configuration flash*): group 0x9, the BAR2 window, the end of an array operation, and the
protection levels.
-/
namespace Sys2Proof.Machine

open Sys2Proof

/-- Bytes of the array (R541). -/
def cflSize : Nat := 0x10000000

/-- First byte of the customer region (R542). -/
def cflCustomer : Nat := 0x08000000

/-- Bank of a byte: 256 sectors of 64 KiB (R541). -/
def cflBank (addr : Nat) : Nat := addr / 0x1000000

/-! ### What the array reads as -/

/-- Whether a byte lies in a page or sector that an interruption has left undefined (R562), or in the sector of a suspended erase (R559). -/
def CflSt.undefinedByte (c : CflSt) (a : Nat) : Bool :=
  c.undefinedAt.any (fun r => decide (r.1 ≤ a) && decide (a < r.1 + r.2)) ||
    match c.op with
    | some o => o.suspended && decide (o.addr ≤ a) && decide (a < o.addr + 0x10000)
    | none => false

/-- Whether an array operation runs in a bank and is not suspended (R548, R549). -/
def CflSt.bankBusy (c : CflSt) (bank : Nat) : Bool :=
  match c.op with
  | some o => !o.suspended && cflBank o.addr == bank
  | none => false

/-- A byte of a region that holds a ROMX image (R542): a factory image is the package's own. -/
def State.romxByte (s : State) (copy : Option Romx) (a : Nat) : Byte :=
  match copy with
  | some r => if r.digest.isEmpty then Config.factoryImage.getD (a % 0x1000000) 0xFF else s.cfl.arr.read 0xFF a
  | none => s.cfl.arr.read 0xFF a

/-- A byte of a sector that holds a copy of the record (R542). -/
def recByte (r : Option Rec) (a : Nat) : Byte := ((r.map Rec.bytes).getD []).getD (a % 0x10000) 0xFF

/-- Byte `i` of a copy of the key region (R583): the entry of each namespace, erased where it has no key. The wrapped keys, and the CRC over them,
are never returned: free values stand for them, and for an entry that is damaged (R583, R584). -/
def State.keyByte (s : State) (k a i : Nat) : Byte :=
  let n := i / 128
  let j := i % 128
  match s.flash.ns.find? (fun x => x.nsid = n && x.encrypt) with
  | some x =>
    if x.keyLost then (if s.cfl.lowering.isSome then 0xFF else Config.freeByte k a)
    else if j = 0 then 1
    else if 8 ≤ j && j < 16 then (leBytes 8 (s.sec.keyGens.getD n 0)).getD (j - 8) 0
    else if (0x10 ≤ j && j < 0x58) || 0x7C ≤ j then Config.freeByte k a
    else 0
  | none => 0xFF

/-- A byte of the array (R541, R542). What stands in the protection, remap and health regions is the device's own layout, which the
manual does not give: free values, `k` telling this read from others. -/
def State.cflByte (s : State) (k a : Nat) : Byte :=
  let sector := a / 0x10000
  if s.cfl.undefinedByte a then Config.freeByte k a
  else if sector < 256 then s.romxByte s.sec.romxA a
  else if sector < 512 then s.romxByte s.sec.romxB a
  else if sector = 512 then recByte s.cfg.recA a
  else if sector = 513 then recByte s.cfg.recB a
  else if 516 ≤ sector && sector < 532 then s.keyByte k a ((a - 0x02040000) % 0x80000)
  else if sector < 1044 then Config.freeByte k a
  else if sector < 2048 then 0xFF
  else s.cfl.arr.read 0xFF a

/-- LOWERING: 0 when clear, else a byte that names the target level (R545, R566). The manual does not give the two bytes: free values, neither of them 0,
and one for each level (log entry 52). -/
def loweringByte : Option Nat → Byte
  | none => 0
  | some 0 => if Config.loweringCode 0 = 0 then 0xFF else Config.loweringCode 0
  | some _ =>
    let other : Byte := if Config.loweringCode 0 = 0 then 0xFF else Config.loweringCode 0
    if Config.loweringCode 1 = 0 || Config.loweringCode 1 = other then (if other = 1 then 2 else 1) else Config.loweringCode 1

/-- The 16 bytes of the protection state (R545). -/
def State.protBytes (s : State) : Bytes :=
  leBytes 1 s.cfl.protLevel ++ [loweringByte s.cfl.lowering] ++ zeros 6 ++ leBytes 8 s.cfl.protCounter

/-! ### Reading -/

/-- CFL_READ (R545, R549, R559, R563). -/
def execCflRead (id : CmdId) (addr length : Nat) (s : State) : Res :=
  .next (s.startCmd id (.cflRead id addr length) (fun s o => do
    inRange (decide (addr < cflSize)) 0x08
    inRange (decide (1 ≤ length) && decide (length ≤ 0x100000) && decide (addr + length ≤ cflSize)) 0x0C
    needRbuf o length
    need (s.cfl.protLevel == 0 || decide (addr + length ≤ cflCustomer)) .protectionDenied s.cfl.protLevel
    if addr = 0x02020000 && length = 16 then okResult s s.protBytes
    else if (List.range 2).any (fun i => s.cfl.bankBusy (cflBank addr + i) && decide (cflBank addr + i ≤ cflBank (addr + length - 1))) then .ok (s, .waits)
    else okResult { s with freeCount := s.freeCount + 1 } ((List.range length).map (fun i => s.cflByte s.freeCount (addr + i)))))

/-- A byte of the BAR2 window (R547, R548, R563). -/
def State.windowByte (s : State) (k a : Nat) : Byte :=
  if 1 ≤ s.cfl.protLevel || s.cfl.bankBusy (cflBank a) then 0xFF
  else if s.host.cflWait < minWait s.power.opp then Config.shortWaitByte k a
  else s.cflByte k a

/-- BAR2_WINDOW_READ (R480, R546): 1 to 512 bytes that do not cross a 4 KiB boundary. -/
def execBar2WindowRead (port addr length : Nat) (s : State) : Res :=
  .next (
    if !(s.power.powered && s.fnAlive (.pf port)) || Fn.pf port ∈ s.host.fnD3 || length = 0 || 512 < length || cflSize < addr + length
        || 4096 < addr % 4096 + length then s
    else { s with freeCount := s.freeCount + 1
                  out := s.out ++ [.windowData port ((List.range length).map (fun i => s.windowByte s.freeCount (addr + i)))] })

/-! ### Programming and erasing -/

/-- The checks that CFL_PROGRAM and CFL_ERASE share (R543, R554, R563). -/
def State.cflMayWrite (s : State) (addr : Nat) : Chk Unit := do
  need (decide (cflCustomer ≤ addr) && s.cfl.protLevel != 2) .protectionDenied s.cfl.protLevel
  need s.cfl.op.isNone .resourceBusy 0

/-- CFL_PROGRAM (R555): the array changes when the operation ends. -/
def execCflProgram (id : CmdId) (addr : Nat) (s : State) : Res :=
  .next (s.startCmd id (.cflProgram id addr) (fun s o => do
    noHold o
    inRange (decide (addr < cflSize)) 0x08
    inRange (decide (1 ≤ o.ibufLen) && decide (addr % 256 + o.ibufLen ≤ 256)) 0x28
    s.cflMayWrite addr
    let (s, bs) ← s.takeIbuf o o.ibufLen
    .ok ({ s with cfl := { s.cfl with op := some { id := some id, isErase := false, addr := addr, data := bs, suspended := false } } }, .runs 0)))

/-- CFL_ERASE (R555, R562): the erase that a sector left undefined needs starts here. -/
def execCflErase (id : CmdId) (sector : Nat) (s : State) : Res :=
  .next (s.startCmd id (.cflErase id sector) (fun s o => do
    noHold o
    inRange (decide (sector < 4096)) 0x08
    s.cflMayWrite (sector * 0x10000)
    .ok ({ s with cfl := { s.cfl with
      op := some { id := some id, isErase := true, addr := sector * 0x10000, data := [], suspended := false }
      undefinedAt := s.cfl.undefinedAt.filter (fun r => r.1 / 0x10000 ≠ sector) } }, .runs 0)))

/-- A host erase that runs, or with `held` one that is suspended (R558). -/
def CflSt.eraseIs (c : CflSt) (held : Bool) : Bool :=
  match c.op with
  | some o => o.isErase && o.suspended == held
  | none => false

def CflSt.setSuspended (c : CflSt) (v : Bool) : CflSt :=
  { c with op := match c.op with
      | some o => some { o with suspended := v }
      | none => none }

/-- CFL_SUSPEND (R558). -/
def execCflSuspend (id : CmdId) (s : State) : Res :=
  .next (s.startCmd id (.cflSuspend id) (fun s o => do
    noHold o
    need (s.cfl.eraseIs false) .notFound 0
    okDone { s with cfl := s.cfl.setSuspended true }))

/-- CFL_RESUME (R558). -/
def execCflResume (id : CmdId) (s : State) : Res :=
  .next (s.startCmd id (.cflResume id) (fun s o => do
    noHold o
    need (s.cfl.eraseIs true) .notFound 0
    okDone { s with cfl := s.cfl.setSuspended false }))

/-- What an array operation that has run its course leaves (R541, R557): a program the AND of old and new bytes, an erase ones. One that a
port reset has interrupted leaves its page or sector undefined (R562). -/
def CflSt.apply (c : CflSt) (o : CflOp) : CflSt :=
  if o.range ∈ c.undefinedAt then { c with op := none }
  else if o.isErase then { c with op := none, arr := c.arr.clear o.addr 0x10000 }
  else { c with op := none, arr := c.arr.writeN 0xFF o.addr (List.zipWith (· &&& ·) (c.arr.readN 0xFF o.addr o.data.length) o.data) }

/-- CFL_OPERATION_DONE (R556, R561): the command, if it still waits, completes with OK. A suspended erase does not end. -/
def execCflOperationDone (s : State) : Res :=
  .next (match s.cfl.op with
    | none => s
    | some o =>
      if o.suspended then s
      else
        let s := { s with cfl := s.cfl.apply o }
        match o.id with
        | some id => s.completeId id .ok 0 []
        | none => s)

/-! ### Protection levels (R563 to R567) -/

/-- The release that lowering from level 2 needs (R565): its fields, and its signature under the vendor key. -/
def State.checkRelease (s : State) (level : Nat) (b : Bytes) : Chk Unit := do
  need (field b 0 4 == 0x52504B4E && field b 4 2 == 1 && field b 6 1 == level && zeroAt b 7 1 && field b 8 8 == s.sec.serial
    && field b 0x10 8 == s.cfl.protCounter && zeroAt b 0x18 8) .protectionDenied s.cfl.protLevel
  need (Config.slhVerify Config.vendorKey (slice b 0 0x20) (slice b 0x20 16224)) .signatureInvalid 0

/-- Raises the level at once (R564). -/
def State.raiseLevel (s : State) (level : Nat) : State :=
  { s with cfl := { s.cfl with protLevel := level, protCounter := s.cfl.protCounter + 1 } }

/-- Whether a command that names an encrypted namespace is running (R566). -/
def State.encryptedRunning (s : State) : Bool := s.host.outst.any (fun o => o.phase = .running && s.namesEncrypted o.cmd)

/-- The end of a lowering: its command completes and the held commands may start (R566, step 6). -/
def State.endLowering (s : State) (id : CmdId) : State :=
  { s with cfl := { s.cfl with lowerCmd := none } }.completeId id .ok 0 []

/-- One stage of a lowering (R566): steps 2 and 3 once no command on an encrypted namespace runs, then steps 4 to 6. Before STORAGE_READY
replay does steps 4 and 5 (R567). -/
def State.lowerStage (s : State) (id : CmdId) (level : Nat) : State :=
  match s.cfl.lowering with
  | some _ => if s.power.storageReady then (((s.eraseSecrets.finishLowering).settleFlush).settleCeiling).endLowering id else s
  | none =>
    if s.cfl.protLevel ≤ level then s.endLowering id
    else if s.encryptedRunning then s
    else { s with cfl := { s.cfl with lowering := some level } }.eraseSecrets

/-- CFL_PROTECT (R563 to R567): one row for each stage of a lowering. -/
def execCflProtect (id : CmdId) (level : Nat) (s : State) : Res :=
  .next (
    if s.cfl.lowerCmd = some id && (s.startable id (.cflProtect id level)).isNone then s.lowerStage id level
    else s.startConfig id (.cflProtect id level) (fun s o => do
      noHold o
      inRange (decide (level ≤ 2)) 0x08
      if s.cfl.protLevel = level then okDone s
      else if s.cfl.protLevel < level then okDone (s.raiseLevel level)
      else do
        let s ← if s.cfl.protLevel = 2 then do
            need (o.ibufLen != 0) .protectionDenied s.cfl.protLevel
            needIbuf o 16256
            let (t, b) ← s.takeIbuf o 16256
            s.checkRelease level b
            Except.ok t
          else Except.ok s
        .ok ({ s with cfl := { s.cfl with lowerCmd := some id } }, .runs 0)))

end Sys2Proof.Machine
end

