-- ==== Sys2Proof/Machine/Functions.lean ====
section
/-!
DEFINITION. The table-assisted functions (R115, R116): what they approximate, worked out far below the last place of F64, and their results:
any value within the bound of the *Function accuracy* table.
-/
namespace Sys2Proof.Machine

open Sys2Proof

/-! ### Fixed-point numbers: an Int stands for its 2^300th part -/

/-- One in fixed point. -/
def fxOne : Int := 2 ^ 300

/-- The fixed-point number just below m × 2^e. -/
def fxOf (v : Int) (e : Int) : Int := if 0 ≤ e + 300 then v * 2 ^ (e + 300).toNat else v / 2 ^ (-(e + 300)).toNat

def fxMul (a b : Int) : Int := a * b / fxOne

def fxDiv (a b : Int) : Int := a * fxOne / b

def fxNum (a e : Int) : Num := .fin (decide (a < 0)) a.natAbs (e - 300)

/-- The sum of `n` terms: the first is `t`, and term k + 1 is `next k` of term k. -/
def seriesFrom (next : Nat → Int → Int) : Nat → Nat → Int → Int → Int
  | 0, _, _, acc => acc
  | n + 1, k, t, acc => seriesFrom next n (k + 1) (next k t) (acc + t)

/-- Twice the inverse hyperbolic tangent of z, for |z| ≤ 1/3. -/
def fxAtanh2 (z : Int) : Int :=
  let z2 := fxMul z z
  2 * ((List.range 110).foldl (fun (x : Int × Int) (k : Nat) => (x.1 + x.2 / (2 * k + 1), fxMul x.2 z2)) (0, z)).1

/-- ln 2. -/
def fxLn2 : Int := fxAtanh2 (fxOne / 3)

/-- The inverse tangent of 1/q. -/
def fxAtanInv (q : Int) : Int :=
  ((List.range 140).foldl (fun (x : Int × Int) (k : Nat) => (x.1 + (if k % 2 = 0 then x.2 else -x.2) / (2 * k + 1), x.2 / (q * q))) (0, fxOne / q)).1

/-- π. -/
def fxPi : Int := 16 * fxAtanInv 5 - 4 * fxAtanInv 239

/-- e^a × 2^-k and k, for a fixed-point a. -/
def fxExp (a : Int) : Int × Int :=
  let k := (2 * a + fxLn2) / (2 * fxLn2)
  let r := a - k * fxLn2
  (seriesFrom (fun i t => fxMul t r / ((i : Int) + 1)) 70 0 fxOne 0, k)

/-- e^a in fixed point, for a ≤ 0. -/
def fxExpNeg (a : Int) : Int :=
  let x := fxExp a
  if x.2 < -400 then 0 else if x.2 ≤ 0 then x.1 / 2 ^ (-x.2).toNat else x.1 * 2 ^ x.2.toNat

/-- Sine and cosine of r, for |r| ≤ 1. -/
def fxSinCos (r : Int) : Int × Int :=
  let r2 := fxMul r r
  (seriesFrom (fun i t => -(fxMul t r2) / ((2 * (i : Int) + 2) * (2 * i + 3))) 40 0 r 0,
   seriesFrom (fun i t => -(fxMul t r2) / ((2 * (i : Int) + 1) * (2 * i + 2))) 40 0 fxOne 0)

/-! ### The functions of a finite argument m × 2^e -/

/-- EXP. -/
def expOfFin (v e : Int) (big : Bool) : Num :=
  if big then .fin false 1 (if v < 0 then -5000 else 5000)
  else
    let x := fxExp (fxOf v e)
    fxNum x.1 x.2

/-- LOG of m × 2^e. -/
def logOfFin (m : Nat) (e : Int) : Num :=
  let b := Nat.log2 m
  let y := fxOf m (-b)
  let (y, b) := if fxOne + fxOne / 2 < y then (y / 2, b + 1) else (y, b)
  fxNum (fxAtanh2 (fxDiv (y - fxOne) (y + fxOne)) + ((b : Int) + e) * fxLn2) 0

/-- 1/(1 + e^-a) in fixed point. -/
def fxSigmoid (a : Int) : Int :=
  let t := fxExpNeg (-(a.natAbs : Int))
  if 0 ≤ a then fxDiv fxOne (fxOne + t) else fxDiv t (fxOne + t)

/-- Φ(a), the normal distribution function, in fixed point, for |a| ≤ 10. -/
def fxPhi (a : Int) : Int :=
  let a2 := fxMul a a
  let sum := ((List.range 300).foldl (fun (x : Int × Int) (n : Nat) => (x.1 + x.2 / (2 * n + 1), -(fxMul x.2 a2) / (2 * ((n : Int) + 1)))) (0, a)).1
  let root : Int := isqrt ((2 * fxPi * fxOne).toNat)
  fxOne / 2 + fxDiv sum root

/-- The value that a function of R115 approximates, of a finite argument within its domain. -/
def trueValue (vop : Nat) (neg : Bool) (m : Nat) (e : Int) : Num :=
  let v : Int := if neg then -(m : Int) else m
  let top := (Nat.log2 m : Int) + e
  let big := decide (11 < top) && m != 0
  let tiny := m = 0 || decide (top < -100)
  let x := fxOf v e
  match vop with
  | 0x10 => expOfFin v e big
  | 0x11 => logOfFin m e
  | 0x12 =>
    if tiny then .fin neg m e
    else
      let t := fxExpNeg (-2 * (if big then 4096 * fxOne else (x.natAbs : Int)))
      let y := fxDiv (fxOne - t) (fxOne + t)
      fxNum (if neg then -y else y) 0
  | 0x13 => fxNum (fxSigmoid (if big then (if neg then -4096 * fxOne else 4096 * fxOne) else x)) 0
  | 0x14 =>
    if m = 0 || (decide (10 * fxOne < x) || big) && !neg then .fin neg m e
    else if big || decide (x < -10 * fxOne) then .fin true 0 0
    else (Num.fin neg m e).mul (fxNum (fxPhi x) 0)
  | 0x15 =>
    if m = 0 then .fin neg 0 0
    else if big then (if neg then .fin true 0 0 else .fin neg m e)
    else (Num.fin neg m e).mul (fxNum (fxSigmoid x) 0)
  | 0x16 =>
    let (m, e) := if e % 2 = 0 then (m, e) else (2 * m, e - 1)
    let q := 160 + Nat.log2 m
    .fin false (isqrt (2 ^ (2 * q) / m)) (-q - e / 2)
  | _ =>
    let sine : Bool := vop == 0x17
    if tiny then (if sine then .fin neg m e else .fin false 1 0)
    else
      let half := fxPi / 2
      let k := (2 * x + half) / (2 * half)
      let sc := fxSinCos (x - k * half)
      let y :=
        match (k + (if sine then 0 else 1)) % 4 with
        | 0 => sc.1
        | 1 => sc.2
        | 2 => -sc.1
        | _ => -sc.2
      fxNum y 0

/-! ### Bounds (R115) -/

/-- The bound in units of the last place. -/
def boundUlps (vop : Nat) : Nat :=
  match vop with
  | 0x14 => 4
  | 0x15 => 3
  | 0x16 => 1
  | _ => 2

/-- The absolute bound where it is larger, as the exponent of 2. -/
def boundAbs (f64 : Bool) (vop : Nat) : Option Int :=
  match vop with
  | 0x12 => some (if f64 then -53 else -24)
  | 0x13 => some (if f64 then -53 else -24)
  | 0x14 => some (-20)
  | 0x15 => some (-22)
  | _ => none

/-- The exponent of a unit in the last place at a value. -/
def Flt.ulpAt (w : Flt) (v : Num) : Int :=
  match v with
  | .fin _ m e => max ((Nat.log2 m : Int) + e) (1 - w.bias) - w.mbits
  | _ => 0

/-- The value of a format nearest to a value (RNE, with subnormals). -/
def Flt.nearest (w : Flt) (v : Num) : Num := w.decode true (w.encode { mode := 0, ieeeOvf := true, conforming := true } v 0).1

/-- m × 2^e. -/
def Num.ofPair (x : Int × Int) : Num := .fin (decide (x.1 < 0)) x.1.natAbs x.2

/-- Whether a value lies within a bound of `n` units of 2^u around another. -/
def Num.within (a t : Num) (n : Nat) (u : Int) : Bool := !(Num.fin false n u).lt (a.add false t.neg).abs && a != .nan

/-- The value that a function has exactly, where it has one of its format (only these; every other result is inexact). -/
def exactValue (vop m : Nat) (e : Int) (t : Num) : Option Num :=
  match vop with
  | 0x10 => if m = 0 then some (.fin false 1 0) else none
  | 0x11 => if (Num.fin false m e).eq (.fin false 1 0) then some (.fin false 0 0) else none
  | 0x13 => if m = 0 then some (.fin false 1 (-1)) else none
  | 0x16 => if ((t.mul t).mul (.fin false m e)).eq (.fin false 1 0) then some t else none
  | 0x18 => if m = 0 then some (.fin false 1 0) else none
  | _ => if m = 0 then some (.fin false 0 0) else none

/-- What a table-assisted function delivers for a finite argument: the tables' own value where it keeps the bound (it is free within it), and
else the true value, still to be rounded. The second part tells whether the result is exact. -/
def tableFinite (f64 : Bool) (vop : Nat) (neg : Bool) (m : Nat) (e : Int) : Num × Bool :=
  let w := if f64 then fltF64 else fltF32
  let t := trueValue vop neg m e
  let c := w.nearest (.ofPair (Config.tableValue f64 vop neg m e))
  let u := w.ulpAt t
  let ok := c.within t (boundUlps vop) u || ((boundAbs f64 vop).map (fun b => c.within t 1 b)).getD false
  let r := if ok then c else t
  (r, ((exactValue vop m e t).map (fun x => x.eq r)).getD false)

/-- Bisection of Φ(x) = p on [lo, hi]. -/
def probitGo (p : Int) : Nat → Int → Int → Int
  | 0, lo, _ => lo
  | n + 1, lo, hi =>
    let mid := (lo + hi) / 2
    if fxPhi mid < p then probitGo p n mid hi else probitGo p n lo mid

/-- The inverse normal distribution function at (v + 0.5) × 2^-32 (R126). -/
def probit (v : Nat) : Num := fxNum (probitGo (fxOf (2 * v + 1) (-33)) 100 (-8 * fxOne) (8 * fxOne)) 0

/-- RAND_N: a value within 4 units of the last place, of at most 6.34 in magnitude (R126). -/
def randNormal (v : W32) : Num :=
  let t := probit v.toNat
  let c := fltF32.nearest (.ofPair (Config.randN v))
  let top : Num := .fin false 634 0
  if c.within t 4 (fltF32.ulpAt t) && !(top.lt (c.abs.mul (.fin false 100 0))) then c else fltF32.nearest t

/-- What R115 states no result for: EXP of the infinities, LOG and RSQRT of +∞. -/
def tableAny (f64 : Bool) (vop : Nat) (neg : Bool) : Num :=
  let c := Config.tableAtInf f64 vop neg
  match c.1 % 4 with
  | 0 => .ofPair c.2
  | 1 => .inf false
  | 2 => .inf true
  | _ => .nan

end Sys2Proof.Machine
end

