-- ==== Sys2Proof/Machine/Matrix.lean ====
section
/-!
DEFINITION. The matrix engine and the matrix-vector path (chapter *Matrix engine*): weight sets, folds, the accumulator, the registers of
R97, the output stage, and their steps.
-/
namespace Sys2Proof.Machine

open Sys2Proof

/-! ### Operands -/

/-- An element's code with the E8 of its block. -/
abbrev Cell := Nat × Nat

/-- Elements `c0` to `c0 + n - 1` of a row of a view. -/
def State.cellsOf (s : State) (p : Nat) (id : CmdId) (v : View) (row c0 n : Nat) : List Cell :=
  (((s.rowCodes p id v row).drop c0).take n).zipIdx.map (fun x => (x.1, s.expOf p id v row (c0 + x.2)))

/-- The value of a cell of a format code, as every unit but the conforming path reads it. -/
def cellNum (f : Nat) (x : Cell) : Num :=
  match fmtOf f with
  | some fm => decodeElem fm false x.2 x.1
  | none => .nan

/-- The weight of reduction index `k` in column `n` of a set (R81, R199): zero where nothing has been loaded. -/
def WeightSet.cell (w : WeightSet) (n k : Nat) : Cell := ((w.codes.getD n []).getD k (0, 0))

/-- The active weight set of a half. -/
def Core.activeSet (c : Core) (half : Nat) : WeightSet := c.active.getD half {}

def Core.shadowSet (c : Core) (half : Nat) : WeightSet := c.shadow.getD half {}

/-- Whether a tile of a shape spans all 128 columns (R86). -/
def wideShape (shape : Nat) : Bool := decide (shape ≤ 2)

/-- The columns of a tile that lie in a half: a tile of 128 columns fills the sets of both. -/
def WeightSet.part (w : WeightSet) (half : Nat) : WeightSet :=
  if wideShape w.shape then
    { w with codes := (w.codes.drop (64 * half)).take 64, colSums := (w.colSums.drop (64 * half)).take 64, zps := (w.zps.drop (64 * half)).take 64 }
  else w

/-- The halves of the array that a tile or a step of a shape uses. -/
def halvesOf (shape half : Nat) : List Nat := if wideShape shape then [0, 1] else [half]

/-- Column `n` of a step: the half that holds it, and its place there. -/
def columnAt (shape half n : Nat) : Nat × Nat := if wideShape shape then (n / 64, n % 64) else (half, n)

/-- The active weight of reduction index `k` in column `n` of a step (R75, R199): zero where nothing has been loaded. -/
def Core.weight (c : Core) (shape half n k : Nat) : Cell :=
  let p := columnAt shape half n
  (c.activeSet p.1).cell p.2 k

/-- The column sums of the active tile of a step's shape, column by column (R81). -/
def Core.tileSums (c : Core) (shape half : Nat) : List Int :=
  (List.range (tileOf shape).2).map (fun n => let p := columnAt shape half n; (c.activeSet p.1).colSums.getD p.2 0)

/-- The weight zero points of the active tile, column by column (R81). -/
def Core.tileZps (c : Core) (shape half : Nat) : List Int :=
  (List.range (tileOf shape).2).map (fun n => let p := columnAt shape half n; (c.activeSet p.1).zps.getD p.2 0)

/-- How a shape lays reduction indices out over the physical rows (R76): one, two, or half an element to a cell. -/
def cellLayout (shape : Nat) : Nat := if shape = 1 then 1 else if shape = 2 then 2 else 0

/-- Whether the cells that a step uses hold weights of another format or layout than it streams against: the manual gives it no result. -/
def Core.mismatched (c : Core) (wf shape half : Nat) : Bool :=
  (halvesOf shape half).any (fun h =>
    let w := c.activeSet h
    !w.codes.isEmpty && (w.format != wf || cellLayout w.shape != cellLayout shape))

/-- The halves that a SWAP of a half exchanges: DUAL alone has a SWAP for each half (R87). A waiting tile of another shape takes both; with no
tile waiting, the SWAP undoes one of both where the previous SWAP exchanged both (R84; log entry 73). -/
def Core.swapHalves (c : Core) (half : Nat) : List Nat :=
  let whole := if c.loaded.getD half false then c.loaded.getD 0 false && (c.shadowSet 0).shape != 4 else c.wholeSwap
  if whole then [0, 1] else [half]

/-- Two sets, one for each half, with the set of one half replaced. -/
def putSet (l : List WeightSet) (half : Nat) (w : WeightSet) : List WeightSet := setAt half w [l.getD 0 {}, l.getD 1 {}]

/-- A loaded tile goes into the shadow set of every half that it spans (R81), and takes the shadow set of both unless its shape is DUAL. -/
def Core.load (c : Core) (w : WeightSet) (half : Nat) : Core :=
  let c := (halvesOf w.shape half).foldl (fun c h => { c with shadow := putSet c.shadow h (w.part h) }) c
  { c with loaded := (tileHalves w.shape half).foldl (fun l h => setAt h true l) c.loaded }

/-- The sets of a half change places (R83). -/
def Core.exchange (c : Core) (h : Nat) : Core :=
  { c with active := putSet c.active h (c.shadowSet h), shadow := putSet c.shadow h (c.activeSet h), loaded := setAt h false c.loaded }

/-- SWAP of a half, in effect (R83, R84). -/
def Core.swapped (c : Core) (half : Nat) : Core :=
  let hs := c.swapHalves half
  { hs.foldl Core.exchange c with wholeSwap := hs.length == 2 }

/-- The sums of codes of one row of an integer tensor over reduction indices `k0` to `k1 - 1` (R81, R145, R680): zero without a sums vector;
the entries that tile the range; none where no set of entries does, which the manual leaves open. -/
def State.rangeSum (s : State) (p : Nat) (id : CmdId) (v : View) (row k0 k1 : Nat) : Option Int :=
  let d := v.desc
  if !d.holds 3 || k1 ≤ k0 then some 0
  else
    let seg := if d.sumSeg = 0 then d.ext 0 else segLen d.sumSeg
    let per := ceilDiv (d.ext 0) seg
    if k0 % seg = 0 && (k1 % seg = 0 || k1 = d.ext 0) then
      some ((List.range (ceilDiv k1 seg - k0 / seg)).map (fun i => s.sumOf p id v (row * per + k0 / seg + i))).sum
    else none

/-- A range sum, or a free value where the manual gives none. -/
def State.takeSum (s : State) (p : Nat) (id : CmdId) (v : View) (row k0 k1 : Nat) : State × Int :=
  match s.rangeSum p id v row k0 k1 with
  | some x => (s, x)
  | none =>
    let (s, x) := s.freeNat
    (s, signedOf 32 x)

/-- Range sums of rows `n0` to `n0 + n - 1`. -/
def State.takeSums (s : State) (p : Nat) (id : CmdId) (v : View) (k0 k1 : Nat) : List Nat → State × List Int
  | [] => (s, [])
  | n :: ns =>
    let (s, x) := s.takeSum p id v n k0 k1
    let (s, xs) := State.takeSums s p id v k0 k1 ns
    (s, x :: xs)

/-! ### LOAD_WEIGHTS and SWAP (R81 to R84, R199) -/

/-- The tile of a LOAD_WEIGHTS: columns and reduction indices past W's extents hold nothing. -/
def State.loadTile (s : State) (r : Run) (v : View) (a : LoadArgs) : State × WeightSet :=
  let (tk, tn) := tileOf a.shape
  let k0 := a.tileK * tk
  let rows := ((List.range tn).map (a.tileN * tn + ·)).filter (fun n => decide (n < v.desc.rows))
  let (s, sums) := if intTarget v.desc.format then s.takeSums r.part r.id v k0 (min (k0 + tk) (v.desc.ext 0)) rows else (s, [])
  (s, { format := v.desc.format, shape := a.shape, codes := rows.map (fun n => s.cellsOf r.part r.id v n k0 tk), colSums := sums
        zps := rows.map (fun n => (s.scaleOf r.part r.id v (v.desc.channelAt n 0)).2), piece := 0 })

/-- LOAD_WEIGHTS: the tile goes into the shadow set, a tile of 128 columns into that of both halves. -/
def execLoadWeights (core : Nat) (a : LoadArgs) (s : State) : Res :=
  .next (s.issue core (.loadWeights a) (fun s r _ =>
    match s.operand r core a.w with
    | none => s
    | some v =>
      let (tk, tn) := tileOf a.shape
      let len := min tk (v.desc.ext 0 - a.tileK * tk)
      s.reading r.id (s.cellSpans r.id v (a.tileN * tn) (min tn (v.desc.rows - a.tileN * tn)) (a.tileK * tk) len) (fun s =>
        let (s, w) := s.loadTile r v a
        s.setCore core ((s.core core).load w (halfOf a.shape a.halfB)))))

/-- SWAP: the sequencer hands it to its engine, where it waits for the conditions of R83. -/
def execSwap (core : Nat) (halfB : Bool) (s : State) : Res :=
  .next (s.issue core (.swap halfB) (fun s r _ => s.updCore r.id core (fun c => { c with pendingSwap := setAt (b2n halfB) true c.pendingSwap })))

/-- Whether a LOAD_WEIGHTS into one of some halves, or a stream through one of them, is still running on a core (R83). -/
def Run.busyHalves (r : Run) (c : CoreRun) (halves : List Nat) : Bool :=
  let list := r.img.steps.getD (r.coreNo c.flat) []
  (c.inflight.filterMap (fun j => list[j]?)).any (fun w => match w.kind with
    | .loadWeights a => (tileHalves a.shape (halfOf a.shape a.halfB)).any (fun h => halves.contains h)
    | .streamMm a => !r.img.onMv false a && (tileHalves a.shape (halfOf a.shape a.halfB)).any (fun h => halves.contains h)
    | _ => false)

/-- The index of the SWAP of a half that waits on a core. -/
def Run.swapIdx (r : Run) (c : CoreRun) (half : Nat) : Option Nat :=
  let list := r.img.steps.getD (r.coreNo c.flat) []
  c.inflight.find? (fun j => ((list[j]?).map (fun w => w.kind == .swap (half == 1))).getD false)

/-- SWAP takes effect (R83, R84): the sets of a half, or of both where the tile spans them, change places, with their metadata, and the step has
completed. No load of these halves runs any more and no stream through them: a stream has multiplied its last row when it has completed (log
entry 73). -/
def execSwapTakesEffect (core : Nat) (halfB : Bool) (s : State) : Res :=
  .next (
    match s.runOn core with
    | none => s
    | some r =>
      match r.cores.find? (fun c => c.flat = core) with
      | none => s
      | some c =>
        let half := b2n halfB
        match r.swapIdx c half with
        | none => s
        | some j =>
          let x := s.core core
          if !c.pendingSwap.getD half false || r.busyHalves c (x.swapHalves half) then s
          else
            let s := s.setCore core (x.swapped half)
            let clear (c : CoreRun) : CoreRun := { c with pendingSwap := setAt half false c.pendingSwap }
            (s.updCore r.id core clear).stepDone r.id core j)

/-! ### Sums (R63, R72, R77, R78, R89, R102) -/

/-- Exact sum of values. -/
def sumNums (l : List Num) : Num := l.foldl (Num.add false) (.fin false 0 0)

/-- An F32 running sum with one more term. -/
def foldIn (x : W32 × Ev) (v : Num) : W32 × Ev :=
  let (y, e) := toF32 rndRne ((decF32 x.1).add false v) 0
  (y, x.2.add e)

/-- Exact sums of `size` products each, added into an F32 running sum (R77). Intervals are counted from K_OFF, and every element brings the
E8 of its own block, also where K_OFF is no multiple of the block size or an operand's blocks run along another dimension, which no rule refuses
(DESIGN CHOICE, log entry 28). -/
def foldSum (size : Nat) (prods : List Num) : W32 × Ev :=
  ((piecesOf size (prods.length + 1) prods).map sumNums).foldl foldIn (0, {})

/-- The fold interval of a pairing in reduction indices (R77); integer columns have none. -/
def foldLen (wf af : Nat) : Nat :=
  if wf = 2 || wf = 3 || spPieces wf ≠ 0 then 1
  else if blockSize wf ≠ 0 && blockSize af ≠ 0 then min (blockSize wf) (blockSize af)
  else if blockSize wf ≠ 0 then blockSize wf
  else if blockSize af ≠ 0 then blockSize af
  else 16

/-- One level of an adder tree whose adders round to F32. -/
def treeLevel : List (W32 × Ev) → List (W32 × Ev)
  | [] => []
  | [x] => [x]
  | x :: y :: r => ((foldIn (x.1, x.2.add y.2) (decF32 y.1)) :: treeLevel r)

/-- The levels of an adder tree, down to one sum. -/
def treeDown : Nat → List (W32 × Ev) → W32 × Ev
  | 0, l => l.headD (0, {})
  | n + 1, l => if l.length ≤ 1 then l.headD (0, {}) else treeDown n (treeLevel l)

/-- The first level of the MV's tree takes exact products. At every level neighbours meet, the first with the second: R102 does not say which
products meet (DESIGN CHOICE, log entry 28). -/
def treeFirst : List Num → List (W32 × Ev)
  | [] => []
  | [x] => [toF32 rndRne x 0]
  | x :: y :: r => toF32 rndRne (x.add false y) 0 :: treeFirst r

/-- Elements in one 256-byte slice of weights (R101). -/
def sliceLen (wf : Nat) : Nat := if fmtBits wf = 6 then 320 else 2048 / fmtBits wf

/-- The sum of one slice on the MV (R102): a rounding tree of 16-bit products, block sums into F32, or an exact sum. -/
def mvSlice (wf af : Nat) (prods : List Num) : Num × Ev :=
  if wf = 2 || wf = 3 then
    let (x, e) := treeDown 8 (treeFirst (prods ++ List.replicate (sliceLen wf - prods.length) (.fin false 0 0)))
    (decF32 x, e)
  else if blockSize wf ≠ 0 || blockSize af ≠ 0 then
    let (x, e) := foldSum (foldLen wf af) prods
    (decF32 x, e)
  else (sumNums prods, {})

/-- One column of the MV (R101, R102): slice results added to the column's running sum. -/
def mvSum (wf af : Nat) (prods : List Num) : W32 × Ev :=
  (piecesOf (sliceLen wf) (prods.length + 1) prods).foldl (fun x sl =>
    let (v, e) := mvSlice wf af sl
    foldIn (x.1, x.2.add e) v) (0, {})

/-- The passes of a split-precision step, as (activation piece, weight piece), grouped by weight piece (R89). -/
def spPasses (pieces : Nat) : List (Nat × Nat) :=
  if pieces = 2 then [(0, 0), (1, 0), (0, 1)] else [(0, 0), (1, 0), (2, 0), (0, 1), (1, 1), (0, 2)]

/-- One pass over a column (R72, R77); the first group uses the piece that is active. The later pieces are split from the tile that
LOAD_WEIGHTS captured, and a tile that waits in the shadow set is lost to them: R90 has the step load them, R198 has it take only scale data from W
(DESIGN CHOICE, log entry 28). -/
def spPass (first : Nat) (xs ws : List Cell) (ij : Nat × Nat) : W32 × Ev :=
  let j := if ij.2 = 0 then first else ij.2
  foldSum 1 ((xs.zip ws).map (fun p =>
    splitProduct ij.1 j ((splitPieces (BitVec.ofNat 32 p.1.1)).getD ij.1 0) ((splitPieces (BitVec.ofNat 32 p.2.1)).getD j 0)))

/-- What one element brings to the accumulator: an exact integer sum, or F32 sums in pass order. -/
inductive Part where
  | exact (v : Int)
  | floats (l : List (W32 × Ev))
  deriving DecidableEq, Repr

/-- The sum of one output element. An integer sum is exact over all slices of the step, on the MV as in a column of the ME, and meets the range
of I32 once, at the accumulator: R102 gives no width of the MV's running sum (DESIGN CHOICE, log entry 28). -/
def elemSum (wf af : Nat) (mv : Bool) (first : Nat) (xs ws : List Cell) : Part :=
  let prods := (xs.zip ws).map (fun p => (cellNum af p.1).mul (cellNum wf p.2))
  if intTarget wf then .exact (sumNums prods).toInt
  else if spPieces wf ≠ 0 then .floats ((spPasses (spPieces wf)).map (spPass first xs ws))
  else if mv then .floats [mvSum wf af prods]
  else .floats [foldSum (foldLen wf af) prods]

/-- The accumulator element after a step (R55, R92). -/
def accNew (keep : Bool) (old : W32) : Part → W32 × Ev
  | .exact v =>
    let (x, n) := satI32 ((if keep then old.toInt else 0) + v)
    (BitVec.ofInt 32 x, { sats := n })
  | .floats l => l.foldl (fun x p => foldIn (x.1, x.2.add p.2) (decF32 p.1)) (if keep then old else 0, {})

/-! ### The output stage (R98, R116, R679, R680) -/

/-- The activation function (order 4). -/
def activate (act : Nat) (v : W32) : W32 × Ev :=
  match act with
  | 0 => (v, {})
  | 1 => match decF32 v with
    | .nan => (v, {})
    | n => (if (Num.fin false 0 0).lt n then v else 0, {})
  | _ => match decF32 v with
    | .nan => (v, {})
    | .inf neg => (if neg then 0 else v, {})
    | .fin neg m e => toF32 rndRne (tableFinite false (if act = 2 then 0x14 else 0x15) neg m e).1 0

/-- The corrections of one output element: zero points and sums (order 1), scales (order 2) and bias (order 3). -/
structure Corr where
  isInt : Bool
  zx : Int
  zw : Int
  sumW : Int
  sumX : Int
  k : Int
  sw : W32
  sx : W32
  bias : Num
  deriving DecidableEq, Repr

/-- Orders 1 to 4 of the *Output stage order* table. -/
def outValue (act : Nat) (acc : W32) (c : Corr) : W32 × Ev :=
  let c1 : W32 × Ev :=
    if c.isInt then toF32 rndRne (Num.ofInt (acc.toInt - c.zx * c.sumW - c.zw * c.sumX + c.k * c.zx * c.zw)) 0 else (acc, {})
  let step (x : W32 × Ev) (f : Num → Num) : W32 × Ev :=
    let (y, e) := toF32 rndRne (f (decF32 x.1)) 0
    (y, x.2.add e)
  let v := step (step c1 (fun x => x.mul (decF32 c.sw))) (fun x => x.mul (decF32 c.sx))
  let v := step v (fun x => x.add false c.bias)
  let y := activate act v.1
  (y.1, v.2.add y.2)

/-- Order 5: the row's elements in the output format; `scales` holds S and z of each element of an integer output, `rs` the draws. -/
def outRow (fmt : Nat) (o : Rnd) (vs : List W32) (scales : List (W32 × Int)) (rs : List Nat) : RowOut :=
  match fmtOf fmt with
  | some (.flt f) =>
    if fmt = 0 then { codes := vs.map (·.toNat), exps := [], ev := {} }
    else
      let each := (vs.zip rs).map (fun p => f.encode o (decF32 p.1) p.2)
      { codes := each.map (·.1), exps := [], ev := (each.map (·.2)).foldl Ev.add {} }
  | some (.int b sg) =>
    let each := ((vs.zip scales).zip rs).map (fun p => encodeInt b sg o p.1.2.2 ((decF32 p.1.1).quot (decF32 p.1.2.1)) p.2)
    { codes := each.map (fun e => codeOf b e.1), exps := [], ev := (each.map (·.2)).foldl Ev.add {} }
  | some (.block f n) => encodeBlocks f n o (vs.map decF32) rs
  | _ => { codes := [], exps := [], ev := {} }

/-- Writes a converted row from element `c0` of a row. -/
def State.writeRow (s : State) (r : Run) (v : View) (row c0 : Nat) (o : RowOut) : State :=
  let s := s.stepCodes r v row c0 o.codes
  if o.exps.isEmpty then s else s.stepWr r v 1 (v.desc.expIdx row c0) (o.exps.flatMap (leBytes 1))

/-- A scale-register entry; one that nothing has written is zero (R137). -/
def Core.sreg (c : Core) (i : Nat) : SReg :=
  (alookup i c.sregs).getD { min := 0, max := 0, scale := 0, zp := 0, sse := 0, maxErr := 0, count := 0, sats := 0, valid := false }

/-! ### A matrix step -/

/-- Everything that a matrix step has read before it writes. -/
structure MatJob where
  a : MatArgs
  half : Nat
  sums : List (List Part)
  /-- Σq_w and z_w by column, K, S_w by column: registers of R97 or the MV's own sums, tile metadata, scale data of W. -/
  regs : List Int
  count : Nat
  zw : List Int
  sw : List W32
  deriving DecidableEq, Repr

/-- The accumulator row of output row `m` (R91). -/
def accRowOf (a : MatArgs) (m : Nat) : Nat := a.accBase + m % 2 ^ a.accLog2W

/-- Stores the sums of output row `m`; answers what the row holds now (R91, R92). -/
def State.accRow (s : State) (core : Nat) (j : MatJob) (m : Nat) : State × List W32 × Ev :=
  let c := s.core core
  let at' (n : Nat) : Nat := accRowOf j.a m * 128 + 64 * j.half + n
  let each : List (Nat × W32 × Ev) := ((j.sums.getD m []).zipIdx).map (fun p => (at' p.2, accNew j.a.accumulate ((alookup (at' p.2) c.acc).getD 0) p.1))
  let s : State := { s with integ := s.integ.wroteAcc core (each.map Prod.fst) }
  (s.setCore core { c with acc := each.foldl (fun l e => ainsert e.1 e.2.1 l) c.acc }, each.map (fun e => e.2.1),
    (each.map (fun e => e.2.2)).foldl Ev.add {})

/-- The output stage on one finished row. -/
def State.outStage (s : State) (r : Run) (core : Nat) (j : MatJob) (va vo : View) (bias : List Num) (m : Nat) (acc : List W32) : State × Ev :=
  let a := j.a
  let isInt := intTarget va.desc.format
  let (sx, zx) := s.scaleOf r.part r.id va (va.desc.channelAt (a.mOff + m) 0)
  let (s, sumX) := if isInt && j.count ≠ 0 then s.takeSum r.part r.id va (a.mOff + m) 0 (va.desc.ext 0) else (s, 0)
  let vals := acc.zipIdx.map (fun p => outValue a.act p.1
    { isInt := isInt, zx := zx, zw := j.zw.getD p.2 0, sumW := j.regs.getD (64 * j.half + p.2) 0, sumX := sumX, k := j.count
      sw := j.sw.getD p.2 0x3F800000#32, sx := sx, bias := bias.getD p.2 (.fin false 0 0) })
  let gens := if a.outFormat = 0 then [] else (List.range a.n).map (fun n => 128 + 64 * j.half + n)
  let (s, rs) := s.drawMany core a.round gens
  let c := s.core core
  let scales := (List.range a.n).map (fun n => let e := c.sreg (a.sregBase + n); (e.scale, e.zp))
  let o := outRow a.outFormat ⟨a.round, a.ieeeOvf, false⟩ (vals.map (·.1)) scales rs
  (s.writeRow r vo (a.mOff + m) a.nOff o, ((vals.map (·.2)).foldl Ev.add o.ev))

/-- The rows of a matrix step, in order. -/
def State.matRows (s : State) (r : Run) (core : Nat) (j : MatJob) (va : View) (vo : Option View) (bias : List Num) : List Nat → State
  | [] => s
  | m :: ms =>
    let (s, acc, ev) := s.accRow core j m
    let s := s.addEv r.id ev
    match vo with
    | none => State.matRows s r core j va vo bias ms
    | some o =>
      let (s, ev) := s.outStage r core j va o bias m acc
      State.matRows (s.addEv r.id ev) r core j va vo bias ms

/-- The registers of R97 after a step on `width` columns of a half: `sums` are its tile's column sums, zero for a column that the tile
does not hold. -/
def regsAfter (keep : Bool) (half width : Nat) (old : List Int × Nat) (sums : List Int) (k : Nat) : List Int × Nat :=
  let base := (List.range 128).map (fun i => old.1.getD i 0)
  (base.zipIdx.map (fun p =>
      let n := p.2 - 64 * half
      if p.2 < 64 * half || width ≤ n then p.1 else (if keep then p.1 else 0) + sums.getD n 0),
    (if keep then old.2 else 0) + k)

/-- Free sums for a step against cells that were loaded in another format or layout: the manual gives it no result. -/
def State.freeParts (s : State) (isInt : Bool) : List Nat → State × List Part
  | [] => (s, [])
  | _ :: ns =>
    let (s, x) := s.freeNat
    let (s, xs) := State.freeParts s isInt ns
    (s, (if isInt then .exact (signedOf 32 x) else .floats [(BitVec.ofNat 32 x, {})]) :: xs)

def State.freeRows (s : State) (isInt : Bool) (n : Nat) : List Nat → State × List (List Part)
  | [] => (s, [])
  | _ :: ms =>
    let (s, x) := s.freeParts isInt (List.range n)
    let (s, xs) := State.freeRows s isInt n ms
    (s, x :: xs)

/-- The sums of a step's rows: K = 0 sums to nothing (R107). -/
def State.matSums (s : State) (r : Run) (core : Nat) (a : MatArgs) (mv : Bool) (half : Nat) (va vw : View) : State × List (List Part) :=
  let wf := vw.desc.format
  let af := va.desc.format
  let c := s.core core
  if !mv && a.k ≠ 0 && c.mismatched wf a.shape half then s.freeRows (intTarget wf) a.n (List.range a.m)
  else
    let col (n : Nat) : List Cell := if mv then s.cellsOf r.part r.id vw (a.nOff + n) a.kOff a.k else (List.range a.k).map (c.weight a.shape half n)
    let cols := (List.range a.n).map col
    (s, (List.range a.m).map (fun m =>
      let xs := s.cellsOf r.part r.id va (a.mOff + m) a.kOff a.k
      cols.map (fun ws =>
        if a.k = 0 then (if intTarget wf then Part.exact 0 else Part.floats []) else elemSum wf af mv (c.activeSet half).piece xs ws)))

/-- The sets after a split-precision step, whose shape spans both halves (R90): the last piece active, the one before it in the shadow set. -/
def Core.afterPieces (c : Core) (pieces : Nat) : Core :=
  [0, 1].foldl (fun c h =>
    let w := c.activeSet h
    { c with active := putSet c.active h { w with piece := pieces - 1 }, shadow := putSet c.shadow h { w with piece := pieces - 2 }
             loaded := setAt h false c.loaded }) c

/-- A matrix step on the engine that R100 gives it, when its operands have been read. The bias is row 0 of its tensor, and its elements are taken
as their codes say, an integer one without a scale or a zero point of its own (DESIGN CHOICE, log entry 28). -/
def State.runMatrix (s : State) (r : Run) (core : Nat) (a : MatArgs) (mv : Bool) (va vw : View) : State :=
  let half := if mv then 0 else halfOf a.shape a.halfB
  let tile := s.core core
  let isInt := intTarget vw.desc.format
  let (s, sums) := s.matSums r core a mv half va vw
  let (s, cs) :=
    if a.k = 0 || !isInt then (s, List.replicate a.n 0)
    else if mv then s.takeSums r.part r.id vw a.kOff (a.kOff + a.k) ((List.range a.n).map (a.nOff + ·))
    else (s, tile.tileSums a.shape half)
  let c := s.core core
  let (regs, count) := regsAfter a.accumulate half (if !mv && 3 ≤ a.shape then 64 else 128) ((alookup (a.accBase, a.accLog2W) c.colSums).getD ([], 0)) cs a.k
  let s := s.setCore core { c with colSums := ainsert (a.accBase, a.accLog2W) (regs, count) c.colSums }
  let zw := if mv then (List.range a.n).map (fun n => (s.scaleOf r.part r.id vw (vw.desc.channelAt (a.nOff + n) 0)).2) else tile.tileZps a.shape half
  let sw := (List.range a.n).map (fun n => (s.scaleOf r.part r.id vw (vw.desc.channelAt (a.nOff + n) 0)).1)
  -- order 1 of R98 takes, for the MV, the weight tensor's own sums and the step's K
  let own := mv && a.k != 0
  let job : MatJob := { a := a, half := half, sums := sums, regs := if own then cs else regs, count := if own then a.k else count, zw := zw, sw := sw }
  let bias := match (if a.bias = noTensor then none else s.operand r core a.bias) with
    | some vb => (s.cellsOf r.part r.id vb 0 a.nOff a.n).map (cellNum vb.desc.format)
    | none => []
  let s := s.matRows r core job va (if a.final then s.operand r core a.out else none) bias (List.range a.m)
  let s := if !mv && a.k ≠ 0 && spPieces vw.desc.format ≠ 0 then s.setCore core ((s.core core).afterPieces (spPieces vw.desc.format)) else s
  if a.k = 0 then s.updRun r.id (fun x => { x with emptySteps := x.emptySteps + 1 }) else s

/-- Device addresses that a matrix step reads. -/
def State.matReads (s : State) (r : Run) (core : Nat) (a : MatArgs) (mv : Bool) (va vw : View) : List (Nat × Nat) :=
  let vb := if a.bias = noTensor then none else s.operand r core a.bias
  s.cellSpans r.id va a.mOff a.m a.kOff a.k ++ (if mv then s.cellSpans r.id vw a.nOff a.n a.kOff a.k else s.cellSpans r.id vw 0 0 0 0)
    ++ (match vb with
      | some v => s.cellSpans r.id v 0 1 a.nOff a.n
      | none => [])

/-- A STREAM_MM or MV step (R76 to R109): with M or N zero it does nothing (R106). -/
def State.matStep (s : State) (r : Run) (core : Nat) (a : MatArgs) (isMv : Bool) : State :=
  if a.m = 0 || a.n = 0 then s
  else
    match s.operand r core a.a, s.operand r core a.w with
    | some va, some vw =>
      let mv := r.img.onMv isMv a
      s.reading r.id (s.matReads r core a mv va vw) (fun s => s.runMatrix r core a mv va vw)
    | _, _ => s

/-- STREAM_MM: activation rows stream past the active tile, or the MV runs the step where R100 routes it there. -/
def execStreamMm (core : Nat) (a : MatArgs) (s : State) : Res := .next (s.issue core (.streamMm a) (fun s r _ => s.matStep r core a false))

/-- MV: weights stream past the adder tree (R100 to R104). -/
def execMv (core : Nat) (a : MatArgs) (s : State) : Res := .next (s.issue core (.mv a) (fun s r _ => s.matStep r core a true))

end Sys2Proof.Machine
end

