-- ==== Sys2Proof/Machine/Vector.lean ====
section
/-!
DEFINITION. The vector engine (chapter *Vector engine and quantisation*, R110 to R134): lane values with NaN payloads, the operations of the
*VE operations* table on the fast and the conforming path, and the VEC step.
-/
namespace Sys2Proof.Machine

open Sys2Proof

/-! ### Lane values (R58 to R60, R110, R112) -/

/-- A value in a lane: a NaN carries its code in the working format (R59). -/
structure VV where
  n : Num
  code : Nat := 0
  deriving DecidableEq, Repr

/-- What a VEC step works with: its core, its working format (F32 or F64), its rounding options and its output format. -/
structure VeCtx where
  core : Nat
  w : Flt
  o : Rnd
  out : Nat
  /-- The operation passes values on that the working format need not hold: it rounds into its output format even where that is the
  working one. -/
  cvt : Bool
  /-- Its sums are I32 accumulations (R55). -/
  isum : Bool := false
  deriving DecidableEq, Repr

def VeCtx.f64 (k : VeCtx) : Bool := k.w.mbits == 52

/-- Lanes in use (R110). -/
def VeCtx.lanes (k : VeCtx) : Nat := if k.f64 then 32 else 128

def VV.ofNum (n : Num) : VV := { n := n }

def VV.zero : VV := { n := .fin false 0 0 }

def VV.one : VV := { n := .fin false 1 0 }

def VV.isNan (v : VV) : Bool := v.n == .nan

/-- The default NaN (R59). -/
def VeCtx.nan (k : VeCtx) : VV := { n := .nan, code := k.w.nanCode }

def VeCtx.signals (k : VeCtx) (v : VV) : Bool := v.isNan && k.w.isSnan v.code

def VeCtx.quiet (k : VeCtx) (v : VV) : VV := { v with code := k.w.quiet v.code }

/-- The NaN that a result takes from its operands: the first one, quietened; a signalling one raises invalid (R59). -/
def VeCtx.firstNan (k : VeCtx) (l : List VV) : Option (VV × Nat) :=
  (l.find? VV.isNan).map (fun v => (k.quiet v, if l.any k.signals then flagInvalid else 0))

/-- A NaN code of one long format in another: the leading payload bits, sign kept. -/
def nanWiden (a b : Flt) (code : Nat) : Nat :=
  let neg := if bitAt code (a.ebits + a.mbits) then 2 ^ (b.ebits + b.mbits) else 0
  let frac := bits code 0 a.mbits
  neg + (2 ^ b.ebits - 1) * 2 ^ b.mbits + (if a.mbits ≤ b.mbits then frac * 2 ^ (b.mbits - a.mbits) else frac / 2 ^ (a.mbits - b.mbits))

/-- A code of a long format as a lane value. -/
def VeCtx.ofLong (k : VeCtx) (f : Flt) (code : Nat) : VV :=
  if f.isNan code then (if k.o.conforming then { n := .nan, code := nanWiden f k.w code } else k.nan)
  else { n := f.decode k.o.conforming code }

/-! ### Draws and roundings (R112, R126) -/

/-- Threads a state through a list. -/
def thread {σ α β : Type} (f : σ → α → σ × β) : σ → List α → σ × List β
  | s, [] => (s, [])
  | s, a :: l =>
    let (s, b) := f s a
    let (s, bs) := thread f s l
    (s, b :: bs)

/-- The machine and what the step has raised so far. -/
abbrev VM := State × Ev

/-- Rounds the result of an operation of lane `j` into the working format, with the flags `r.2` that the operation raised. The working format is F32
or F64, so IEEE_OVF acts here whatever OUT_FORMAT is: an intermediate result beyond it becomes infinite before the conversion that writes it (DESIGN
CHOICE, log entry 29: R67 speaks of VE arithmetic whose target is F32 or F64). -/
def VeCtx.round (k : VeCtx) (x : VM) (j : Nat) (r : VV × Nat) : VM × VV :=
  let (s, d) := x.1.drawSr k.core (j % k.lanes) k.o.mode
  let fl : Ev := { flags := if k.o.conforming then r.2 else 0 }
  if r.1.isNan then ((s, x.2.add fl), if k.o.conforming then r.1 else k.nan)
  else
    let (c, e) := k.w.encode k.o r.1.n d
    ((s, (x.2.add e).add fl), { n := k.w.decode k.o.conforming c })

/-- A result that takes no rounding: its flags only; the fast path writes the default NaN and no negative zero. -/
def VeCtx.exact (k : VeCtx) (x : VM) (r : VV × Nat) : VM × VV :=
  if k.o.conforming then ((x.1, x.2.add { flags := r.2 }), r.1)
  else (x, if r.1.isNan then k.nan else if r.1.n.isZero then .zero else r.1)

/-- The format code of the working format. -/
def VeCtx.code (k : VeCtx) : Nat := if k.f64 then 1 else 0

/-- Whether writing the output is a rounding of its own. -/
def VeCtx.converts (k : VeCtx) : Bool := k.cvt || k.out != k.code

/-- The draw of an element's conversion into the output format. -/
def VeCtx.outDraw (k : VeCtx) (x : VM) (j : Nat) : VM × Nat :=
  let (s, d) := x.1.drawSr k.core (j % k.lanes) (if k.converts then k.o.mode else 0)
  ((s, x.2), d)

/-- A long-format NaN as the output's code: payload on the conforming path (R59), the default NaN else (R60). -/
def VeCtx.nanOut (k : VeCtx) (f : Flt) (v : VV) : Nat :=
  if k.o.conforming && decide (f.mbits ≥ 23) then f.quiet (nanWiden k.w f v.code) else f.nanCode

/-- Converts elements with their draws into the output format (R47, R53, R65). -/
def VeCtx.emit (k : VeCtx) (l : List (VV × Nat)) : RowOut :=
  match fmtOf k.out with
  | some (.flt f) =>
    let each := l.map (fun p => if p.1.isNan then (k.nanOut f p.1, ({} : Ev)) else f.encode k.o p.1.n p.2)
    { codes := each.map (·.1), exps := [], ev := (each.map (·.2)).foldl Ev.add {} }
  | some (.int b sg) =>
    let each := l.map (fun p => encodeInt b sg k.o 0 p.1.n p.2)
    { codes := each.map (fun e => codeOf b e.1), exps := [], ev := (each.map (·.2)).foldl Ev.add {} }
  | some (.block f n) => encodeBlocks f n k.o (l.map (fun p => p.1.n)) (l.map (·.2))
  | _ => { codes := [], exps := [], ev := {} }

/-- Draws for and converts a list of results, lane by lane. -/
def VeCtx.emitAll (k : VeCtx) (x : VM) (l : List VV) : VM × RowOut :=
  let (x, ds) := thread k.outDraw x (List.range l.length)
  let o := k.emit (l.zip ds)
  ((x.1, x.2.add o.ev), o)

/-! ### Arithmetic (R56, R114) -/

/-- An operation's result: a NaN of its operands, the default NaN with invalid, or a value. -/
def VeCtx.arith (k : VeCtx) (l : List VV) (r : Num) : VV × Nat :=
  match k.firstNan l with
  | some x => x
  | none => if r = .nan then (k.nan, flagInvalid) else (.ofNum r, 0)

/-- Whether an exact zero sum takes a minus sign: under RDN alone. -/
def VeCtx.down (k : VeCtx) : Bool := k.o.conforming && k.o.mode == 4

def VeCtx.add (k : VeCtx) (a b : VV) : VV × Nat := k.arith [a, b] (a.n.add k.down b.n)

def VeCtx.sub (k : VeCtx) (a b : VV) : VV × Nat := k.arith [a, b] (a.n.add k.down b.n.neg)

def VeCtx.mul (k : VeCtx) (a b : VV) : VV × Nat := k.arith [a, b] (a.n.mul b.n)

def VeCtx.div (k : VeCtx) (a b : VV) : VV × Nat :=
  let (v, f) := k.arith [a, b] (a.n.quot b.n)
  (v, if b.n.isZero && !a.n.isZero && !a.isNan && !(match a.n with
    | .inf _ => true
    | _ => false) then f ||| flagDivZero else f)

def VeCtx.sqrt (k : VeCtx) (a : VV) : VV × Nat := k.arith [a] a.n.root

/-- The sign bit of a value. -/
def Num.isNeg : Num → Bool
  | .fin s _ _ => s
  | .inf s => s
  | .nan => false

/-- The order of minimumNumber and maximumNumber: −0 below +0. -/
def Num.below (a b : Num) : Bool := a.lt b || (a.eq b && a.isNeg && !b.isNeg)

/-- minimumNumber (`big` false) and maximumNumber of IEEE 754-2019: a number is preferred to a NaN. -/
def VeCtx.minMax (k : VeCtx) (big : Bool) (a b : VV) : VV × Nat :=
  let fl := if k.signals a || k.signals b then flagInvalid else 0
  if a.isNan && b.isNan then (k.quiet a, fl)
  else if a.isNan then (b, fl)
  else if b.isNan then (a, fl)
  else (if a.n.below b.n == big then b else a, fl)

/-- CMP (predicates EQ, NE, LT, LE, GT, GE, UNORDERED): 1.0 or 0.0; the ordering predicates raise invalid on any NaN. -/
def VeCtx.cmp (k : VeCtx) (pred : Nat) (a b : VV) : VV × Nat :=
  let un := a.isNan || b.isNan
  let fl := if k.signals a || k.signals b || (un && decide (2 ≤ pred) && decide (pred ≤ 5)) then flagInvalid else 0
  let r :=
    match pred with
    | 0 => a.n.eq b.n
    | 1 => !(a.n.eq b.n)
    | 2 => a.n.lt b.n
    | 3 => a.n.lt b.n || a.n.eq b.n
    | 4 => b.n.lt a.n
    | 5 => b.n.lt a.n || a.n.eq b.n
    | _ => un
  (if r then .one else .zero, fl)

/-- A lane value that an operation passes on: a NaN is quietened. -/
def VeCtx.pass (k : VeCtx) (v : VV) : VV := if v.isNan then k.quiet v else v

/-- CVT reads its operand as a conversion does: a signalling NaN raises invalid. -/
def VeCtx.convert (k : VeCtx) (v : VV) : VV × Nat := if v.isNan then (k.quiet v, if k.signals v then flagInvalid else 0) else (v, 0)

/-- Whether an elementwise operation rounds its result into the working format. -/
def rounds (vop : Nat) : Bool := decide (vop ≤ 6) || decide (0x10 ≤ vop)

/-- Whether a value stands in a format below its normal range, or as zero: a table's result there has underflowed (R57, R58). -/
def Flt.tiny (f : Flt) (v : Num) : Bool :=
  match v with
  | .fin _ m e => v.eq (f.nearest v) && (m == 0 || decide ((Nat.log2 m : Int) + e < 1 - (f.bias : Int)))
  | _ => false

/-- A table-assisted function (R115): its special results, else what the tables deliver. -/
def VeCtx.fn (k : VeCtx) (vop : Nat) (a : VV) : VV × Nat :=
  let tab (neg : Bool) (m : Nat) (e : Int) : VV × Nat :=
    let r := tableFinite k.f64 vop neg m e
    (.ofNum r.1, if r.2 then 0 else if k.w.tiny r.1 then flagInexact ||| flagUnderflow else flagInexact)
  let any (neg : Bool) : VV × Nat :=
    let r := tableAny k.f64 vop neg
    (if r = .nan then k.nan else .ofNum r, 0)
  let bad : VV × Nat := (k.nan, flagInvalid)
  match a.n with
  | .nan => (k.quiet a, if k.signals a then flagInvalid else 0)
  | .inf neg =>
    match vop with
    | 0x12 => (.ofNum (.fin neg 1 0), 0)
    | 0x13 => (if neg then .zero else .one, 0)
    | 0x14 => (if neg then .zero else a, 0)
    | 0x15 => (if neg then .zero else a, 0)
    | 0x17 => bad
    | 0x18 => bad
    | 0x11 => if neg then bad else any neg
    | 0x16 => if neg then bad else any neg
    | _ => any neg
  | .fin neg m e =>
    if vop = 0x11 || vop = 0x16 then
      if m = 0 then (.ofNum (.inf (vop == 0x11)), flagDivZero) else if neg then bad else tab neg m e
    else if (vop = 0x17 || vop = 0x18) && (Num.fin false 1048576 0).lt a.n.abs then bad
    else tab neg m e

/-- One elementwise operation (0x00 to 0x0D, 0x10 to 0x18), before rounding. -/
def VeCtx.elem (k : VeCtx) (vop pred : Nat) (a b c : VV) : VV × Nat :=
  match vop with
  | 0x00 => k.add a b
  | 0x01 => k.sub a b
  | 0x02 => k.mul a b
  | 0x03 => k.arith [a, b, c] ((a.n.mul b.n).add k.down c.n)
  | 0x04 => k.div a b
  | 0x05 => k.sqrt a
  | 0x06 => k.arith [a, b] (a.n.rem b.n)
  | 0x07 => k.minMax false a b
  | 0x08 => k.minMax true a b
  | 0x09 => (if a.isNan then { n := .nan, code := (k.quiet a).code % 2 ^ (k.w.ebits + k.w.mbits) } else .ofNum a.n.abs, 0)
  | 0x0A => (if a.isNan then { n := .nan, code := (k.quiet a).code ^^^ 2 ^ (k.w.ebits + k.w.mbits) } else .ofNum a.n.neg, 0)
  | 0x0B => k.cmp pred a b
  | 0x0C => (k.pass (if a.n.isZero then c else b), 0)
  | 0x0D => k.convert a
  | _ => k.fn vop a

/-- One element: the operation, its rounding, the draw of its conversion. -/
def VeCtx.elemStep (k : VeCtx) (vop pred : Nat) (x : VM) (p : Nat × VV × VV × VV) : VM × (VV × Nat) :=
  let r := k.elem vop pred p.2.1 p.2.2.1 p.2.2.2
  let (x, v) := if rounds vop then k.round x p.1 r else k.exact x r
  let (x, d) := k.outDraw x p.1
  (x, (v, d))

/-! ### Reductions (R117) -/

/-- A reduction's combining operation: lane, two values. -/
abbrev Comb := VM → Nat → VV → VV → VM × VV

/-- A product or sum of integers held in the I32 accumulator: at the end of the range it stays, and the event counts (R55). -/
def heldInt (x : VM) (v : Int) : VM × VV :=
  let (w, n) := satI32 v
  ((x.1, x.2.add { sats := n }), .ofNum (Num.ofInt w))

/-- An addition in the step's accumulator: rounded in its mode, or in I32 (R55, R117, R131). -/
def VeCtx.comb (k : VeCtx) : Comb := fun x j a b =>
  if k.isum then heldInt x (a.n.toInt + b.n.toInt) else k.round x j (k.add a b)

/-- The square of an element of lane `j` for RSUMSQ. -/
def VeCtx.square (k : VeCtx) (x : VM) (j : Nat) (v : VV) : VM × VV :=
  if k.isum then heldInt x (v.n.toInt * v.n.toInt) else k.round x j (k.mul v v)

/-- Minimum or maximum of two. -/
def VeCtx.combMm (k : VeCtx) (big : Bool) : Comb := fun x _ a b => k.exact x (k.minMax big a b)

/-- The elements of lane `i`. -/
def laneOf (lanes i : Nat) (l : List VV) : List VV := (l.zipIdx.filter (fun p => p.2 % lanes = i)).map (·.1)

/-- The sum of one lane, from its first element on; none for a lane without elements. -/
def laneFold (f : Comb) (i : Nat) (x : VM) : List VV → VM × Option VV
  | [] => (x, none)
  | v :: vs =>
    let (x, v) := vs.foldl (fun (p : VM × VV) b => f p.1 i p.2 b) (x, v)
    (x, some v)

/-- One level of the tree: neighbours combine in the lane of the left one. -/
def treePair (f : Comb) (stride : Nat) : VM → Nat → List (Option VV) → VM × List (Option VV)
  | x, _, [] => (x, [])
  | x, _, [a] => (x, [a])
  | x, i, a :: b :: r =>
    let (x, y) : VM × Option VV :=
      match a, b with
      | some a, some b =>
        let (x, v) := f x (i * stride) a b
        (x, some v)
      | some a, none => (x, some a)
      | none, b => (x, b)
    let (x, ys) := treePair f stride x (i + 2) r
    (x, y :: ys)

/-- The levels of the tree, down to one value. -/
def treeAll (f : Comb) : Nat → Nat → VM → List (Option VV) → VM × Option VV
  | 0, _, x, l => (x, (l.head?).join)
  | n + 1, stride, x, l =>
    let (x, l) := treePair f stride x 0 l
    treeAll f n (2 * stride) x l

/-- Lanes first, then the pairwise tree; `fill` stands in a lane without elements. -/
def VeCtx.reduce (k : VeCtx) (f : Comb) (fill : Option VV) (x : VM) (l : List VV) : VM × VV :=
  let (x, lanes) := thread (fun x i => laneFold f i x (laneOf k.lanes i l)) x (List.range k.lanes)
  let (x, v) := treeAll f (if k.f64 then 5 else 7) 1 x (lanes.map (fun v => v.orElse (fun _ => fill)))
  (x, v.getD .zero)

def VeCtx.sum (k : VeCtx) (x : VM) (l : List VV) : VM × VV := k.reduce k.comb (some .zero) x l

/-- A rounded operation on each element. -/
def VeCtx.each (k : VeCtx) (f : Nat → VV → VV × Nat) (x : VM) (l : List VV) : VM × List VV :=
  thread (fun x (p : VV × Nat) => k.round x p.2 (f p.2 p.1)) x l.zipIdx

/-- The lowest index among equal maxima; none for a row without a number. -/
def argMax (l : List VV) : Option Nat :=
  ((l.zipIdx.foldl (fun (best : Option (VV × Nat)) p =>
    if p.1.isNan then best
    else match best with
      | none => some p
      | some b => if b.1.n.lt p.1.n then some p else some b) none)).map (·.2)

/-- ARGMAX (R117): of a row without a number a free value, for which the manual states none. -/
def VeCtx.argmax (k : VeCtx) (x : VM) (l : List VV) : VM × RowOut :=
  match argMax l with
  | some i => k.emitAll x [.ofNum (Num.ofInt i)]
  | none =>
    let (s, n) := x.1.freeNat
    k.emitAll (s, x.2) [.ofNum (Num.ofInt n)]

/-! ### SOFTMAX and the normalisations (R118 to R120) -/

/-- A rounded operation on each element of which only those that a mask keeps raise anything: the others take their draws alone. -/
def VeCtx.eachIn (k : VeCtx) (mask : List Bool) (f : VV → VV × Nat) (x : VM) (l : List VV) : VM × List VV :=
  thread (fun x (p : VV × Nat) =>
    let y := k.round x p.2 (f p.1)
    if mask.getD p.2 true then y else ((y.1.1, x.2), y.2)) x l.zipIdx

/-- The exponential of the formula of R118: exactly 0 at −∞ and +∞ at +∞, where EXP by itself has no stated result. -/
def VeCtx.softExp (k : VeCtx) (v : VV) : VV × Nat :=
  match v.n with
  | .inf neg => (if neg then .zero else v, 0)
  | _ => k.fn 0x10 v

/-- SOFTMAX with temperature `t`; `mask` false takes an element out. Every element takes the same draws whatever its data (R126). -/
def VeCtx.softmax (k : VeCtx) (t : VV) (mask : List Bool) (x : VM) (l : List VV) : VM × List VV :=
  let kept := ((l.zip mask).filter (·.2)).map (·.1)
  let top := kept.foldl (fun m v => if m.below v.n then v.n else m) (.inf true)
  let (x, tm) := k.round x 0 (k.mul t (.ofNum top))
  let (x, ps) := k.eachIn mask (k.mul t) x l
  let (x, zs) := k.eachIn mask (fun v => k.sub v tm) x ps
  let (x, es) := k.eachIn mask k.softExp x zs
  let es := (es.zip mask).map (fun p => if p.2 then p.1 else .zero)
  let (x, sm) := k.sum x es
  let (x, ys) := k.eachIn mask (fun v => k.div v sm) x es
  (x, (ys.zip mask).map (fun p => if p.2 then p.1 else .zero))

/-- The rows that R118 writes without the formula: all NaN, or all zeros. A NaN counts even in an element that the mask takes out, and the
masked places of such a row are NaN as well (DESIGN CHOICE, log entry 35: the rule says "a row that holds a NaN"). Such a row raises no flag, a
signalling NaN included: the formula is not evaluated (DESIGN CHOICE, log entry 35). -/
def VeCtx.softRow (k : VeCtx) (t : VV) (mask : List Bool) (x : VM) (l : List VV) : VM × List VV :=
  let kept := ((l.zip mask).filter (·.2)).map (·.1)
  let nan := l.find? VV.isNan
  let zero := kept.all (fun v => v.n == .inf true)
  let (y, vs) := k.softmax t mask x l
  match nan with
  | some v => ((y.1, x.2), l.map (fun _ => if k.o.conforming then k.quiet v else k.nan))
  | none => if zero then ((y.1, x.2), l.map (fun _ => .zero)) else (y, vs)

/-- The denominator's share of a normalisation (R119, R120): each element over √(m + ε), zero where that is zero. -/
def VeCtx.normalise (k : VeCtx) (x : VM) (l : List VV) (m eps : VV) : VM × List VV :=
  let (x, q) := k.round x 0 (k.add m eps)
  let (x, den) := k.round x 0 (k.sqrt q)
  let (y, vs) := k.each (fun _ v => k.div v den) x l
  if den.n.isZero then ((y.1, x.2), l.map (fun _ => .zero)) else (y, vs)

/-- LAYERNORM (0x29), RMSNORM (0x2A) and L2NORM (0x2B) of one row. -/
def VeCtx.norm (k : VeCtx) (vop : Nat) (eps : VV) (gamma beta : List VV) (x : VM) (l : List VV) : VM × List VV :=
  let n : VV := .ofNum (Num.ofInt l.length)
  let (x, d) : VM × List VV :=
    if vop = 0x29 then
      let (x, sm) := k.sum x l
      let (x, mu) := k.round x 0 (k.div sm n)
      k.each (fun _ v => k.sub v mu) x l
    else (x, l)
  let (x, sq) := k.each (fun _ v => k.mul v v) x d
  let (x, ss) := k.sum x sq
  let (x, ms) : VM × VV := if vop = 0x2B then (x, ss) else k.round x 0 (k.div ss n)
  let (x, ys) := k.normalise x d ms eps
  if vop = 0x2B then (x, ys)
  else
    let (x, ys) := k.each (fun j v => k.mul (gamma.getD j .one) v) x ys
    if vop = 0x29 then k.each (fun j v => k.add v (beta.getD j .zero)) x ys else (x, ys)

/-! ### SIGNPACK, random numbers, sorting -/

/-- SIGNPACK (R121): the bytes of a row. -/
def signBytes (l : List VV) : List Nat :=
  (List.range (l.length / 8)).map (fun b =>
    ((List.range 8).map (fun i => if (Num.fin false 0 0).lt ((l.getD (8 * b + i) .zero).n) then 2 ^ i else 0)).sum)

/-- RAND_U and RAND_N of lane `j` (R126). -/
def VeCtx.rand (k : VeCtx) (normal : Bool) (x : VM) (j : Nat) : VM × VV :=
  let (s, d) := x.1.drawWord k.core (j % k.lanes)
  let v := if normal then randNormal (BitVec.ofNat 32 (d.toNat / 2 ^ 32))
    else .fin false (d.toNat / 2 ^ 40) (-24)
  ((s, x.2), if v = .nan then k.nan else .ofNum v)

/-- Whether key `a` comes before key `b` (R133): NaN keys last in both orders, equal keys by index. -/
def keyBefore (ascending : Bool) (a b : VV × Nat) : Bool :=
  if a.1.isNan || b.1.isNan then (!a.1.isNan && b.1.isNan) || (a.1.isNan && b.1.isNan && decide (a.2 < b.2))
  else if a.1.n.eq b.1.n then decide (a.2 < b.2)
  else if ascending then a.1.n.lt b.1.n else b.1.n.lt a.1.n

/-- TOPK and SORT (R132 to R134): `len` keys with their indices, filled past the row with NaN and 0xFFFF_FFFF. -/
def VeCtx.topk (k : VeCtx) (ascending : Bool) (len : Nat) (l : List VV) : List (VV × Nat) :=
  let got := (sortBy (keyBefore ascending) l.zipIdx).take len
  got.map (fun p => (k.pass p.1, p.2)) ++ List.replicate (len - got.length) (k.nan, 0xFFFFFFFF)

/-! ### Operands of a VEC step -/

/-- A code of a short format as a lane value: on the conforming path a NaN brings its payload, already quiet (R48, R59). -/
def VeCtx.ofShort (k : VeCtx) (f : Flt) (code : Nat) : VV :=
  let n := f.decode false code
  if n = .nan then (if k.o.conforming && f.isNan code then { n := .nan, code := k.w.quiet (nanWiden f k.w code) } else k.nan) else .ofNum n

/-- The values of a row in lanes (R110, R111). A block-scaled element whose value lies below the normal range of F32 is taken exactly, on
either path: R49 gives its value and R60 speaks of F32 inputs alone (DESIGN CHOICE, log entry 29). -/
def State.veRow (s : State) (r : Run) (k : VeCtx) (a : VecArgs) (v : View) (row : Nat) : List VV :=
  match fmtOf v.desc.format with
  | some (.flt f) => (s.rowCodes r.part r.id v row).map (fun c => if f.mbits ≥ 23 then k.ofLong f c else k.ofShort f c)
  | _ => (s.rowNums r.part r.id v k.o.conforming a.dequant row).map (fun n => if n = .nan then k.nan else .ofNum n)

/-- PARAM in a lane. -/
def VeCtx.param (k : VeCtx) (a : VecArgs) : VV := k.ofLong fltF32 a.param.toNat

/-- The values that operand B or C supplies to row `row` of `n` elements: bits 13:12 of its field (R197), `dflt` where there is none. -/
def State.veOperand (s : State) (r : Run) (k : VeCtx) (a : VecArgs) (use idx row n : Nat) (dflt : VV) : List VV :=
  if use = 3 then List.replicate n (k.param a)
  else
    match (vecOperand use idx).bind (s.operand r k.core) with
    | none => List.replicate n dflt
    | some v =>
      if use = 2 then List.replicate n ((s.veRow r k a v 0).headD .zero)
      else (s.veRow r k a v (if use = 1 then 0 else row)).take n

/-- Index values of a row of an I32 tensor (R128). -/
def State.idxRow (s : State) (r : Run) (v : View) (row : Nat) : List Int := (s.rowCodes r.part r.id v row).map (signedOf 32)

/-- A step that meets an index outside its dimension (R131, R460): the command fails. -/
def State.badIndex (s : State) (r : Run) (core : Nat) : State := s.failRun r.id .indexOutOfRange (r.coreNo core)

/-- The indices that a step's index tensor gives to `n` positions of row `row`: its own row, row 0 for every row, or its one value for every position
(R128, R197). -/
def State.idxFor (s : State) (r : Run) (a : VecArgs) (v : View) (row n : Nat) : List Int :=
  if a.bUse = 2 then List.replicate n ((s.idxRow r v 0).headD 0) else (s.idxRow r v (if a.bUse = 1 then 0 else row)).take n

def inExtent (i : Int) (n : Nat) : Bool := decide (0 ≤ i) && decide (i < (n : Int))

/-! ### Rows of a VEC step -/

/-- Writes what a row operation made from element 0 of row `row`. -/
def State.veWrite (x : VM) (r : Run) (v : View) (row c0 : Nat) (o : RowOut) : State := (x.1.addEv r.id x.2).writeRow r v row c0 o

/-- Every operation that makes one row of OUT from one row of A. Where an operation's own roundings and the conversion into OUT_FORMAT draw from one
generator, an elementwise operation draws for both element by element; RAND, SOFTMAX and the normalisations draw for the whole row first, and
`VeCtx.emitAll` then for its conversions (DESIGN CHOICE, log entry 29: R126 and R127 order the draws within a unit no further). -/
def VeCtx.rowOp (k : VeCtx) (a : VecArgs) (b c : List VV) (x : VM) (l : List VV) : VM × RowOut :=
  if vopElementwise a.vop then
    let args := l.zipIdx.map (fun p => (p.2, p.1, b.getD p.2 .zero, c.getD p.2 .zero))
    let (x, vs) := thread (k.elemStep a.vop a.pred) x args
    let o := k.emit vs
    ((x.1, x.2.add o.ev), o)
  else
    match a.vop with
    | 0x20 => let (x, v) := k.sum x l; k.emitAll x [v]
    | 0x21 =>
      let (x, sq) := thread (fun x (p : VV × Nat) => k.square x p.2 p.1) x l.zipIdx
      let (x, v) := k.sum x sq
      k.emitAll x [v]
    | 0x22 => let (x, v) := k.reduce (k.combMm true) none x l; k.emitAll x [v]
    | 0x23 => let (x, v) := k.reduce (k.combMm false) none x l; k.emitAll x [v]
    | 0x24 => k.argmax x l
    | 0x28 => let (x, vs) := k.softRow (k.param a) (b.map (fun v => !v.n.isZero)) x l; k.emitAll x vs
    | 0x2C => (x, { codes := signBytes l, exps := [], ev := {} })
    | 0x30 => let (x, vs) := thread (k.rand false) x (List.range l.length); k.emitAll x vs
    | 0x31 => let (x, vs) := thread (k.rand true) x (List.range l.length); k.emitAll x vs
    | _ => let (x, vs) := k.norm a.vop (k.param a) b c x l; k.emitAll x vs

/-- One row of an ordinary VEC step. -/
def State.veStepRow (r : Run) (k : VeCtx) (a : VecArgs) (va : Option View) (vo : View) (s : State) (row : Nat) : State :=
  let l := match va with
    | some v => s.veRow r k a v row
    | none => List.replicate (vo.desc.ext 0) .zero
  let b := s.veOperand r k a a.bUse a.b row l.length (if a.vop = 0x28 || decide (0x29 ≤ a.vop) then .one else .zero)
  let c := s.veOperand r k a a.cUse a.c row l.length .zero
  let (x, o) := k.rowOp a b c (s, {}) l
  State.veWrite x r vo row 0 o

/-- One row of TOPK or SORT: keys into OUT, indices into C where it names a tensor. -/
def State.sortRow (r : Run) (k : VeCtx) (a : VecArgs) (va vo : View) (vc : Option View) (s : State) (row : Nat) : State :=
  let l := s.veRow r k a va row
  let got := k.topk a.ascending (if a.vop = 0x40 then a.topkK else l.length) l
  let (x, o) := k.emitAll (s, {}) (got.map (·.1))
  let s := State.veWrite x r vo row 0 o
  match vc with
  | some v => s.stepCodes r v row 0 (got.map (·.2))
  | none => s

/-- One LB32 block (R457, R460): none where its H byte is out of range. -/
def VeCtx.lbBlock (k : VeCtx) (exp h : Nat) (x : VM) (j0 : Nat) (vs : List VV) : VM × Lb32 :=
  let (x, ds) := thread (fun x j => let (s, d) := State.drawSr x.1 k.core ((j0 + j) % k.lanes) k.o.mode; ((s, x.2), d)) x (List.range vs.length)
  if exp = 255 || vs.any VV.isNan then (x, lbNan false false)
  else
    let hr := if h = 0 then 8 else h
    let limit : Nat := 2 ^ (23 - hr) - 1
    let each : List (Int × Nat) := (vs.zip ds).map (fun p =>
      match p.1.n with
      | .fin neg m e =>
        let q := (roundAt k.o.mode neg m (e + 149 - exp) false 0 p.2).1
        let v := min q limit
        (if neg then -(v : Int) else (v : Int), if limit + 1 < q then 1 else 0)
      | .inf neg => (if neg then -(limit : Int) else (limit : Int), 1)
      | .nan => (0, 0))
    let es := each.map (·.1)
    ((x.1, x.2.add { sats := (each.map (·.2)).sum }), { e := es, exp := exp, rescaled := false, raw := false, residue := lbResidue es })

/-- Blocks of one row of a conversion into LB32, from block `b` on; `eb` holds EXP and H of every block of the tensor. -/
def State.lbRow (r : Run) (k : VeCtx) (vo : View) (eb : List Nat) (row nb : Nat) (l : List VV) : State → List Nat → State
  | s, [] => s
  | s, b :: bs =>
    let i := 2 * (row * nb + b)
    if 16 < eb.getD (i + 1) 0 then s.badIndex r k.core
    else
      let (x, blk) := k.lbBlock (eb.getD i 0) (eb.getD (i + 1) 0) (s, {}) (32 * b) ((l.drop (32 * b)).take 32)
      State.lbRow r k vo eb row nb l ((x.1.addEv r.id x.2).stepWr r vo 0 (vo.desc.rowOff row + 100 * b) (lbBytes blk)) bs

/-- One row of a CVT into LB32 (R460). -/
def State.lbStepRow (r : Run) (k : VeCtx) (a : VecArgs) (va vo : View) (s : State) (row : Nat) : State :=
  if (s.run? r.id).isNone then s
  else
    let l := s.veRow r k a va row
    let eb := match (vecOperand a.bUse a.b).bind (s.operand r k.core) with
      | some v => s.rowCodes r.part r.id v 0
      | none => []
    State.lbRow r k vo eb row (l.length / 32) l s (List.range (l.length / 32))

/-! ### GATHER and SCATTER (R128 to R131) -/

/-- Scatters the source elements of a row into working values of a destination row; none at an index outside it. -/
def VeCtx.scatter (k : VeCtx) (add : Bool) : VM → List VV → List (Nat × VV × Int) → Option (VM × List VV)
  | x, row, [] => some (x, row)
  | x, row, (i, v, d) :: rest =>
    if !inExtent d row.length then none
    else
      let j := d.toNat
      let (x, w) := if add then k.comb x i (row.getD j .zero) v else (x, k.pass v)
      VeCtx.scatter k add x (setAt j w row) rest

/-- One source element goes to its destination: what stands there is read, added to where the step adds, and written back in OUT's format,
each with the draws of the source's lane (R126, R131). -/
def State.scatterOne (r : Run) (k : VeCtx) (a : VecArgs) (vo : View) (row : Nat) (s : State) (p : Nat × VV × Int) : State :=
  if (s.run? r.id).isNone then s
  else if !inExtent p.2.2 (vo.desc.ext 0) then s.badIndex r k.core
  else
    let j := p.2.2.toNat
    let x : VM := (s, {})
    let (x, w) := if a.vop = 0x3A then k.comb x p.1 ((s.veRow r k a vo row).getD j .zero) p.2.1 else (x, k.pass p.2.1)
    let (x, d) := k.outDraw x p.1
    let o := k.emit [(w, d)]
    (x.1.addEv r.id (x.2.add o.ev)).stepCodes r vo row j o.codes

/-- Scatters into one row of OUT: element by element, and a block-scaled row whole, in one conversion (R675). -/
def State.scatterInto (r : Run) (k : VeCtx) (a : VecArgs) (vo : View) (row : Nat) (s : State) (l : List (Nat × VV × Int)) : State :=
  if blockSize k.out = 0 then l.foldl (State.scatterOne r k a vo row) s
  else
    match VeCtx.scatter k (a.vop == 0x3A) (s, {}) (s.veRow r k a vo row) l with
    | none => s.badIndex r k.core
    | some (x, new) =>
      let (x, o) := k.emitAll x new
      State.veWrite x r vo row 0 o

/-- GATHER by element (MODE 1): output element i is source element idx[i] of the row. -/
def State.gatherElems (r : Run) (k : VeCtx) (a : VecArgs) (va vb vo : View) (s : State) (row : Nat) : State :=
  if (s.run? r.id).isNone then s
  else
    let l := s.veRow r k a va row
    let idx := s.idxFor r a vb row (vo.desc.ext 0)
    if idx.any (fun i => !inExtent i l.length) then s.badIndex r k.core
    else
      let (x, o) := k.emitAll (s, {}) (idx.map (fun i => k.pass (l.getD i.toNat .zero)))
      State.veWrite x r vo row 0 o

/-- SCATTER and SCATTER_ADD by element (MODE 1). -/
def State.scatterElems (r : Run) (k : VeCtx) (a : VecArgs) (va vb vo : View) (s : State) (row : Nat) : State :=
  if (s.run? r.id).isNone then s
  else
    let l := s.veRow r k a va row
    State.scatterInto r k a vo row s ((l.zip (s.idxFor r a vb row l.length)).zipIdx.map (fun p => (p.2, p.1.1, p.1.2)))

/-- GATHER by row (MODE 0): output row i is source row idx[i]. -/
def State.gatherRows (r : Run) (k : VeCtx) (a : VecArgs) (va vo : View) (idx : List Int) (s : State) (i : Nat) : State :=
  if (s.run? r.id).isNone then s
  else
    match idx[i]? with
    | none => s
    | some d =>
      if !inExtent d va.desc.rows then s.badIndex r k.core
      else
        let (x, o) := k.emitAll (s, {}) (((s.veRow r k a va d.toNat).take (vo.desc.ext 0)).map k.pass)
        State.veWrite x r vo i 0 o

/-- SCATTER and SCATTER_ADD by row (MODE 0), source row i into destination row idx[i]. -/
def State.scatterRows (r : Run) (k : VeCtx) (a : VecArgs) (va vo : View) (idx : List Int) (s : State) (i : Nat) : State :=
  if (s.run? r.id).isNone then s
  else
    match idx[i]? with
    | none => s
    | some d =>
      if !inExtent d vo.desc.rows then s.badIndex r k.core
      else
        State.scatterInto r k a vo d.toNat s (((s.veRow r k a va i).take (vo.desc.ext 0)).zipIdx.map (fun p => (p.2, p.1, (p.2 : Int))))

/-! ### The VEC step -/

/-- Operations that pass values on without rounding them into the working format. -/
def passesOn (vop : Nat) : Bool := [7, 8, 9, 0xA, 0xC, 0x22, 0x23, 0x38, 0x39, 0x40, 0x41].contains vop

/-- Whether a tensor's values need not fit the working format: dequantised codes, and in F32 the codes of I32 (R111). -/
def wideIn (f64 dequant : Bool) (format : Nat) : Bool :=
  match fmtOf format with
  | some (.int b _) => dequant || (b == 32 && !f64)
  | _ => false

/-- Whether a step's sums are I32 accumulations (R55): RSUM, RSUMSQ and SCATTER_ADD of integer codes into I32 (log entry 35). -/
def intSums (vop inFmt outFmt : Nat) (dequant : Bool) : Bool :=
  (vop == 0x20 || vop == 0x21 || vop == 0x3A) && outFmt == 9 && !dequant &&
    (match fmtOf inFmt with
     | some (.int ..) => true
     | _ => false)

/-- The context of a VEC step: F64 where any of its tensors is F64; an LB32 source is read on the fast path's terms (R461). -/
def vecCtx (g : Image) (core : Nat) (a : VecArgs) : VeCtx :=
  let named := (if a.a = noTensor then [] else [a.a]) ++ (vecOperand a.bUse a.b).toList ++ (vecOperand a.cUse a.c).toList ++ [a.out]
  let f64 := named.any (fun i => (g.desc i).format == 1)
  let lb := (g.desc a.a).format == 0x11
  let values := (if a.a = noTensor then [] else [a.a]) ++ (if 0x38 ≤ a.vop then [] else (vecOperand a.bUse a.b).toList ++ (vecOperand a.cUse a.c).toList)
  { core := core, w := if f64 then fltF64 else fltF32, o := ⟨a.round, a.ieeeOvf, a.conforming && !lb⟩, out := (g.desc a.out).format
    cvt := a.vop == 0x0D || (passesOn a.vop && values.any (fun i => wideIn f64 a.dequant (g.desc i).format))
    isum := intSums a.vop (g.desc a.a).format (g.desc a.out).format a.dequant }

/-- Device addresses that a VEC step reads. -/
def State.vecReads (s : State) (r : Run) (core : Nat) (a : VecArgs) : List (Nat × Nat) :=
  let gs := vopMoves a.vop
  let (r0, n) := vecRows r.img a
  let whole (v : View) : List (Nat × Nat) := s.cellSpans r.id v 0 v.desc.rows 0 (v.desc.ext 0)
  let rows (v : View) : List (Nat × Nat) := if gs then whole v else s.cellSpans r.id v r0 n 0 (v.desc.ext 0)
  let len := (r.img.desc (if a.a = noTensor then a.out else a.a)).ext 0
  let opnd (use i : Nat) : List (Nat × Nat) := match (vecOperand use i).bind (s.operand r core) with
    | some v =>
      if gs || v.desc.format = 7 then whole v
      else if use = 2 then s.cellSpans r.id v 0 1 0 1
      else s.cellSpans r.id v (if use = 1 then 0 else r0) (if use = 1 then 1 else n) 0 (min len (v.desc.ext 0))
    | none => []
  (match (if a.a = noTensor then none else s.operand r core a.a) with
    | some v => rows v
    | none => []) ++ opnd a.bUse a.b ++ (if vopSorts a.vop then [] else opnd a.cUse a.c)

/-- The effect of a VEC step whose operands have been read. -/
def State.runVec (s : State) (r : Run) (core : Nat) (a : VecArgs) : State :=
  let k := vecCtx r.img core a
  let (r0, n) := vecRows r.img a
  let rows := (List.range n).map (r0 + ·)
  let va := if a.a = noTensor then none else s.operand r core a.a
  let vb := (vecOperand a.bUse a.b).bind (s.operand r core)
  let vc := (vecOperand a.cUse a.c).bind (s.operand r core)
  match s.operand r core a.out with
  | none => s
  | some vo =>
    match va, vb with
    | some v, some b =>
      let idx := if a.bUse = 2 then s.idxFor r a b 0 (r0 + n) else (List.range b.desc.rows).flatMap (s.idxRow r b)
      if a.vop = 0x38 then
        if a.mode = 1 then rows.foldl (State.gatherElems r k a v b vo) s
        else rows.foldl (State.gatherRows r k a v vo idx) s
      else if a.vop = 0x39 || a.vop = 0x3A then
        if a.mode = 1 then rows.foldl (State.scatterElems r k a v b vo) s else rows.foldl (State.scatterRows r k a v vo idx) s
      else if vopSorts a.vop then rows.foldl (State.sortRow r k a v vo vc) s
      else if k.out = 0x11 then rows.foldl (State.lbStepRow r k a v vo) s
      else rows.foldl (State.veStepRow r k a va vo) s
    | some v, none =>
      if vopSorts a.vop then rows.foldl (State.sortRow r k a v vo vc) s else rows.foldl (State.veStepRow r k a va vo) s
    | none, _ => rows.foldl (State.veStepRow r k a va vo) s

/-- VEC (R110 to R134). -/
def execVec (core : Nat) (a : VecArgs) (s : State) : Res :=
  .next (s.issue core (.vec a) (fun s r _ => s.reading r.id (s.vecReads r core a) (fun s => s.runVec r core a)))

end Sys2Proof.Machine
end

