-- ==== Sys2Proof/Machine/Cost.lean ====
section
/-!
DEFINITION. What the engine-cycle tables give for each step (chapters *Matrix engine*, *Vector engine and quantisation*, *Memory tiers*), and
the completion of a step, which adds that time to its run (R414).
-/
namespace Sys2Proof.Machine

open Sys2Proof

/-! ### Matrix steps -/

/-- Cycles for which a matrix step occupies the array: M + Kp + Np − 1, in DUAL the larger of M + 191 and 256 (R88); the passes of SP2 and
SP3 (R89, R90); one row per cycle when K is 0 and the step is FINAL (R107); none when M or N is 0 (R106). -/
def arrayCycles (shape wFormat m n k : Nat) (final : Bool) : Nat :=
  if m = 0 || n = 0 then 0
  else if k = 0 then (if final then m else 0)
  else if wFormat = 0x0F then 3 * m + 2 * 255
  else if wFormat = 0x10 then 6 * m + 3 * 255
  else
    match shape with
    | 3 => m + 191
    | 4 => max (m + 191) 256
    | _ => m + 255

/-- Cycles of an MV step: a column of S slices holds the read port for S cycles and the last reaches the accumulator 10 cycles after its
last slice (R101, R103). -/
def mvCycles (wFormat m n k : Nat) (final : Bool) : Nat :=
  if m = 0 || n = 0 then 0
  else if k = 0 then (if final then m else 0)
  else n * ceilDiv k (sliceLen wFormat) + 10

/-! ### Vector steps -/

/-- Cycles per 128-element chunk of a VE operation: on the fast path, on the conforming path, and in F64, where 32 lanes work (R110, R114). -/
def chunkCycles (vop : Nat) (conforming f64 : Bool) : Nat :=
  let pick (fast conf wide : Nat) : Nat := if f64 then wide else if conforming then conf else fast
  if vop = 0x04 || vop = 0x05 then pick 2 8 32
  else if vop = 0x06 then pick 16 16 64
  else if decide (0x10 ≤ vop) && decide (vop ≤ 0x18) then pick 2 2 8
  else if decide (0x28 ≤ vop) && decide (vop ≤ 0x2B) then pick 3 3 12
  else pick 1 1 4

/-- Row operations take 8 cycles more per row (R114). -/
def rowLatency (vop : Nat) : Nat := if decide (0x20 ≤ vop) && decide (vop ≤ 0x2B) then 8 else 0

/-- Cycles of a TOPK row of `len` elements; a SORT row has k = `len` (R135). -/
def sortCycles (len k : Nat) : Nat := ceilDiv len 128 * (ceilDiv k 128 + 1) + 28 + ceilDiv k 128

/-- Cycles of a VEC step over `n` rows of `len` elements (R110, R114, R135). -/
def vecCycles (vop k : Nat) (conforming f64 : Bool) (n len : Nat) : Nat :=
  if vop = 0x40 then n * sortCycles len k
  else if vop = 0x41 then n * sortCycles len len
  else n * ((if f64 then ceilDiv len 32 * (chunkCycles vop conforming f64 / 4) else ceilDiv len 128 * chunkCycles vop conforming f64) + rowLatency vop)

/-! ### Copy-engine steps -/

/-- Bytes of a tidepool range that fall in one of the window's banks of 384 KiB (R151). -/
def bankShare (off n bank : Nat) : Nat := min (off + n) ((bank + 1) * 0x60000) - max off (bank * 0x60000)

/-- Cycles of a FILL: 64 bytes per cycle in each bank that the range touches (R155). -/
def fillCycles (off n : Nat) : Nat := ((List.range 16).map (fun b => ceilDiv (bankShare off n b) 64)).foldl max 0

/-- The engine kind that a step is charged to (ME, MV, VE, CE) and the cycles that the tables give it; none where no table gives any. -/
def State.stepCycles (s : State) (r : Run) (core : Nat) (k : StepKind) : Option (Nat × Nat) :=
  match k with
  | .loadWeights _ => some (0, 128)
  | .streamMm a =>
    let wf := (r.img.desc a.w).format
    if r.img.onMv false a then some (1, mvCycles wf a.m a.n a.k a.final) else some (0, arrayCycles a.shape wf a.m a.n a.k a.final)
  | .mv a => some (1, mvCycles (r.img.desc a.w).format a.m a.n a.k a.final)
  | .vec a =>
    let x := r.img.desc (if a.a = noTensor then a.out else a.a)
    some (2, vecCycles a.vop a.topkK a.conforming (vecCtx r.img core a).f64 (vecRows r.img a).2 (x.ext 0))
  | .copy _ src _ => some (3, ceilDiv (((s.operand r core src).map (fun v => v.desc.arrayBytes)).getD 0) 256)
  | .fill _ off n _ => some (3, fillCycles off n)
  | .tpCopy _ _ n => some (3, ceilDiv n 64)
  | _ => none

/-- Adds a completed step's time to its run, in picoseconds at the clock of the partition (R105, R414). -/
def State.addBusy (s : State) (r : Run) (core : Nat) (k : StepKind) : State :=
  match s.stepCycles r core k with
  | none => s
  | some (e, n) =>
    let t := n * 1000000 / s.coreMhz r.part
    let put (x : Run) : Run := { x with busy := setAt e (x.busy.getD e 0 + t) x.busy }
    s.updRun r.id put

/-- Whether an entry of what is in flight is next to complete on the copy engine, which serves its queue in order; any other engine's step may
(R200). -/
def Run.mayEnd (r : Run) (c : CoreRun) (j : Nat) : Bool := !(r.copyQueue c).contains j || (r.copyQueue c).head? == some j

/-- A prefetch entry has completed (R204). -/
def State.prefetchDone (s : State) (id : CmdId) (flat entry : Nat) : State :=
  let done (x : CoreRun) : CoreRun := { x with pfDone := addOnce entry x.pfDone }
  (s.updCore id flat done).stepDone id flat (pfKey + entry)

/-- ENGINE_STEP_COMPLETE: a step's last write is visible; a SWAP completes by taking effect and a COLLECTIVE by its operation (R83, R467).
Step 65536 + e is entry e of the prefetch schedule (log entry 76). -/
def execEngineStepComplete (core stepIdx : Nat) (s : State) : Res :=
  .next (
    match s.runOn core with
    | none => s
    | some r =>
      match (r.img.steps.getD (r.coreNo core) [])[stepIdx]?, r.cores.find? (fun c => c.flat = core) with
      | some w, some c =>
        match w.kind with
        | .swap _ => s
        | .collective _ => s
        | k => if stepIdx ∈ c.inflight && r.mayEnd c stepIdx then (s.addBusy r core k).stepDone r.id core stepIdx else s
      | none, some c => if pfKey ≤ stepIdx && stepIdx ∈ c.inflight && r.mayEnd c stepIdx then s.prefetchDone r.id core (stepIdx - pfKey) else s
      | _, none => s)

end Sys2Proof.Machine
end

