-- ==== Sys2Proof/Machine/Security.lean ====
section
/-!
DEFINITION. Security and attestation (chapter *Security and attestation*): group 0xA, the SPDM requests, IDE, and the debug chain.
-/
namespace Sys2Proof.Machine

open Sys2Proof

/-! ### Reports (R577, R578) -/

/-- SHA-256 of a ROMX image; zeros when none runs. -/
def romxDigest (r : Option Romx) : Bytes :=
  match r with
  | some r => if r.digest.isEmpty then sha256 Config.factoryImage else r.digest
  | none => zeros 32

/-- The identity public key (R569, R570). -/
def State.idKey (s : State) : Bytes := s.sec.idPub

/-- CONFIG_DIGEST: the stored record. -/
def State.configDigest (s : State) : Bytes := sha256 s.stored.bytes

/-- PARTITION_DIGEST: ISOLATION and the PARTITION array in force. -/
def State.partitionDigest (s : State) : Bytes :=
  sha256 (leBytes 1 s.cfg.inForce.isolation ++ (List.range 8).flatMap (fun p => (s.entry p).bytes))

/-- Bytes 0x000 to 0x0FF of a report (*Attestation report layout* table, R577). -/
def State.reportBody (s : State) (nonce : Nat) : Bytes :=
  let img := s.sec.image
  let v (f : Romx → Nat) : Nat := (img.map f).getD 0
  leBytes 4 0x54414B4E ++ leBytes 2 1 ++ leBytes 2 0x4060 ++ leBytes 8 s.sec.serial ++ leBytes 16 nonce ++ leBytes 4 s.devId ++ leBytes 4 0x00010000
    ++ leBytes 1 s.cfl.protLevel
    ++ leBytes 1 ((if s.configPending then 1 else 0) + (if img.isNone then 2 else 0) + (if s.sec.debugOpened then 4 else 0))
    ++ leBytes 1 (match s.sec.running with
      | none => 0xFF
      | some b => if b then 1 else 0)
    ++ zeros 1 ++ leBytes 2 (v (·.major)) ++ leBytes 2 (v (·.minor)) ++ leBytes 4 (v (·.svn)) ++ leBytes 4 s.sec.minSvn ++ leBytes 8 s.cfl.protCounter
    ++ leBytes 8 s.power.uptimeUs ++ zeros 24 ++ romxDigest img ++ s.configDigest ++ s.partitionDigest ++ sha256 s.idKey ++ zeros 32

/-- A signature by the identity key (R569): 16,224 bytes. -/
def signed (msg : Bytes) : Bytes := slice (Config.identitySign fuseIdSeed (sha256 msg)) 0 16224

/-- ATTEST (R577, R578). -/
def execAttest (id : CmdId) (nonce : Nat) (s : State) : Res :=
  .next (s.startConfig id (.attest id nonce) (fun s o => do
    needRbuf o 16480
    okResult s (s.reportBody nonce ++ signed (s.reportBody nonce))))

/-- IDENTITY_READ (R570). -/
def execIdentityRead (id : CmdId) (s : State) : Res :=
  .next (s.startCmd id (.identityRead id) (fun s o => do
    needRbuf o (56 + Config.certChain.length)
    okResult s (s.idKey ++ zeros 4 ++ leBytes 4 Config.certChain.length ++ Config.certChain)))

/-! ### ROMX (R571 to R576) -/

/-- A NAND profile from its 256 bytes (R311). -/
def profileOf (b : Bytes) : Profile :=
  { matchId := field b 8 8, model := slice b 0x10 20, cell := field b 0x24 1, planes := field b 0x25 1, spare := field b 0x26 2, blocks := field b 0x28 4
    ppb := field b 0x2C 2, peRated := field b 0x2E 2, peRatedSlc := field b 0x30 4, parity := field b 0x34 1, retryLevels := field b 0x35 1
    softFrom := field b 0x36 1, readRefresh := field b 0x38 4, mts := field b 0x3C 2, tRead := field b 0x3E 2, tProg := field b 0x40 2
    tErase := field b 0x42 2, tSuspend := field b 0x44 2, refreshBits := field b 0x46 2, retryTable := (List.range 32).map (fun i => field b (0x48 + 4 * i) 4) }

/-- The tables of an image lie inside it, and no hook number appears twice (R571, R572). -/
def romxTablesOk (b : Bytes) : Bool :=
  let len := field b 0xC 4
  let hooks := field b 0x10 1
  let hookOff := field b 0x14 4
  let hook (i : Nat) : Bytes := slice b (hookOff + 8 * i) 8
  let nums := (List.range hooks).map (fun i => field (hook i) 0 1)
  decide (hooks ≤ 64) && decide (hookOff + 8 * hooks ≤ len) && decide (field b 0x18 4 + 256 * field b 0x12 2 ≤ len) && decide nums.Nodup
    && (List.range hooks).all (fun i => decide (field (hook i) 0 1 < 64) && zeroAt (hook i) 1 3 && decide (field (hook i) 4 4 < len))

/-- Whether the ROM accepts an image (R571, R572). -/
def romxValid (minSvn : Nat) (b : Bytes) : Bool :=
  let len := field b 0xC 4
  field b 0 4 == 0x58524B4E && len == b.length && len % 256 == 0 && decide (len ≤ 2 ^ 24) && decide (0x80 + 16224 ≤ len)
    && decide (field b 0x11 1 < 2) && zeroAt b 0x1C 4 && zeroAt b 0x50 48 && decide (field b 8 4 ≤ 64) && decide (minSvn ≤ field b 8 4)
    && romxTablesOk b && sha256 (slice b 0x20 48) == Config.vendorKeyHash
    && Config.slhVerify (slice b 0x20 48) (sha256 (b.take (len - 16224))) (slice b (len - 16224) 16224)

/-- What the device keeps of an image. -/
def romxOf (b : Bytes) : Romx :=
  { major := field b 4 2, minor := field b 6 2, svn := field b 8 4, commitSvn := bitAt (field b 0x11 1) 0, digest := sha256 b
    profiles := (List.range (field b 0x12 2)).map (fun i => profileOf (slice b (field b 0x18 4 + 256 * i) 256)) }

/-- The first byte of the copy that is not running (R542, R576); with none running, of copy B. -/
def SecSt.spareCopy (c : SecSt) : Nat := if c.running == some true then 0 else 0x01000000

/-- Puts what is known of an image in the place of the copy that is not running. -/
def SecSt.setSpare (c : SecSt) (r : Option Romx) : SecSt := if c.running == some true then { c with romxA := r } else { c with romxB := r }

/-- The write of an image begins (R544, R576): the copy is erased, and holds no image until it has been written and read back. What a power loss or a reset
leaves there is undefined (R562). -/
def State.openRomx (s : State) (id : CmdId) (b : Bytes) : State :=
  let base := s.sec.spareCopy
  { s with sec := { s.sec.setSpare none with updating := some (id, b) }
           cfl := { s.cfl with arr := s.cfl.arr.clear base 0x01000000
                               undefinedAt := s.cfl.undefinedAt.filter (fun r => r.1 / 0x01000000 ≠ base / 0x01000000) ++ [(base, 0x01000000)] } }

/-- The image stands in the array. -/
def State.wroteRomx (s : State) (b : Bytes) : State :=
  let base := s.sec.spareCopy
  { s with sec := { s.sec with updating := none }
           cfl := { s.cfl with arr := (s.cfl.arr.clear base 0x01000000).writeN 0xFF base b
                               undefinedAt := s.cfl.undefinedAt.filter (fun r => r ≠ (base, 0x01000000)) } }

/-- The copy is read back and checked again under R572: only then is it the package's (R544, R576). -/
def State.endRomx (s : State) (id : CmdId) (b : Bytes) : State :=
  let s := s.wroteRomx b
  let back := s.cfl.arr.readN 0xFF s.sec.spareCopy b.length
  if romxValid s.sec.minSvn back then ({ s with sec := s.sec.setSpare (some (romxOf back)) } : State).completeId id .ok 0 []
  else s.completeId id .signatureInvalid 0 []

/-- ROMX_UPDATE (R544, R576), in two rows: the first checks the image and begins to write it, the second reads it back and completes. -/
def execRomxUpdate (id : CmdId) (s : State) : Res :=
  .next (match s.startable id (.romxUpdate id), s.sec.updating with
    | none, some u => if u.1 = id then s.endRomx id u.2 else s
    | _, _ => s.startConfig id (.romxUpdate id) (fun s o => do
        noHold o
        need (s.cfl.protLevel != 2) .protectionDenied s.cfl.protLevel
        if s.sec.updating.isSome then .ok (s, .waits)
        else do
          let (s, b) ← s.takeIbuf o o.ibufLen
          need (romxValid s.sec.minSvn b) .signatureInvalid 0
          .ok (s.openRomx id b, .runs 0)))

/-! ### SPDM (R579 to R581, R585) -/

def Spdm.fresh (p : SpdmPath) : Spdm := { path := p, version := false, caps := false, algs := false, handshake := false, session := false, keyGen := 0 }

/-- The SPDM state of a path; the two kinds of path keep theirs apart. -/
def State.spdmOf (s : State) (p : SpdmPath) : Spdm := (s.sec.spdm.find? (fun x => x.path = p)).getD (Spdm.fresh p)

def State.setSpdm (s : State) (x : Spdm) : State :=
  { s with sec := { s.sec with spdm := s.sec.spdm.filter (fun y => y.path ≠ x.path) ++ [x] } }

def isDoe : SpdmPath → Bool
  | .doe _ => true
  | .mctp => false

/-- Whether a path carries requests: DOE on a PF that takes accesses, MCTP while the management interface answers (R579, R639). -/
def State.spdmLive (s : State) : SpdmPath → Bool
  | .doe p => s.power.powered && s.fnAlive (.pf p) && decide (Fn.pf p ∉ s.host.fnD3)
  | .mctp => s.power.powered

/-- Sends a response: its body as the SPDM standard lays it out, then what the manual gives. -/
def State.spdmReply (s : State) (p : SpdmPath) (code : Nat) (data : Bytes) : State :=
  { s with freeCount := s.freeCount + 1, out := s.out ++ [.spdm p code (Config.spdmBody code s.freeCount ++ data)] }

/-- Answers a request with ERROR. -/
def State.spdmRefuse (s : State) (p : SpdmPath) : State := { s with out := s.out ++ [.spdmError p] }

/-- One request: none answers on a dead path; out of its order in the SPDM standard it is answered with ERROR. -/
def State.spdmDo (s : State) (p : SpdmPath) (ok : Spdm → Bool) (body : State → Spdm → State) : State :=
  if !s.spdmLive p then s else if ok (s.spdmOf p) then body s (s.spdmOf p) else s.spdmRefuse p

/-- GET_VERSION: the requester starts afresh. -/
def execGetVersion (p : SpdmPath) (s : State) : Res :=
  .next (s.spdmDo p (fun _ => true) (fun s _ => (s.setSpdm { Spdm.fresh p with version := true }).spdmReply p 0x04 []))

/-- GET_CAPABILITIES. -/
def execGetCapabilities (p : SpdmPath) (s : State) : Res :=
  .next (s.spdmDo p (·.version) (fun s x => (s.setSpdm { x with caps := true }).spdmReply p 0x61 []))

/-- NEGOTIATE_ALGORITHMS (R580): with neither algorithm offered, ERROR, and nothing is kept for the requester. -/
def execNegotiateAlgorithms (p : SpdmPath) (slh sha : Bool) (s : State) : Res :=
  .next (s.spdmDo p (·.caps) (fun s x =>
    if !slh && !sha then (s.setSpdm (Spdm.fresh p)).spdmRefuse p else (s.setSpdm { x with algs := true }).spdmReply p 0x63 []))

/-- GET_DIGESTS: the digest of the chain of slot 0 (R570). -/
def execGetDigests (p : SpdmPath) (s : State) : Res :=
  .next (s.spdmDo p (·.algs) (fun s _ => s.spdmReply p 0x01 (sha256 Config.certChain)))

/-- GET_CERTIFICATE for slot 0 (R570). -/
def execGetCertificate (p : SpdmPath) (slot off len : Nat) (s : State) : Res :=
  .next (s.spdmDo p (fun x => x.algs && slot == 0) (fun s _ => s.spdmReply p 0x02 ((Config.certChain.drop off).take len)))

/-- CHALLENGE: signed by the identity key (R569). -/
def execChallenge (p : SpdmPath) (nonce : Bytes) (s : State) : Res :=
  .next (s.spdmDo p (·.algs) (fun s _ => s.spdmReply p 0x03 (signed nonce)))

/-- A measurement block (R581): none for an index that names none; index 0xFF is all of them. -/
def State.measurement (s : State) (index nonce : Nat) : Bytes :=
  let blk (i : Nat) : Bytes :=
    match i with
    | 1 => 1 :: romxDigest s.sec.image
    | 2 => 2 :: s.configDigest
    | 3 => 3 :: s.partitionDigest
    | 4 => 4 :: s.reportBody nonce
    | _ => []
  if index = 0xFF then blk 1 ++ blk 2 ++ blk 3 ++ blk 4 else blk index

/-- GET_MEASUREMENTS (R581). -/
def execGetMeasurements (p : SpdmPath) (index nonce : Nat) (s : State) : Res :=
  .next (s.spdmDo p (·.algs) (fun s _ => s.spdmReply p 0x60 (s.measurement index nonce)))

/-- KEY_EXCHANGE, on DOE only (R579, R585): the response is signed by the identity key. -/
def execKeyExchange (p : SpdmPath) (data : Bytes) (s : State) : Res :=
  .next (s.spdmDo p (fun x => isDoe p && x.algs) (fun s x => (s.setSpdm { x with handshake := true, session := false }).spdmReply p 0x64 (signed data)))

/-- FINISH (R579): its verification data opens the session. -/
def execFinish (p : SpdmPath) (data : Bytes) (s : State) : Res :=
  .next (s.spdmDo p (fun x => isDoe p && x.handshake) (fun s x =>
    if Config.spdmFinishOk x.keyGen data then (s.setSpdm { x with handshake := false, session := true }).spdmReply p 0x65 []
    else (s.setSpdm { x with handshake := false }).spdmRefuse p))

/-- KEY_UPDATE (R579): the session goes on under fresh keys. -/
def execKeyUpdate (p : SpdmPath) (s : State) : Res :=
  .next (s.spdmDo p (fun x => isDoe p && x.session) (fun s x => (s.setSpdm { x with keyGen := x.keyGen + 1 }).spdmReply p 0x69 []))

/-- END_SESSION (R579). -/
def execEndSession (p : SpdmPath) (s : State) : Res :=
  .next (s.spdmDo p (fun x => isDoe p && x.session) (fun s x => (s.setSpdm { x with session := false }).spdmReply p 0x6C []))

/-! ### IDE (R585, R586) -/

/-- IDE_KM (R585): inside a session on the DOE of the function's port, keys put the function's stream in the secure state. -/
def execIdeKm (f : Fn) (inSession : Bool) (keys : Bytes) (s : State) : Res :=
  .next (s.spdmDo (.doe (fnPort f)) (fun x => inSession && x.session && !keys.isEmpty && s.fnAlive f) (fun s _ =>
    { s with sec := { s.sec with ide := ainsert f true s.sec.ide } }.spdmReply (.doe (fnPort f)) 0x7E []))

/-- IDE_INTEGRITY_FAILURE (R586): the TLP is discarded, the error goes to AER, the stream leaves the secure state, and the command whose
data the TLP carried completes with DATA_POISONED. -/
def execIdeIntegrityFailure (f : Fn) (cmd : Option CmdId) (s : State) : Res :=
  .next (
    if (alookup f s.sec.ide).getD false then
      let s := { s with sec := { s.sec with ide := ainsert f false s.sec.ide }, out := s.out ++ [.aer f] }
      match cmd with
      | some id => s.failRun id .dataPoisoned 0
      | none => s
    else s)

/-! ### The debug chain (R587, R588) -/

/-- DEBUG_CHAIN_OPEN: at level 0 only. -/
def execDebugChainOpen (s : State) : Res :=
  .next (if s.cfl.protLevel = 0 then { s with sec := { s.sec with keySlots := List.replicate 64 0, debugOpened := true } } else s)

end Sys2Proof.Machine
end

