-- ==== Sys2Proof/Machine/Health.lean ====
section
/-!
DEFINITION. Health, telemetry and results (group 0xB), power capping and temperature, the health log and the management interface (chapters
*Command reference*, *Power, clocks and reset*, *Faults, health and management*).
-/
namespace Sys2Proof.Machine

open Sys2Proof

/-! ### The health log (R630) -/

/-- Erases of every block of some superblocks of the groups in use. -/
def FlashSt.eraseSum (f : FlashSt) (p : Superblock → Bool) : Nat :=
  ((f.sbs.filter (fun x => x.group ∈ f.groups && p x)).map (fun x => x.erases.sum)).sum

/-- Wear used in percent over the native-mode blocks of superblocks, those of dissolved ones apart (R353): the mean erase count over the rated cycles. -/
def FlashSt.wearPct (f : FlashSt) : Nat :=
  let rated := (f.groups.map (fun g => 16 * (f.dataSbs g - f.dissolved g (fun _ => true)) * ((alookup g f.profile).map (·.peRated)).getD 0)).sum
  if rated = 0 then 0 else 100 * f.eraseSum (fun x => x.use = .data) / rated

/-- The same over SLC-mode blocks. -/
def FlashSt.wearSlcPct (f : FlashSt) : Nat :=
  let rated := (f.groups.map (fun g => 16 * f.slcSbs g * ((alookup g f.profile).map (·.peRatedSlc)).getD 0)).sum
  if rated = 0 then 0 else 100 * f.eraseSum (fun x => x.use ≠ .data) / rated

/-- The largest erase count of any block (R353). -/
def FlashSt.mostErases (f : FlashSt) : Nat := (f.sbs.map (·.eraseCount) ++ f.joined.map (·.2)).foldl max 0

/-- One entry of EXCURSIONS (R633). -/
def Excursion.bytes (e : Excursion) : Bytes := leBytes 1 e.die ++ leBytes 1 e.peak ++ zeros 2 ++ leBytes 4 (capAt 0xFFFFFFFF e.durationMs) ++ leBytes 8 e.start

/-- One entry of FAULTS (R634). -/
def FaultEntry.bytes (e : FaultEntry) : Bytes := leBytes 2 e.unit ++ leBytes 1 e.action ++ zeros 1 ++ leBytes 4 e.powerOnS ++ leBytes 4 e.killed ++ leBytes 4 e.heldUs

/-- The 3,104 bytes of the health log (*Health log layout* table, R630). -/
def State.healthBytes (s : State) : Bytes :=
  let h := s.health.log
  leBytes 4 0x4C484B4E ++ leBytes 2 1 ++ leBytes 2 0xC20 ++ leBytes 8 (h.powerOnMs / 1000) ++ leBytes 1 s.flash.sparePct
    ++ leBytes 1 (if s.flash.readOnly then 1 else 0) ++ leBytes 2 (capAt 0xFFFF s.flash.wearPct) ++ leBytes 2 (capAt 0xFFFF s.flash.wearSlcPct)
    ++ zeros 2 ++ leBytes 4 s.flash.mostErases ++ zeros 4 ++ leBytes 8 h.interrupts ++ leBytes 4 h.deviceFaults ++ leBytes 4 h.uncleanStops ++ leBytes 8 h.errSaturated
    ++ zeros 8 ++ (List.range 42).flatMap (fun i => leBytes 4 (h.errors.getD i 0))
    ++ (List.range 16).flatMap (fun k => leBytes 2 ((h.outOfService.filter (fun u => unitKind u = k)).length)) ++ zeros 24
    ++ (List.range 10).flatMap (fun i => ((h.excursions[i]?).map Excursion.bytes).getD (zeros 16))
    ++ (List.range 16).flatMap (fun i => ((h.faults[i]?).map FaultEntry.bytes).getD (zeros 16))
    ++ (List.range 600).flatMap (fun i => leBytes 4 (capAt 0xFFFFFFFF ((alookup (i / 25, i % 25) h.bins).getD 0 / 1000)))

/-- HEALTH_LOG (R630). -/
def execHealthLog (id : CmdId) (s : State) : Res :=
  .next (s.startCmd id (.healthLog id) (fun s o => do
    needRbuf o 0xC20
    okResult s s.healthBytes))

/-- HEALTH_LOG_SAVE: every 60 s, but not during the power-loss sequence (R544, R632). -/
def execHealthLogSave (s : State) : Res :=
  .next (if s.power.powered && !s.power.flushing && !s.power.flushed then { s with health := { s.health with saved := s.health.log } } else s)

/-! ### Events (R507, R508) -/

/-- Hands the oldest undelivered event of a queue to its EVENT_WAIT. -/
def State.feedEvent (s : State) (q : QId) : State :=
  match (s.queue q).events with
  | [] => s
  | e :: rest =>
    if s.host.outst.any (fun o => o.id.queue = q && o.phase = .running && o.cmd = .eventWait o.id) then
      (s.updQueue q (fun x => { x with events := rest })).deliver e.1 e.2 q
    else s

/-- EVENT_WAIT (R507): it completes with the oldest event, or waits for one without a limit of time. -/
def execEventWait (id : CmdId) (s : State) : Res :=
  .next (if (s.startable id (.eventWait id)).isNone then s
    else (s.startCmd id (.eventWait id) (fun s o => do
      noHold o
      .ok (s.chargeQueue id.queue 17 32, .runs 0))).feedEvent id.queue)

/-! ### Accounts (R413 to R418, R537) -/

/-- The 224 bytes of an account (R537). -/
def Acct.bytes (a : Acct) : Bytes := (List.range 27).flatMap (fun i => leBytes 8 (a.counters.getD i 0)) ++ leBytes 4 a.saturated ++ zeros 4

/-- Clears the counters of a mask and their flags (R537). -/
def Acct.clear (a : Acct) (mask : Nat) : Acct :=
  { counters := a.counters.zipIdx.map (fun x => if bitAt mask x.2 then 0 else x.1), saturated := a.saturated &&& (2 ^ 27 - 1 - mask % 2 ^ 27) }

/-- The ranges of the fields of ACCT_READ and ACCT_CLEAR. -/
def acctFields (scope p c : Nat) : Chk Unit := do
  inRange (decide (scope ≤ 2)) 0x08
  inRange (scope == 2 || decide (p < 8)) 0x09
  inRange (scope != 0 || decide (c < 16)) 0x0A

/-- What an I/O queue reaches of the accounts (R527), and what exists. -/
def State.acctIdent (s : State) (o : Outst) (scope p c : Nat) : Chk Unit := do
  match qPart o.id.queue with
  | some mine => do
    need (scope != 2) .resourceAbsent 0x08
    need (p == mine) .resourceAbsent 0x09
    need (scope == 1 || c == qCtx o.id.queue) .resourceAbsent 0x0A
  | none => pure ()
  need (scope == 2 || s.hasPart p) .notFound 0
  need (scope != 0 || (s.ctx? p c).isSome) .notFound 0

/-- The account that a scope names. -/
def State.acctOf (s : State) (scope p c : Nat) : Acct :=
  match scope with
  | 0 => ((s.ctx? p c).map (·.acct)).getD Acct.zero
  | 1 => (s.partRt p).acct
  | _ => s.device

/-- ACCT_READ (R417, R537). -/
def execAcctRead (id : CmdId) (scope p c : Nat) (s : State) : Res :=
  .next (s.startCmd id (.acctRead id scope p c) (fun s o => do
    acctFields scope p c
    s.acctIdent o scope p c
    needRbuf o 224
    okResult s (s.acctOf scope p c).bytes))

/-- Changes the account that a scope names. -/
def State.updAcct (s : State) (scope p c : Nat) (f : Acct → Acct) : State :=
  match scope with
  | 0 => s.updCtx p c (fun x => { x with acct := f x.acct })
  | 1 => s.updPart p (fun x => { x with acct := f x.acct })
  | _ => { s with device := f s.device }

/-- ACCT_CLEAR (R418, R537). No counter has the numbers 27 to 31: a MASK that names one is refused with PARAM_INVALID, which the manual does not say (DESIGN
CHOICE, log entry 72). -/
def execAcctClear (id : CmdId) (scope p c mask : Nat) (s : State) : Res :=
  .next (s.startCmd id (.acctClear id scope p c mask) (fun s o => do
    noHold o
    acctFields scope p c
    inRange (decide (mask < 2 ^ 27)) 0x0C
    s.acctIdent o scope p c
    okDone (s.updAcct scope p c (fun a => a.clear mask))))

/-! ### Memory and store figures (R538, R539) -/

/-- MEM_INFO: 32 bytes per populated die (R538). -/
def State.memInfo (s : State) : Bytes :=
  (List.range (Variant.dies s.variant)).flatMap (fun d =>
    leBytes 1 d ++ zeros 7 ++ leBytes 8 (reservation s.variant s.flash s.cfg.inForce.parts d) ++ leBytes 8 (s.nmFree d) ++ leBytes 8 (s.withheldOn d))

/-- MEM_INFO. -/
def execMemInfo (id : CmdId) (s : State) : Res :=
  .next (s.startCmd id (.memInfo id) (fun s o => do
    needRbuf o (32 * Variant.dies s.variant)
    okResult s s.memInfo))

/-- The 64 bytes of STORE_INFO (R539). -/
def State.storeInfo (s : State) : Bytes :=
  let f := s.flash
  (List.range 8).flatMap (fun g => leBytes 1 (f.groupState.getD g 0)) ++ leBytes 1 f.plpEnd ++ zeros 3 ++ leBytes 4 (capAt 0xFFFFFFFF f.plpEnergy)
    ++ leBytes 8 f.plpBytes ++ leBytes 4 f.plpRolledBack ++ leBytes 4 f.plpPoisoned ++ leBytes 8 f.dataCapacity ++ leBytes 8 f.allocated
    ++ leBytes 1 (if f.readOnly then 1 else 0) ++ zeros 15

/-- STORE_INFO. -/
def execStoreInfo (id : CmdId) (s : State) : Res :=
  .next (s.startCmd id (.storeInfo id) (fun s o => do
    needRbuf o 64
    okResult s s.storeInfo))

/-! ### Held results (R512 to R515) -/

/-- What a RESULT_READ or RESULT_RELEASE names (R513, R527): by handle, or the latest HOLD_RESULT command of the queue with a tag. -/
inductive Named where
  | nothing
  | waiting
  | result (h : Held)
  deriving DecidableEq, Repr

/-- The command of a queue that holds a tag and asked for a held result, if it has not completed. -/
def State.heldWaits (s : State) (q : QId) (tag : Nat) : Bool :=
  s.host.outst.any (fun o => o.id.queue = q && o.id.tag = tag && o.hold && o.phase ≠ .posted)

def State.named (s : State) (o : Outst) (handle flags tag : Nat) : Named :=
  let q := o.id.queue
  let pick : Option Held :=
    if bitAt flags 0 then leastBy (fun a b => decide (b.serial < a.serial)) (s.host.held.filter (fun h => h.id.queue = q && h.id.tag = tag && h.byTag))
    else s.host.held.find? (fun h => h.handle = handle && ((qPart q).isNone || qPart q == some h.part))
  if bitAt flags 0 && s.heldWaits q tag then .waiting
  else
    match pick with
    | none => .nothing
    | some h => if h.isDone then .result h else .waiting

/-- Whether it is a command's turn on a held result: no RESULT_READ or RESULT_RELEASE of it came earlier and waits (R515). -/
def State.resultTurn (s : State) (o : Outst) (h : Held) : Bool :=
  s.host.outst.all (fun x => x.id == o.id || x.phase != .waiting || !s.rangBefore x.id o.id ||
    (match x.cmd with
     | .resultRead _ handle flags tag _ => s.named x handle flags tag != .result h
     | .resultRelease _ handle flags tag => s.named x handle flags tag != .result h
     | _ => true)) && s.nothingRung o

/-- RESULT_READ (R513, R515). -/
def execResultRead (id : CmdId) (handle flags tag offset : Nat) (s : State) : Res :=
  .next (s.startCmd id (.resultRead id handle flags tag offset) (fun s o => do
    noHold o
    inRange (!bitAt flags 0 || decide (tag < 32)) 0x0D
    match s.named o handle flags tag with
    | .nothing => failWith .notFound 0
    | .waiting => failWith .notReady 0
    | .result h =>
     if !s.resultTurn o h then .ok (s, .waits)
     else do
      need (decide (offset ≤ h.bytes.length)) .rangeExceeded 0x10
      let n := min o.rbufLen (h.bytes.length - offset)
      let s := if h.room = 0 then s else s.probe (h.room + offset) n
      -- a held result stands in near memory (R512), and poison is never sent (R222, R224)
      if h.room != 0 && s.poisoned (h.room + offset) n then failKeep (s.integrity 4 clsConsumed) .dataPoisoned 0
      let seen (x : Held) : Held := { x with readBefore := true }
      let t := { s with host := { s.host with held := mapIf (fun x => x.handle = h.handle) seen s.host.held } }
      okResult (t.updOutst id (fun x => { x with again := h.readBefore })) ((h.bytes.drop offset).take o.rbufLen)))

/-- RESULT_RELEASE (R514, R515). -/
def execResultRelease (id : CmdId) (handle flags tag : Nat) (s : State) : Res :=
  .next (s.startCmd id (.resultRelease id handle flags tag) (fun s o => do
    noHold o
    inRange (!bitAt flags 0 || decide (tag < 32)) 0x0D
    match s.named o handle flags tag with
    | .result h =>
      if !s.resultTurn o h then .ok (s, .waits)
      else okDone ({ s with host := { s.host with held := s.host.held.filter (fun x => x.handle ≠ h.handle) } }).sweep
    | _ => failWith .notFound 0))

/-! ### Power capping (R603, R604) -/

/-- Clusters of a partition that are not power-gated: those in service (R603). -/
def State.poweredClusters (s : State) (p : Nat) : Nat :=
  ((maskList 32 (s.entry p).clusterMask).filter s.clusterUp).length

/-- Lowers one partition's point until its engines fit its own cap. -/
def fitCap (n cap : Nat) : Nat → Nat
  | 0 => 0
  | f + 1 => if cap ≠ 0 && cap < n * clusterPower (f + 1) then fitCap n cap f else f + 1

/-- Lowers points, the highest first and of equal ones the highest-numbered partition's, until the engines fit the budget. Each entry is a
partition, its clusters and its point. -/
def fitBudget (budget : Nat) : Nat → List (Nat × Nat × Nat) → List (Nat × Nat × Nat)
  | 0, l => l
  | fuel + 1, l =>
    if (l.map (fun x => x.2.1 * clusterPower x.2.2)).sum ≤ budget then l
    else
      match leastBy (fun (a b : Nat × Nat × Nat) => decide (b.2.2 < a.2.2) || (a.2.2 == b.2.2 && decide (b.1 < a.1))) l with
      | none => l
      | some q =>
        if q.2.2 = 0 then l else fitBudget budget fuel (mapIf (fun x => x.1 == q.1) (fun (x : Nat × Nat × Nat) => (x.1, x.2.1, x.2.2 - 1)) l)

/-- Configuration commands that have waited for a cap step complete (R604), unless a ceiling still holds them (R33). -/
def State.settleCaps (s : State) : State :=
  let ids := s.cfg.waitingCap
  let s := { s with cfg := { s.cfg with waitingCap := [] } }
  ids.foldl (fun s id => if id ∈ s.cfg.waitingCeiling then s else s.completeId id .ok 0 []) s

/-- The points that a cap step sets (R603). -/
def State.capPoints (s : State) (other : Nat) : List (Nat × Nat × Nat) :=
  let start := ((List.range 8).filter s.hasPart).map (fun p =>
    (p, s.poweredClusters p, fitCap (s.poweredClusters p) (s.entry p).powerCap (min s.power.opp (s.partRt p).thermalPoint)))
  fitBudget (s.stored.pkgCap s.variant - other) 32 start

/-- CAP_STEP (R600, R603, R604): `otherW` is the peak non-engine rail power of the last millisecond, `measuredW` the package power. -/
def execCapStep (otherW measuredW : Nat) (s : State) : Res :=
  .next (
    if !s.power.powered || !s.power.computeReady then s
    else
      let last := (otherW :: s.power.otherLast).take 10
      let s := { s with power := { s.power with otherLast := last } }
      let pts := s.capPoints (last.foldl max 0)
      let s := (pts.foldl (fun s x => s.updPart x.1 (fun r => { r with clockPoint := x.2.2 })) s).setSupplies
      let hot := decide (s.stored.pkgCap s.variant < measuredW)
      let s := { s with power := { s.power with stall := if hot then min (s.power.stall + 10) 90 else s.power.stall - 10 } }
      s.settleCaps)

/-! ### Temperatures (R605, R624, R631, R633) -/

/-- The bin of a temperature (R631). -/
def tempBin (t : Int) : Nat := if t < 0 then 0 else min (t.toNat / 5) 24

/-- One millisecond of a die's hottest sensor: its bin, and its excursion (R631, R633). -/
def Health.sample (h : Health) (slot : Nat) (t : Int) : Health :=
  let key := (slot, tempBin t)
  let h := { h with bins := ainsert key ((alookup key h.bins).getD 0 + 1) h.bins }
  match h.running.find? (fun e => e.die = slot) with
  | some e =>
    if 95 ≤ t then
      let grow (x : Excursion) : Excursion := { x with peak := max x.peak t.toNat, durationMs := x.durationMs + 1 }
      { h with running := mapIf (fun x => x.die = slot) grow h.running }
    else { h with running := h.running.filter (fun x => x.die ≠ slot) }.rank e
  | none =>
    if 95 ≤ t then { h with running := h.running ++ [{ die := slot, peak := t.toNat, durationMs := 1, start := h.powerOnMs / 1000 }] } else h

/-- The unit code of a die slot (R618, R630). -/
def slotUnit (slot : Nat) : Nat :=
  if slot < 8 then 0xA000 + slot
  else if slot < 16 then 0xC000 + (slot - 8)
  else if slot < 20 then 0xD000 + (slot - 16)
  else slot - 20

/-- Records one sample; event 0x00C as a compute die reaches 105 °C (R605). -/
def State.takeTemp (s : State) (x : Nat × Int) : State :=
  let before := (alookup x.1 s.health.temps).getD 0
  let hot := if 115 ≤ x.2 then (if (alookup x.1 s.health.hotSince).isSome then s.health.hotSince else ainsert x.1 s.now s.health.hotSince)
    else aerase x.1 s.health.hotSince
  let s := { s with health := { s.health with log := s.health.log.sample x.1 x.2, temps := ainsert x.1 x.2 s.health.temps, hotSince := hot } }
  if x.1 < 8 && decide (before < 105) && decide (105 ≤ x.2) then s.raise 0xC x.1 x.2.toNat .device else s

/-- A partition's thermal point after a sample (R605). -/
def State.thermalStep (s : State) (p : Nat) : State :=
  let ts := (s.partDies p).map (fun d => (alookup d s.health.temps).getD 0)
  let cool := (alookup p s.health.coolMs).getD 0
  if ts.any (fun t => decide (105 ≤ t)) then
    ({ s with health := { s.health with coolMs := ainsert p 0 s.health.coolMs } }).updPart p (fun r => { r with thermalPoint := r.thermalPoint - 1 })
  else if ts.all (fun t => decide (t < 100)) then
    if 9 ≤ cool then
      ({ s with health := { s.health with coolMs := ainsert p 0 s.health.coolMs } }).updPart p (fun r => { r with thermalPoint := min 3 (r.thermalPoint + 1) })
    else { s with health := { s.health with coolMs := ainsert p (cool + 1) s.health.coolMs } }
  else s

/-- Whether a die slot of the health log has a die (R12, R630). -/
def State.slotFitted (s : State) (slot : Nat) : Bool :=
  let n := Variant.dies s.variant
  if slot < 16 then decide (slot % 8 < n) else if slot < 20 then decide (2 * (slot - 16) < n) else decide (slot < 22)

/-- TEMP_SAMPLE (R605, R624, R631): a die that two successive samples find at 115 °C or more has been so for 1 ms. -/
def execTempSample (temps : List (Nat × Int)) (s : State) : Res :=
  .next (
    if !s.power.powered then s
    else
      let temps := temps.filter (fun x => s.slotFitted x.1)
      let burnt := temps.find? (fun x => decide (115 ≤ x.2) && (alookup x.1 s.health.hotSince).isSome)
      let s := temps.foldl State.takeTemp s
      let s := ((List.range 8).filter s.hasPart).foldl State.thermalStep s
      match burnt with
      | some x => s.deviceFaultOf (slotUnit x.1) false
      | none => s)

/-! ### The management interface (R637 to R641) -/

/-- Whether the management interface answers (R639). -/
def State.mgmtLive (s : State) : Bool := s.power.powered

/-- A response: REQUEST, COMPLETION, data. -/
def State.mgmtReply (s : State) (req completion : Nat) (data : Bytes) : State := { s with out := s.out ++ [.mgmt req completion data] }

/-- GET_STATE: 36 bytes (*Management requests* table). -/
def execGetState (s : State) : Res :=
  .next (if !s.mgmtLive then s
    else s.mgmtReply 1 0 (leBytes 4 s.devId ++ leBytes 4 0x00010000 ++ leBytes 8 s.sec.serial ++ leBytes 4 (s.devState 0) ++ leBytes 4 s.devStatus
      ++ leBytes 4 s.caps ++ leBytes 8 s.power.uptimeUs))

/-- GET_HEALTH: bytes of the log as held in the device; a range beyond it is invalid. -/
def execGetHealth (offset length : Nat) (s : State) : Res :=
  .next (if !s.mgmtLive then s
    else if 0xC20 < offset + length then s.mgmtReply 2 2 []
    else s.mgmtReply 2 0 (slice s.healthBytes offset length))

/-- The engine clock of a cluster in MHz (R599): 0 while it is power-gated (R362, R603). -/
def State.clusterMhz (s : State) (k : Nat) : Nat :=
  match s.clusterOwner k with
  | none => 0
  | some p => if s.clusterUp k && s.power.computeReady && !s.silent then s.coreMhz p else 0

/-- GET_TELEMETRY: temperatures in die-slot order, the measured watts of seven rails, and engine clocks. -/
def execGetTelemetry (watts : List Nat) (s : State) : Res :=
  .next (if !s.mgmtLive then s
    else s.mgmtReply 3 0 ((List.range 24).flatMap (fun i => leBytes 1 (match alookup i s.health.temps with
        | some t => codeOf 8 t
        | none => 0x80))
      ++ (List.range 7).flatMap (fun i => leBytes 2 (capAt 0xFFFF (watts.getD i 0)))
      ++ (List.range (Variant.clusters s.variant)).flatMap (fun k => leBytes 2 (s.clusterMhz k))))

/-- GET_EVENT (R639, R640): the oldest event with the LOST flag; with none there, not ready. -/
def execGetEvent (s : State) : Res :=
  .next (if !s.mgmtLive then s
    else
      match s.mgmt.events with
      | [] => s.mgmtReply 4 1 []
      | e :: rest =>
        { s with mgmt := { s.mgmt with events := rest, lost := false } }.mgmtReply 4 0
          (leBytes 4 e.1 ++ leBytes 2 (capAt 0xFFFF e.2) ++ leBytes 1 (if s.mgmt.lost then 1 else 0)))

/-- MCTP_CONTROL (R638): a bus owner may assign an endpoint ID; the answer goes out under the one in force. -/
def execMctpControl (setEid : Option Nat) (s : State) : Res :=
  .next (if !s.mgmtLive then s
    else
      let eid := match setEid with
        | some e => if 8 ≤ e && e < 255 then e else s.mgmt.eid
        | none => s.mgmt.eid
      { s with mgmt := { s.mgmt with eid := eid }, out := s.out ++ [.mctp eid] })

/-- I3C_ADDRESS_ASSIGNMENT: SETDASA or ENTDAA (R637); ignored with MGMT_SMB 1. -/
def execI3cAddressAssignment (addr : Nat) (s : State) : Res :=
  .next (if !s.mgmtLive || s.mgmt.smbOnly then s else { s with mgmt := { s.mgmt with i3c := true, addr := addr } })

/-- The level of ALERT_N: low in SMBus mode while the management event queue is not empty (R641). -/
def State.alertN (s : State) : Bool := !(s.mgmtLive && !s.mgmt.i3c && !s.mgmt.events.isEmpty)

/-- ALERT_RESPONSE (R641): in SMBus mode the device answers while it holds ALERT_N low. -/
def execAlertResponse (s : State) : Res :=
  .next (if !s.alertN then { s with out := s.out ++ [.alertAddr s.mgmt.addr] } else s)

end Sys2Proof.Machine
end

