-- ==== Sys2Proof/Machine/Quant.lean ====
section
/-!
DEFINITION. Quantisation (R136 to R147): QSCAN, which loads scale registers from a tensor, and QCONVERT, which writes codes, scale data,
sums and statistics.
-/
namespace Sys2Proof.Machine

open Sys2Proof

/-- The entry of an element, by its row and column within the group. -/
def quantEntry (axis r c : Nat) : Nat := match axis with
  | 1 => c
  | 2 => r
  | _ => 0

/-- The values of the group's part of one row. -/
def State.quantRow (s : State) (r : Run) (v : View) (g : QuantGroup) (i : Nat) : List Num :=
  ((s.rowNums r.part r.id v false false (g.r0 + i)).drop g.c0).take g.cn

def Core.setSreg (c : Core) (i : Nat) (e : SReg) : Core := { c with sregs := ainsert i e c.sregs }

/-- Whether a value is finite. -/
def Num.isFinite : Num → Bool
  | .fin .. => true
  | _ => false

/-- Ends of an integer target's range. -/
def targetRange (t : Nat) : Int × Int := match fmtOf t with
  | some (.int b sg) => (intMin b sg, intMax b sg)
  | _ => (0, 0)

/-- The divisor of SYM (R142). -/
def symDivisor (t : Nat) : Nat := match t with
  | 4 => 240
  | 5 => 57344
  | 8 => 7
  | _ => 127

/-- The larger of two values. -/
def Num.larger (a b : Num) : Num := if a.lt b then b else a

def Num.smaller (a b : Num) : Num := if b.lt a then b else a

/-- S and z of R142 and R143 from MIN and MAX. -/
def scaleZero (asym : Bool) (t : Nat) (mn mx : Num) : W32 × Int :=
  let zero : Num := .fin false 0 0
  if asym then
    let (lo, hi) := targetRange t
    let base := mn.smaller zero
    let sc := rneF32 (((mx.larger zero).add false base.neg).quot (Num.ofInt (hi - lo)))
    if (decF32 sc).isZero then (0x3F800000#32, lo)
    else
      let q := decF32 (rneF32 (base.quot (decF32 sc)))
      let z := match (Num.ofInt lo).add false q.neg with
        | .fin s m e => (Num.roundInt 0 s m e 0).1
        | _ => lo
      (sc, max lo (min hi z))
  else
    let z : Int := if t = 7 then 128 else 0
    let sc := rneF32 ((mn.abs.larger mx.abs).quot (Num.ofInt (symDivisor t)))
    if (decF32 sc).isZero then (0x3F800000#32, z) else (sc, z)

/-- One entry after a QSCAN that saw `vs` (R141 to R143), with what the conversion of MIN and MAX into F32 raised: with MERGE the values of an entry
that is VALID join in. SSE, MAXERR, COUNT and SATS of an entry that an earlier step of the run has used stay and go on counting (DESIGN CHOICE, log
entry 36: R141 to R143 name MIN, MAX, SCALE, ZP and VALID alone, and R137 clears at the start of a run). -/
def SReg.scan (e : SReg) (a : QuantArgs) (vs : List Num) : SReg × Ev :=
  let seen := vs.filter Num.isFinite ++ (if a.merge && e.valid then [decF32 e.min, decF32 e.max] else [])
  let mn := (seen.tail.foldl Num.smaller (seen.headD (.fin false 0 0)))
  let mx := (seen.tail.foldl Num.larger (seen.headD (.fin false 0 0)))
  let lo := toF32 rndRne mn 0
  let hi := toF32 rndRne mx 0
  let (sc, z) := scaleZero a.asym a.target (decF32 lo.1) (decF32 hi.1)
  ({ e with min := lo.1, max := hi.1, scale := sc, zp := z, valid := true }, lo.2.add hi.2)

/-- QSCAN over the group. -/
def State.runQscan (s : State) (r : Run) (core : Nat) (a : QuantArgs) (v : View) : State :=
  let g := quantGroup a v.desc
  let rows := (List.range g.rn).map (s.quantRow r v g)
  let vals (i : Nat) : List Num := match a.axis with
    | 1 => rows.map (fun l => l.getD i (.fin false 0 0))
    | 2 => rows.getD i []
    | _ => rows.flatten
  let c := s.core core
  let got := (List.range g.entries).map (fun i => (c.sreg i).scan a (vals i))
  let c := got.zipIdx.foldl (fun c e => c.setSreg e.2 e.1.1) c
  (s.setCore core c).addEv r.id ((got.map (·.2)).foldl Ev.add {})

/-- Device addresses of the elements of a step's group. -/
def State.groupSpans (s : State) (id : CmdId) (a : QuantArgs) (v : View) : List (Nat × Nat) :=
  let g := quantGroup a v.desc
  s.cellSpans id v g.r0 g.rn g.c0 g.cn

/-- QSCAN (R141 to R143). -/
def execQscan (core : Nat) (a : QuantArgs) (s : State) : Res :=
  .next (s.issue core (.qscan a) (fun s r _ =>
    match s.operand r core a.src with
    | none => s
    | some v => s.reading r.id (s.groupSpans r.id a v) (fun s => s.runQscan r core a v)))

/-! ### QCONVERT -/

/-- One element (R144): its code, the value the code stands for, and what it raised. The quotient x / S is taken exactly and rounded once, into the
code (DEDUCED, log entry 36). -/
def quantElem (t mode : Nat) (e : SReg) (x : Num) (d : Nat) : Nat × Num × Ev :=
  let q := x.quot (decF32 e.scale)
  match fmtOf t with
  | some (.int b sg) =>
    let (v, ev) := encodeInt b sg ⟨mode, false, false⟩ e.zp q d
    (codeOf b v, (Num.ofInt (v - e.zp)).mul (decF32 e.scale), ev)
  | some (.flt f) =>
    let (c, ev) := f.encode ⟨mode, false, false⟩ q d
    (c, (f.decode false c).mul (decF32 e.scale), ev)
  | _ => (0, .nan, {})

/-- The statistics of an entry after one element: SSE, MAXERR, COUNT for a finite x, SATS for a saturation; and what the accumulation itself
raises (R65, R68). The error and its square are exact until the sum is rounded into F32, and so is the magnitude until MAXERR takes it (DEDUCED, log
entry 36). -/
def SReg.note (e : SReg) (x y : Num) (ev : Ev) : SReg × Ev :=
  let e := { e with sats := capAt 0xFFFFFFFF (e.sats + ev.sats) }
  if x.isFinite then
    let err := x.add false y.neg
    let m := toF32 rndRne err.abs 0
    let sum := toF32 rndRne ((decF32 e.sse).add false (err.mul err)) 0
    ({ e with sse := sum.1, maxErr := if (decF32 e.maxErr).lt (decF32 m.1) then m.1 else e.maxErr, count := capAt 0xFFFFFFFF (e.count + 1) }, sum.2.add m.2)
  else (e, {})

/-- One row of a QCONVERT: codes from column `c0` on, with the registers and the events. -/
def State.quantCodes (core : Nat) (a : QuantArgs) (c0 i : Nat) : State → Nat → List Num → State × List Nat × Ev
  | s, _, [] => (s, [], {})
  | s, j, x :: xs =>
    let (s, d) := s.drawSr core ((c0 + j) % 128) a.round
    let n := quantEntry a.axis i j
    let c := s.core core
    let (code, y, ev) := quantElem a.target a.round (c.sreg n) x d
    let (e, evs) := (c.sreg n).note x y ev
    let s := s.setCore core (c.setSreg n e)
    let (s, cs, ev') := State.quantCodes core a c0 i s (j + 1) xs
    (s, code :: cs, (ev.add evs).add ev')

def State.quantRowOut (r : Run) (core : Nat) (a : QuantArgs) (v o : View) (g : QuantGroup) (s : State) (i : Nat) : State :=
  let (s, cs, ev) := State.quantCodes core a g.c0 i s 0 (s.quantRow r v g i)
  (s.addEv r.id ev).stepCodes r o (g.r0 + i) g.c0 cs

/-- The sums of the codes of row `row` as OUT holds them, segment by segment (R145). -/
def State.codeSums (s : State) (r : Run) (o : View) (row : Nat) : List Int :=
  let d := o.desc
  let (b, sg) := match fmtOf d.format with
    | some (.int b sg) => (b, sg)
    | _ => (8, true)
  let qs := (s.rowCodes r.part r.id o row).map (fun c => if sg then signedOf b c else (c : Int))
  (piecesOf (if d.sumSeg = 0 then d.ext 0 else segLen d.sumSeg) (d.ext 0 + 1) qs).map List.sum

/-- Scale data and statistics of the group's channels, and the sums of its rows (R146). A target in F8A or F8B takes no sums: R145 asks for the sum of
codes in I32, and its uses in R97 are the integer formats' (DESIGN CHOICE, log entry 36). -/
def State.quantSide (s : State) (r : Run) (core : Nat) (a : QuantArgs) (o : View) (g : QuantGroup) : State :=
  let lo := 4096 * quantGrp a
  let es := (List.range g.entries).map ((s.core core).sreg ·)
  let s := s.stepWr r o 2 (8 * lo) (es.flatMap (fun e => leBytes 4 e.scale.toNat ++ leBytes 2 (codeOf 16 e.zp) ++ zeros 2))
  let s := s.stepWr r o 4 (16 * lo) (es.flatMap (fun e => leBytes 4 e.sse.toNat ++ leBytes 4 e.maxErr.toNat ++ leBytes 4 e.count ++ leBytes 4 e.sats))
  if !intTarget a.target then s
  else
    (List.range g.rn).foldl (fun s i =>
      let sums := s.codeSums r o (g.r0 + i)
      s.stepWr r o 3 (4 * ((g.r0 + i) * sums.length)) (sums.flatMap (fun x => leBytes 4 (codeOf 32 x)))) s

def State.runQconvert (s : State) (r : Run) (core : Nat) (a : QuantArgs) (v o : View) : State :=
  let g := quantGroup a v.desc
  ((List.range g.rn).foldl (State.quantRowOut r core a v o g) s).quantSide r core a o g

/-- QCONVERT (R144 to R147). -/
def execQconvert (core : Nat) (a : QuantArgs) (s : State) : Res :=
  .next (s.issue core (.qconvert a) (fun s r _ =>
    match s.operand r core a.src, s.operand r core a.out with
    | some v, some o => s.reading r.id (s.groupSpans r.id a v) (fun s => s.runQconvert r core a v o)
    | _, _ => s))

end Sys2Proof.Machine
end

