-- ==== Sys2Proof/Machine/Test.lean ====
section
/-!
DEFINITION. Test and pattern checking (chapter *Test and pattern checking*): LINK_TEST, LINK_MARGIN, MEM_BIST and their ends, and the
boundary-scan TAP.
-/
namespace Sys2Proof.Machine

open Sys2Proof

/-! ### Links (R659) -/

/-- Lanes of a link (*Test links* table). -/
def State.linkLanes (s : State) (kind : Nat) : Nat :=
  match kind with
  | 0 => if s.host.splitSampled then 8 else 16
  | 1 => 8
  | 2 => 32
  | 3 => 16
  | 4 => 16
  | 5 => 32
  | _ => 9

/-- Whether the package has a link. -/
def State.linkExists (s : State) (kind index : Nat) : Bool :=
  match kind with
  | 0 => index == 0 || (index == 1 && s.host.splitSampled)
  | 1 => decide (index < Variant.ports s.variant)
  | 2 => s.unitExists (0x9000 + index) && decide (index < 4096)
  | 3 => decide (index < Variant.dies s.variant)
  | 4 => decide (index < 2 * Variant.fds s.variant)
  | 5 => decide (index < Variant.stacks s.variant)
  | _ => decide (index < Variant.channels s.variant)

/-- Whether a link offers a pattern. The PCIe patterns depend on the rate in use, which the block does not hold: each is offered. -/
def patternOk (kind pattern : Nat) : Bool :=
  match kind with
  | 0 => decide (pattern ≤ 4)
  | 1 => pattern == 4
  | _ => decide (pattern ≤ 3)

/-- Whether an internal link is out of service (R660, kinds 2 to 5). -/
def State.linkOut (s : State) (kind index : Nat) : Bool :=
  let isOut (u : Nat) : Bool := decide (u ∈ s.health.log.outOfService)
  match kind with
  | 2 => isOut (0x9000 + index)
  | 3 => isOut (0xA000 + index)
  | 4 => isOut (0xD000 + index / 2)
  | 5 => isOut (0xB000 + index)
  | _ => false

/-- The level of CHc_WP_N (R613, R614, R649): high from replay step 1 on while the channel is in use, until the end of a flush or drain. -/
def State.chWpN (s : State) (ch : Nat) : Bool :=
  s.power.wpN && s.flash.groupState.getD (ch / 16) 0 == 1 && !s.flash.failed.any (fun x => x.1 == ch && x.2 == none)

/-- Whether a NAND channel may be borrowed (R662): trained in replay step 1 and not out of service, as long as it is in use. -/
def State.channelFree (s : State) (ch : Nat) : Bool := s.chWpN ch

/-- Whether the table of R660 and the link's present use allow a MODE. -/
def State.modeAllowed (s : State) (kind index mode : Nat) : Bool :=
  match mode with
  | 0 => true
  | 1 => decide (2 ≤ kind) && decide (kind ≤ 5)
  | 2 =>
    if kind = 0 then s.host.splitSampled && !(s.port index).linkUp
    else if kind = 1 then !s.portRing index
    else if kind = 6 then s.channelFree index
    else s.linkOut kind index
  | _ =>
    if kind = 0 then s.host.splitSampled && !(s.port index).linkUp
    else if kind = 1 then !s.portRing index && s.fabric.laserEn.getD (index / 2) false
    else false

/-- Whether a test runs on a link already (R663). -/
def State.linkTested (s : State) (kind index : Nat) : Bool := s.test.links.any (fun t => t.kind = kind && t.index = index)

/-! ### LINK_TEST and LINK_MARGIN (R660 to R666) -/

/-- The header of R664. -/
def testHeader (kind mode pattern lanes : Nat) : Bytes := leBytes 1 kind ++ leBytes 1 mode ++ leBytes 1 pattern ++ leBytes 1 lanes ++ zeros 4

/-- A lane entry of R664: counts stick at their largest value and set SATURATED. -/
def laneEntry (bits errors : Nat) (locked : Bool) : Bytes :=
  leBytes 8 (capAt max64 bits) ++ leBytes 8 (capAt max64 (if locked then errors else 0))
    ++ leBytes 4 ((if locked then 1 else 0) + (if decide (max64 ≤ bits) || (locked && decide (max64 ≤ errors)) then 2 else 0)) ++ zeros 4

/-- The result of MODE 0 (R660, R664): live counters, which the environment keeps. Without a pattern R664 does not say what LOCKED tells: a free
value (log entry 61). -/
def State.missionResult (s : State) (kind index mask : Nat) : Bytes :=
  let lanes := maskList 32 mask
  testHeader kind 0 0 lanes.length ++ lanes.flatMap (fun l =>
    let c := Config.laneCounter kind index l s.freeCount
    laneEntry c.1 c.2 (bitAt (Config.freeByte s.freeCount l).toNat 0))

/-- Whether a lane mask names lanes of a link kind, and at least one. -/
def State.lanesOk (s : State) (kind mask : Nat) : Bool := decide (0 < mask) && decide (mask < 2 ^ s.linkLanes kind)

/-- The checks of the fields that both commands have, after the ranges of all fields in ascending offset (R529, R540). -/
def State.linkIdent (s : State) (o : Outst) (kind index mask : Nat) : Chk Unit := do
  need (s.linkExists kind index) .resourceAbsent 0x0A
  needRbuf o (8 + 24 * (maskList 32 mask).length)
  need (s.cfl.protLevel != 2) .protectionDenied s.cfl.protLevel

/-- A test takes its link: a fabric port in MODE 2 or 3 holds its logical ports DOWN (R661). -/
def State.openTest (s : State) (t : LinkTest) : State :=
  let s := { s with test := { s.test with links := s.test.links ++ [t] } }
  if t.kind = 1 && decide (2 ≤ t.mode) && !t.isMargin then [2 * t.index, 2 * t.index + 1].foldl State.portDown s else s

/-- LINK_TEST (R659 to R664). -/
def execLinkTest (id : CmdId) (kind pattern index mode lun mask duration : Nat) (s : State) : Res :=
  .next (s.startCmd id (.linkTest id kind pattern index mode lun mask duration) (fun s o => do
    inRange (decide (kind ≤ 6)) 0x08
    inRange (if mode = 0 then pattern == 0 else patternOk kind pattern) 0x09
    inRange (decide (mode ≤ 3)) 0x0C
    inRange (kind != 6 || decide (lun ≤ 7)) 0x0D
    inRange (s.lanesOk kind mask) 0x10
    inRange (if mode = 0 then duration == 0 else decide (1 ≤ duration) && decide (duration ≤ (if kind = 6 then 100 else 60000))) 0x14
    s.linkIdent o kind index mask
    need (s.modeAllowed kind index mode && !s.linkTested kind index) .resourceBusy 0
    if mode = 0 then okResult { s with freeCount := s.freeCount + 1 } (s.missionResult kind index mask)
    else .ok (s.openTest { id := id, kind := kind, index := index, pattern := pattern, mode := mode, lun := lun, laneMask := mask, isMargin := false
                           target := 0, locked := [] }, .runs (8 + 24 * (maskList 32 mask).length))))

/-- LINK_MARGIN (R659, R663, R665): the margin sampler runs beside the traffic; on a NAND channel it borrows the channel. -/
def execLinkMargin (id : CmdId) (kind index mask target : Nat) (s : State) : Res :=
  .next (s.startCmd id (.linkMargin id kind index mask target) (fun s o => do
    inRange (decide (kind ≤ 6)) 0x08
    inRange (s.lanesOk kind mask) 0x10
    inRange (decide (6 ≤ target) && decide (target ≤ 15)) 0x14
    s.linkIdent o kind index mask
    need (!s.linkTested kind index && (kind != 6 || s.channelFree index)) .resourceBusy 0
    .ok (s.openTest { id := id, kind := kind, index := index, pattern := 0, mode := 0, lun := 0, laneMask := mask, isMargin := true, target := target
                      locked := [] }, .runs (8 + 24 * (maskList 32 mask).length))))

/-- CHECKER_LOCK (R659): from now on the checker of a lane counts. -/
def execCheckerLock (kind index lane : Nat) (s : State) : Res :=
  let lock (t : LinkTest) : LinkTest := { t with locked := addOnce lane t.locked }
  .next { s with test := { s.test with
    links := mapIf (fun t => t.kind = kind && t.index = index && !t.isMargin && bitAt t.laneMask lane) lock s.test.links } }

/-- One eye of a lane (R666); an NRZ lane has eye 0 alone. -/
def State.eyeBytes (s : State) (t : LinkTest) (lane eye : Nat) : Bytes :=
  if 2 ≤ t.kind && 0 < eye then zeros 8
  else leBytes 8 (Config.eyeMargin t.kind t.index lane eye s.freeCount)

/-- The result of a test that has run its time (R664, R666): `bits` and `errors` are the counts of the reported lanes in ascending order. -/
def State.testResult (s : State) (t : LinkTest) (bits errors : List Nat) : Bytes :=
  let lanes := maskList 32 t.laneMask
  testHeader t.kind t.mode t.pattern lanes.length ++ lanes.zipIdx.flatMap (fun x =>
    if t.isMargin then s.eyeBytes t x.1 0 ++ s.eyeBytes t x.1 1 ++ s.eyeBytes t x.1 2
    else laneEntry (bits.getD x.2 0) (errors.getD x.2 0) (decide (x.1 ∈ t.locked)))

/-- TEST_DURATION_END (R661, R662, R664): the link goes back to mission use and the command completes with the result. -/
def execTestDurationEnd (kind index : Nat) (bits errors : List Nat) (s : State) : Res :=
  .next (match s.test.links.find? (fun t => t.kind = kind && t.index = index) with
    | none => s
    | some t => { (s.endTest t) with freeCount := s.freeCount + 1 }.completeId t.id .ok 0 (s.testResult t bits errors))

/-! ### MEM_BIST (R667 to R670) -/

/-- Result bytes of MEM_BIST: the header and 256 entries (R670). -/
def bistRoom : Nat := 8 + 256 * 16

/-- MEM_BIST (R667 to R669). -/
def execMemBist (id : CmdId) (target algorithm index : Nat) (s : State) : Res :=
  .next (s.startCmd id (.memBist id target algorithm index) (fun s o => do
    inRange (decide (target ≤ 1)) 0x08
    inRange (if target = 0 then decide (algorithm ≤ 1) else algorithm == 0) 0x09
    need (decide (index < (if target = 0 then Variant.clusters s.variant else Variant.stacks s.variant))) .resourceAbsent 0x0A
    needRbuf o bistRoom
    need (s.cfl.protLevel != 2) .protectionDenied s.cfl.protLevel
    need (!s.test.bist.any (fun b => b.target = target && b.index = index) &&
      (target != 0 || !((List.range 8).any (fun p => s.hasPart p && bitAt (s.entry p).clusterMask index && s.ctxs.any (fun c => c.part = p)))))
      .resourceBusy 0
    .ok ({ s with test := { s.test with bist := s.test.bist ++ [{ id := id, target := target, algorithm := algorithm, index := index }] } }, .runs bistRoom)))

/-- Whether a failing location lies in what a test covers (R668, R669): its STORE and its address. -/
def State.bistCovers (s : State) (b : Bist) (store addr : Nat) : Bool :=
  match b.target, store with
  | 1, 4 => (nmLocate addr).1 == b.index
  | 0, 0 => decide (addr < 0x80000000) && s.trackerOf .tidepool addr / 128 == b.index
  | 0, 1 => s.trackerOf .accumulator addr / 8 == b.index
  | 0, 2 => true
  | 0, 3 => true
  | _, _ => false

/-- One failing location of cluster `k` or of a stack: its STORE, whether it is beyond correction, and its address. Answers the state and the entry of R670.
The *Remap capacity* table gives walker SRAM and event counters no spares, so the cluster leaves service (DESIGN CHOICE, log entry 61). -/
def State.bistFault (k : Nat) (se : State × List Bytes) (f : Nat × Nat × Nat) : State × List Bytes :=
  let s := se.1
  let (store, bad, addr) := f
  let entry (unit action : Nat) : Bytes := leBytes 2 unit ++ leBytes 1 store ++ leBytes 1 action ++ leBytes 8 addr ++ zeros 4
  if store = 4 then
    let unit := 0xB000 + (nmLocate addr).1
    if bad = 0 then (((s.correctable .nearMemory addr).scrubClean .nearMemory addr), se.2 ++ [entry unit 2])
    else (s.uncorrectable .nearMemory addr, se.2 ++ [entry unit 3])
  else if 2 ≤ store then ((s.retireUnit (0x5000 + k)).faultDue (0x5000 + k), se.2 ++ [entry (0x5000 + k) 1])
  else
    let st : Store := if store = 0 then .tidepool else .accumulator
    let t := s.remap st addr
    let action := if s.integ.remaps.length < t.integ.remaps.length then 0 else 1
    (t, se.2 ++ [entry ((if store = 0 then 0x6000 else 0x4000) + s.trackerOf st addr) action])

/-- A cluster test leaves the stores of its cores as start-up leaves them (R154, R668). -/
def State.wipeCluster (s : State) (k : Nat) : State :=
  let cs := (List.range 8).map (8 * k + ·)
  let s := cs.foldl State.zeroTidepool s
  { s with cores := s.cores.filter (fun x => x.1 ∉ cs), events := s.events.filter (fun e => e.1.1 ∉ cs) }

/-- MEM_BIST_DONE (R668 to R670): the oldest running test ends; failing locations are hard faults, and the fault list is the result. -/
def execMemBistDone (faults : List (Nat × Nat × Nat)) (s : State) : Res :=
  .next (match s.test.bist with
    | [] => s
    | b :: rest =>
      let s := { s with test := { s.test with bist := rest } }
      let mine := faults.filter (fun f => s.bistCovers b f.1 f.2.2)
      let (s, es) := mine.foldl (State.bistFault b.index) (s, [])
      let s := if b.target = 0 then s.wipeCluster b.index else s
      s.completeId b.id .ok 0 (leBytes 4 es.length ++ leBytes 4 (if 256 < es.length then 1 else 0) ++ (es.take 256).flatten))

/-! ### The TAP (R671 to R674) -/

/-- Cells of the boundary register (R674). -/
def boundaryCells : Nat := 2924

/-- Whether both PERST_N are low and no power-loss sequence runs (R673). -/
def State.heldInReset (s : State) : Bool := s.host.ports.all (fun p => !p.perstN) && !s.power.flushing

/-- The instruction that acts (R587, R671, R673): every other acts as BYPASS. -/
def State.tapActs (s : State) : Nat :=
  let ir := s.test.tapIr
  if ir = 1 then 1
  else if s.cfl.protLevel = 2 then 0xFF
  else if ir = 2 then 2
  else if ir ∈ [0, 3, 4, 5, 6, 0x10] && s.heldInReset then ir
  else 0xFF

/-- Selects an instruction. -/
def State.tapSelect (s : State) (ir : Nat) : State := { s with test := { s.test with tapIr := ir } }

/-- The level of every land, as a number. -/
def State.landSample (s : State) : Nat := ((List.range boundaryCells).filter (Config.landLevel s.freeCount)).foldl (fun acc i => acc + 2 ^ i) 0

/-- The lands' levels are captured and shifted out, where the instruction acts. -/
def State.tapCapture (s : State) (ir : Nat) : State :=
  if s.tapActs = ir then { s with freeCount := s.freeCount + 1, out := s.out ++ [.tdo ir s.landSample] } else s

/-- The IDCODE register (R672). -/
def State.idcode (s : State) : Nat := 2 ^ 28 + (0x4E30 + Variant.dies s.variant) * 2 ^ 12 + 0x4D5 * 2 + 1

/-- TEST_LOGIC_RESET: IDCODE is selected (R671). -/
def execTestLogicReset (s : State) : Res := .next (s.tapSelect 1)

/-- IDCODE (R672). -/
def execIdcode (s : State) : Res := .next { s.tapSelect 1 with out := s.out ++ [.tdo 1 s.idcode] }

/-- BYPASS. -/
def execBypass (s : State) : Res := .next (s.tapSelect 0xFF)

/-- SAMPLE/PRELOAD: the lands are sampled, and the boundary register takes what is shifted in (R671, R674). -/
def execSamplePreload (preload : List Bool) (s : State) : Res :=
  let t := s.tapSelect 2
  .next (if t.tapActs = 2 then
      let t := t.tapCapture 2
      { t with test := { t.test with boundary := (List.range boundaryCells).map (fun i => preload.getD i false) } }
    else t)

/-- EXTEST: drives the lands from the boundary register and captures them (R673). -/
def execExtest (s : State) : Res := .next ((s.tapSelect 0).tapCapture 0)

/-- CLAMP (R673). -/
def execClamp (s : State) : Res := .next (s.tapSelect 3)

/-- HIGHZ (R673). -/
def execHighz (s : State) : Res := .next (s.tapSelect 4)

/-- EXTEST_PULSE, on the PCIe lanes (R673). -/
def execExtestPulse (s : State) : Res := .next ((s.tapSelect 5).tapCapture 5)

/-- EXTEST_TRAIN, on the PCIe lanes (R673). -/
def execExtestTrain (s : State) : Res := .next ((s.tapSelect 6).tapCapture 6)

/-- STACK_1500: access to the stack that the data register names, where the instruction acts (R671, R673). -/
def execStack1500 (stack : Nat) (s : State) : Res :=
  let t := s.tapSelect 0x10
  .next (if t.tapActs = 0x10 then { t with test := { t.test with stack := stack } } else t)

end Sys2Proof.Machine
end

