-- ==== Sys2Proof/Machine/Dispatch.lean ====
section
/-!
DEFINITION. One arm for each command: the direct call of its meaning.
-/
namespace Sys2Proof.Machine

open Sys2Proof

/-- The effect of a command on everything but the queue of waiting commands. -/
def exec (i : Instr) (s : State) : Host.Outcome State Fault Refusal :=
  match i with
  | .nop id => Sys2Proof.Machine.execNop id s
  | .cfgRead id => Sys2Proof.Machine.execCfgRead id s
  | .cfgWrite id => Sys2Proof.Machine.execCfgWrite id s
  | .setOpp id opp => Sys2Proof.Machine.execSetOpp id opp s
  | .storeTune id tunable value => Sys2Proof.Machine.execStoreTune id tunable value s
  | .partCreate id p => Sys2Proof.Machine.execPartCreate id p s
  | .partModify id p => Sys2Proof.Machine.execPartModify id p s
  | .partDestroy id p => Sys2Proof.Machine.execPartDestroy id p s
  | .ctxCreate id p priority => Sys2Proof.Machine.execCtxCreate id p priority s
  | .ctxDestroy id p c => Sys2Proof.Machine.execCtxDestroy id p c s
  | .ctxModify id p c priority => Sys2Proof.Machine.execCtxModify id p c priority s
  | .ctxStatus id p c => Sys2Proof.Machine.execCtxStatus id p c s
  | .ctxFlagsClear id p c mask => Sys2Proof.Machine.execCtxFlagsClear id p c mask s
  | .blockRead id ns lba count => Sys2Proof.Machine.execBlockRead id ns lba count s
  | .blockWrite id ns lba count => Sys2Proof.Machine.execBlockWrite id ns lba count s
  | .blockTrim id ns lba count => Sys2Proof.Machine.execBlockTrim id ns lba count s
  | .storeFlush id => Sys2Proof.Machine.execStoreFlush id s
  | .nsCreate id ns type op encrypt capacity objects => Sys2Proof.Machine.execNsCreate id ns type op encrypt capacity objects s
  | .nsDestroy id ns => Sys2Proof.Machine.execNsDestroy id ns s
  | .objCreate id ns flags obj length => Sys2Proof.Machine.execObjCreate id ns flags obj length s
  | .objWrite id ns obj offset => Sys2Proof.Machine.execObjWrite id ns obj offset s
  | .objRead id ns obj offset length => Sys2Proof.Machine.execObjRead id ns obj offset length s
  | .objDelete id ns obj => Sys2Proof.Machine.execObjDelete id ns obj s
  | .tensorCreate id home => Sys2Proof.Machine.execTensorCreate id home s
  | .tensorDestroy id h => Sys2Proof.Machine.execTensorDestroy id h s
  | .tensorWrite id h region offset => Sys2Proof.Machine.execTensorWrite id h region offset s
  | .tensorRead id h region offset length => Sys2Proof.Machine.execTensorRead id h region offset length s
  | .tensorCopy id src dst => Sys2Proof.Machine.execTensorCopy id src dst s
  | .tensorStage id h => Sys2Proof.Machine.execTensorStage id h s
  | .tensorSync id h => Sys2Proof.Machine.execTensorSync id h s
  | .tensorEvict id h => Sys2Proof.Machine.execTensorEvict id h s
  | .tensorRepair id h source => Sys2Proof.Machine.execTensorRepair id h source s
  | .tensorInfo id h => Sys2Proof.Machine.execTensorInfo id h s
  | .qstats id h first count => Sys2Proof.Machine.execQstats id h first count s
  | .progLoad id => Sys2Proof.Machine.execProgLoad id s
  | .progRun id prog seed => Sys2Proof.Machine.execProgRun id prog seed s
  | .progUnload id prog => Sys2Proof.Machine.execProgUnload id prog s
  | .semCreate id => Sys2Proof.Machine.execSemCreate id s
  | .semAcquire id sem donateMax timeout => Sys2Proof.Machine.execSemAcquire id sem donateMax timeout s
  | .semRelease id sem => Sys2Proof.Machine.execSemRelease id sem s
  | .semDestroy id sem => Sys2Proof.Machine.execSemDestroy id sem s
  | .idxCreate id ns => Sys2Proof.Machine.execIdxCreate id ns s
  | .idxQuery id ns prune count l k beam maxReads => Sys2Proof.Machine.execIdxQuery id ns prune count l k beam maxReads s
  | .idxInsert id ns => Sys2Proof.Machine.execIdxInsert id ns s
  | .idxDelete id ns node => Sys2Proof.Machine.execIdxDelete id ns node s
  | .idxMerge id ns flags => Sys2Proof.Machine.execIdxMerge id ns flags s
  | .idxInfo id ns => Sys2Proof.Machine.execIdxInfo id ns s
  | .idxDestroy id ns => Sys2Proof.Machine.execIdxDestroy id ns s
  | .accordLoad id ctx defLen => Sys2Proof.Machine.execAccordLoad id ctx defLen s
  | .accordRun id acc startStage seed => Sys2Proof.Machine.execAccordRun id acc startStage seed s
  | .accordUnload id acc => Sys2Proof.Machine.execAccordUnload id acc s
  | .modelBind id prog count => Sys2Proof.Machine.execModelBind id prog count s
  | .modelUnbind id model => Sys2Proof.Machine.execModelUnbind id model s
  | .ringForm id ringId epoch members index planes timeout => Sys2Proof.Machine.execRingForm id ringId epoch members index planes timeout s
  | .ringDissolve id ring => Sys2Proof.Machine.execRingDissolve id ring s
  | .ringInfo id ring => Sys2Proof.Machine.execRingInfo id ring s
  | .fabPortSet id lport => Sys2Proof.Machine.execFabPortSet id lport s
  | .fabPortInfo id lport => Sys2Proof.Machine.execFabPortInfo id lport s
  | .cflRead id addr length => Sys2Proof.Machine.execCflRead id addr length s
  | .cflProgram id addr => Sys2Proof.Machine.execCflProgram id addr s
  | .cflErase id sector => Sys2Proof.Machine.execCflErase id sector s
  | .cflSuspend id => Sys2Proof.Machine.execCflSuspend id s
  | .cflResume id => Sys2Proof.Machine.execCflResume id s
  | .cflProtect id level => Sys2Proof.Machine.execCflProtect id level s
  | .attest id nonce => Sys2Proof.Machine.execAttest id nonce s
  | .identityRead id => Sys2Proof.Machine.execIdentityRead id s
  | .romxUpdate id => Sys2Proof.Machine.execRomxUpdate id s
  | .errInject id p kind addr => Sys2Proof.Machine.execErrInject id p kind addr s
  | .linkTest id kind pattern index mode lun laneMask durationMs => Sys2Proof.Machine.execLinkTest id kind pattern index mode lun laneMask durationMs s
  | .linkMargin id kind index laneMask target => Sys2Proof.Machine.execLinkMargin id kind index laneMask target s
  | .memBist id target algorithm index => Sys2Proof.Machine.execMemBist id target algorithm index s
  | .healthLog id => Sys2Proof.Machine.execHealthLog id s
  | .eventWait id => Sys2Proof.Machine.execEventWait id s
  | .acctRead id scope p c => Sys2Proof.Machine.execAcctRead id scope p c s
  | .acctClear id scope p c mask => Sys2Proof.Machine.execAcctClear id scope p c mask s
  | .memInfo id => Sys2Proof.Machine.execMemInfo id s
  | .storeInfo id => Sys2Proof.Machine.execStoreInfo id s
  | .resultRead id handle flags tag offset => Sys2Proof.Machine.execResultRead id handle flags tag offset s
  | .resultRelease id handle flags tag => Sys2Proof.Machine.execResultRelease id handle flags tag s
  | .loadWeights core a => Sys2Proof.Machine.execLoadWeights core a s
  | .swap core halfB => Sys2Proof.Machine.execSwap core halfB s
  | .swapTakesEffect core halfB => Sys2Proof.Machine.execSwapTakesEffect core halfB s
  | .streamMm core a => Sys2Proof.Machine.execStreamMm core a s
  | .mv core a => Sys2Proof.Machine.execMv core a s
  | .vec core a => Sys2Proof.Machine.execVec core a s
  | .qscan core a => Sys2Proof.Machine.execQscan core a s
  | .qconvert core a => Sys2Proof.Machine.execQconvert core a s
  | .copy core stream src dst => Sys2Proof.Machine.execCopy core stream src dst s
  | .fill core width offset length value => Sys2Proof.Machine.execFill core width offset length value s
  | .tpCopy core srcOff dstOff length => Sys2Proof.Machine.execTpCopy core srcOff dstOff length s
  | .wait core event count => Sys2Proof.Machine.execWait core event count s
  | .signal core event cluster increment => Sys2Proof.Machine.execSignal core event cluster increment s
  | .layerMark core layer => Sys2Proof.Machine.execLayerMark core layer s
  | .collective core a => Sys2Proof.Machine.execCollective core a s
  | .commit core => Sys2Proof.Machine.execCommit core s
  | .prefetchIssue core entry => Sys2Proof.Machine.execPrefetchIssue core entry s
  | .commandCommit id => Sys2Proof.Machine.execCommandCommit id s
  | .tokensIn id => Sys2Proof.Machine.execTokensIn id s
  | .embed id => Sys2Proof.Machine.execEmbed id s
  | .search id => Sys2Proof.Machine.execSearch id s
  | .filter id => Sys2Proof.Machine.execFilter id s
  | .rerank id => Sys2Proof.Machine.execRerank id s
  | .gather id => Sys2Proof.Machine.execGather id s
  | .out id => Sys2Proof.Machine.execOut id s
  | .store id => Sys2Proof.Machine.execStore id s
  | .insert id => Sys2Proof.Machine.execInsert id s
  | .loader id => Sys2Proof.Machine.execLoader id s
  | .modelStage id => Sys2Proof.Machine.execModelStage id s
  | .collectiveStage id => Sys2Proof.Machine.execCollectiveStage id s
  | .optimiser id => Sys2Proof.Machine.execOptimiser id s
  | .querySlotStart id qi walker => Sys2Proof.Machine.execQuerySlotStart id qi walker s
  | .recordArrival id qi slot => Sys2Proof.Machine.execRecordArrival id qi slot s
  | .driftlineEntryScan walker ns entry => Sys2Proof.Machine.execDriftlineEntryScan walker ns entry s
  | .mergeRound ns => Sys2Proof.Machine.execMergeRound ns s
  | .driftlineReclaim ns => Sys2Proof.Machine.execDriftlineReclaim ns s
  | .slotProgram slot => Sys2Proof.Machine.execSlotProgram slot s
  | .nandProgramDone slot => Sys2Proof.Machine.execNandProgramDone slot s
  | .nandProgramFail slot => Sys2Proof.Machine.execNandProgramFail slot s
  | .readCodeword ns lblock outcome => Sys2Proof.Machine.execReadCodeword ns lblock outcome s
  | .nandEraseDone group sb => Sys2Proof.Machine.execNandEraseDone group sb s
  | .gcCollect group => Sys2Proof.Machine.execGcCollect group s
  | .readCountThreshold group sb member => Sys2Proof.Machine.execReadCountThreshold group sb member s
  | .retentionScan group sb worst => Sys2Proof.Machine.execRetentionScan group sb worst s
  | .superblockRefresh group sb => Sys2Proof.Machine.execSuperblockRefresh group sb s
  | .wearLevel group => Sys2Proof.Machine.execWearLevel group s
  | .journalPieceWrite die => Sys2Proof.Machine.execJournalPieceWrite die s
  | .mapCheckpoint ns segment => Sys2Proof.Machine.execMapCheckpoint ns segment s
  | .channelRecalibrate channel => Sys2Proof.Machine.execChannelRecalibrate channel s
  | .lunFailure channel lun => Sys2Proof.Machine.execLunFailure channel lun s
  | .tensorWriteBack h => Sys2Proof.Machine.execTensorWriteBack h s
  | .stageTransfer h => Sys2Proof.Machine.execStageTransfer h s
  | .scrubStep st addr found => Sys2Proof.Machine.execScrubStep st addr found s
  | .outOfTurnScrub st addr => Sys2Proof.Machine.execOutOfTurnScrub st addr s
  | .remapTableWrite => Sys2Proof.Machine.execRemapTableWrite s
  | .sliceEnd p => Sys2Proof.Machine.execSliceEnd p s
  | .handover p => Sys2Proof.Machine.execHandover p s
  | .runBoundExpiry id => Sys2Proof.Machine.execRunBoundExpiry id s
  | .semTimeout id => Sys2Proof.Machine.execSemTimeout id s
  | .regulatorAdmit p path unit bytes => Sys2Proof.Machine.execRegulatorAdmit p path unit bytes s
  | .energySample energyMj activity => Sys2Proof.Machine.execEnergySample energyMj activity s
  | .capStep otherW measuredW => Sys2Proof.Machine.execCapStep otherW measuredW s
  | .tempSample temps => Sys2Proof.Machine.execTempSample temps s
  | .healthLogSave => Sys2Proof.Machine.execHealthLogSave s
  | .unitFaultDetected unit => Sys2Proof.Machine.execUnitFaultDetected unit s
  | .deviceClassFault unit => Sys2Proof.Machine.execDeviceClassFault unit s
  | .watchdogExpiry proc cmds => Sys2Proof.Machine.execWatchdogExpiry proc cmds s
  | .clockLoss clk => Sys2Proof.Machine.execClockLoss clk s
  | .powerOn board => Sys2Proof.Machine.execPowerOn board s
  | .pwrgdFall => Sys2Proof.Machine.execPwrgdFall s
  | .plpNFall => Sys2Proof.Machine.execPlpNFall s
  | .flushLimitReached limit => Sys2Proof.Machine.execFlushLimitReached limit s
  | .powerRemoved => Sys2Proof.Machine.execPowerRemoved s
  | .replayStart => Sys2Proof.Machine.execReplayStart s
  | .pkgReset f value board => Sys2Proof.Machine.execPkgReset f value board s
  | .packageReset board => Sys2Proof.Machine.execPackageReset board s
  | .perstAssert port board => Sys2Proof.Machine.execPerstAssert port board s
  | .perstRelease port => Sys2Proof.Machine.execPerstRelease port s
  | .functionLevelReset f => Sys2Proof.Machine.execFunctionLevelReset f s
  | .d3hotEntry f => Sys2Proof.Machine.execD3hotEntry f s
  | .vfEnable port numVfs enable => Sys2Proof.Machine.execVfEnable port numVfs enable s
  | .configRequest f offset => Sys2Proof.Machine.execConfigRequest f offset s
  | .pcieLinkUp port => Sys2Proof.Machine.execPcieLinkUp port s
  | .pcieLinkDown port => Sys2Proof.Machine.execPcieLinkDown port s
  | .sqTail f q value => Sys2Proof.Machine.execSqTail f q value s
  | .commandFetch q => Sys2Proof.Machine.execCommandFetch q s
  | .cqHead f q value => Sys2Proof.Machine.execCqHead f q value s
  | .queueEnable f q value => Sys2Proof.Machine.execQueueEnable f q value s
  | .queueDisable f q value => Sys2Proof.Machine.execQueueDisable f q value s
  | .qConfigUpdate f q value => Sys2Proof.Machine.execQConfigUpdate f q value s
  | .cflWait f value => Sys2Proof.Machine.execCflWait f value s
  | .registerWrite f offset size value => Sys2Proof.Machine.execRegisterWrite f offset size value s
  | .bar2WindowRead port addr length => Sys2Proof.Machine.execBar2WindowRead port addr length s
  | .cflOperationDone => Sys2Proof.Machine.execCflOperationDone s
  | .irqDelayTimeout q => Sys2Proof.Machine.execIrqDelayTimeout q s
  | .resultTimeout handle => Sys2Proof.Machine.execResultTimeout handle s
  | .fibreUnplug oe => Sys2Proof.Machine.execFibreUnplug oe s
  | .fibrePlug oe => Sys2Proof.Machine.execFibrePlug oe s
  | .laserPowerLow port power => Sys2Proof.Machine.execLaserPowerLow port power s
  | .laserPowerRestored port power => Sys2Proof.Machine.execLaserPowerRestored port power s
  | .fabricPortStateChange lport up => Sys2Proof.Machine.execFabricPortStateChange lport up s
  | .dataReceived lport pkt checksumOk => Sys2Proof.Machine.execDataReceived lport pkt checksumOk s
  | .linkAdderHop ring stripe seq => Sys2Proof.Machine.execLinkAdderHop ring stripe seq s
  | .ackReceived lport pkt checksumOk => Sys2Proof.Machine.execAckReceived lport pkt checksumOk s
  | .ackTimer ring stripe => Sys2Proof.Machine.execAckTimer ring stripe s
  | .retransmitTimeout ring stripe seq => Sys2Proof.Machine.execRetransmitTimeout ring stripe seq s
  | .planeFailTimeout ring plane succ => Sys2Proof.Machine.execPlaneFailTimeout ring plane succ s
  | .probeTimer ring plane succ => Sys2Proof.Machine.execProbeTimer ring plane succ s
  | .probeReceived lport pkt checksumOk => Sys2Proof.Machine.execProbeReceived lport pkt checksumOk s
  | .controlRepeat ring => Sys2Proof.Machine.execControlRepeat ring s
  | .hello lport pkt checksumOk => Sys2Proof.Machine.execHello lport pkt checksumOk s
  | .start lport pkt checksumOk => Sys2Proof.Machine.execStart lport pkt checksumOk s
  | .abort lport pkt checksumOk => Sys2Proof.Machine.execAbort lport pkt checksumOk s
  | .broken lport pkt checksumOk => Sys2Proof.Machine.execBroken lport pkt checksumOk s
  | .formTimeout id => Sys2Proof.Machine.execFormTimeout id s
  | .neighborSolicitation lport target => Sys2Proof.Machine.execNeighborSolicitation lport target s
  | .echoRequest lport dest data => Sys2Proof.Machine.execEchoRequest lport dest data s
  | .frameDiscard lport bytes => Sys2Proof.Machine.execFrameDiscard lport bytes s
  | .ideIntegrityFailure f cmd => Sys2Proof.Machine.execIdeIntegrityFailure f cmd s
  | .getVersion path => Sys2Proof.Machine.execGetVersion path s
  | .getCapabilities path => Sys2Proof.Machine.execGetCapabilities path s
  | .negotiateAlgorithms path offersSlhDsa offersSha256 => Sys2Proof.Machine.execNegotiateAlgorithms path offersSlhDsa offersSha256 s
  | .getDigests path => Sys2Proof.Machine.execGetDigests path s
  | .getCertificate path slot offset length => Sys2Proof.Machine.execGetCertificate path slot offset length s
  | .challenge path nonce => Sys2Proof.Machine.execChallenge path nonce s
  | .getMeasurements path index nonce => Sys2Proof.Machine.execGetMeasurements path index nonce s
  | .keyExchange path exchangeData => Sys2Proof.Machine.execKeyExchange path exchangeData s
  | .finish path verifyData => Sys2Proof.Machine.execFinish path verifyData s
  | .keyUpdate path => Sys2Proof.Machine.execKeyUpdate path s
  | .endSession path => Sys2Proof.Machine.execEndSession path s
  | .ideKm f inSession keys => Sys2Proof.Machine.execIdeKm f inSession keys s
  | .mctpControl setEid => Sys2Proof.Machine.execMctpControl setEid s
  | .getState => Sys2Proof.Machine.execGetState s
  | .getHealth offset length => Sys2Proof.Machine.execGetHealth offset length s
  | .getTelemetry watts => Sys2Proof.Machine.execGetTelemetry watts s
  | .getEvent => Sys2Proof.Machine.execGetEvent s
  | .i3cAddressAssignment addr => Sys2Proof.Machine.execI3cAddressAssignment addr s
  | .alertResponse => Sys2Proof.Machine.execAlertResponse s
  | .testLogicReset => Sys2Proof.Machine.execTestLogicReset s
  | .extest => Sys2Proof.Machine.execExtest s
  | .idcode => Sys2Proof.Machine.execIdcode s
  | .samplePreload preload => Sys2Proof.Machine.execSamplePreload preload s
  | .clamp => Sys2Proof.Machine.execClamp s
  | .highz => Sys2Proof.Machine.execHighz s
  | .extestPulse => Sys2Proof.Machine.execExtestPulse s
  | .extestTrain => Sys2Proof.Machine.execExtestTrain s
  | .stack1500 stack => Sys2Proof.Machine.execStack1500 stack s
  | .bypass => Sys2Proof.Machine.execBypass s
  | .debugChainOpen => Sys2Proof.Machine.execDebugChainOpen s
  | .engineStepComplete core stepIdx => Sys2Proof.Machine.execEngineStepComplete core stepIdx s
  | .testDurationEnd kind index bits errors => Sys2Proof.Machine.execTestDurationEnd kind index bits errors s
  | .memBistDone faults => Sys2Proof.Machine.execMemBistDone faults s
  | .checkerLock kind index lane => Sys2Proof.Machine.execCheckerLock kind index lane s

end Sys2Proof.Machine
end

