-- ==== Sys2Proof/Machine/Tick.lean ====
section
/-!
DEFINITION. What an idle step does: one microsecond passes (log entry 5).
-/
namespace Sys2Proof.Machine

open Sys2Proof

/-- The clocks move on: UPTIME_US counts while the package has supply (device register fields), and the health log's power-on time
counts with it (R630). -/
def State.advance (s : State) : State :=
  if s.power.powered then
    { s with now := s.now + 1
             power := { s.power with uptimeUs := (s.power.uptimeUs + 1) % 2 ^ 64 }
             health := { s.health with log := { s.health.log with
               powerOnMs := if (s.now + 1) % 1000 = 0 then s.health.log.powerOnMs + 1 else s.health.log.powerOnMs } } }
  else { s with now := s.now + 1 }

/-- The committed driftline entries reach the flash driftline log (R266, R281; log entry 63). -/
def State.logEntries (s : State) : State :=
  if s.flashFree then { s with indexes := s.indexes.map Index.saveLog } else s

/-- One microsecond on the 25 MHz always-on clock: what a checker has found outside a command takes its effect (log entry 77); a flush or drain goes on (R362), a replay comes to its end (R376), and so does a
lowering of the protection level that no command waits for. -/
def State.tick (s : State) : State :=
  let s := s.advance.settleFaults
  if !s.power.powered then s
  else if s.power.flushing || s.power.draining then s.flushTick
  else if s.power.replaying then s.finishReplay
  -- a lowering whose command has gone runs on to its end (R516, R566)
  else if s.cfl.lowering.isSome && s.cfl.lowerCmd.isNone && s.power.storageReady then s.eraseSecrets.finishLowering.logEntries
  else s.logEntries

end Sys2Proof.Machine
end

