-- ==== Sys2Proof/Safety.lean ====
section
/-!
DEFINITION. What counts as a safe step, and the terms in which statements speak of commands: how a started command ends or goes on, and what a
completion leaves alone.
-/
namespace Sys2Proof

open Sys2Proof.Machine

/-- A step is safe when it ends in a next state: no machine fault and no refusal. -/
def StepsSafely (s : State) : Prop := ∃ t, step s = .next t

/-- A state whose commands that wait all step safely from it, one after another. -/
def RunsSafely : Nat → State → Prop
  | 0, _ => True
  | n + 1, s => ∃ t, step s = .next t ∧ RunsSafely n t

end Sys2Proof

namespace Sys2Proof.Machine

open Sys2Proof

/-- How a command that has done its work, reaching `t` from `s`, ends: its entry is posted with the result `bs`, for which HOLD_RESULT first
reserves room, unless an earlier run of the command has (R512). -/
def State.ends (s t : State) (o : Outst) (st : Status) (det : Nat) (bs : Bytes) : State :=
  match t.holdRoom o bs.length with
  | none => s.complete o .resourceExhausted 0xFFFF []
  | some u => u.complete o st det bs

/-- How a command that has started, reaching `t` from `s`, goes on: it runs, with `room` bytes reserved for a held result (R512). -/
def State.goesOn (s t : State) (o : Outst) (room : Nat) : State :=
  match t.holdRoom o room with
  | none => s.complete o .resourceExhausted 0xFFFF []
  | some u => u.markRunning o.id

/-- How a command that a check refuses ends: in the state before it, or, where the refusal keeps what came before it, in that state unless it has already
ended there. -/
def State.refuses (s : State) (o : Outst) (f : Fail) : State :=
  match f.keep with
  | none => s.complete o f.status f.detail f.bytes
  | some k => k.completeId o.id f.status f.detail f.bytes

/-- Whether a configuration-changing command has its turn (R39). -/
def State.configTurn (s : State) (o : Outst) : Bool := !s.configBusy && s.configNext o

/-- Whether a command on namespace `ns` passes the checks of its identifier (R319, R528, R566, R584, R588), finding the namespace `x`. -/
def State.nsOpen (s : State) (o : Outst) (ns : Nat) (x : Ns) : Bool :=
  !s.nsHeld ns && s.nsOwner ns == some (ioPart o) && decide (s.ns? ns = some x) && !(x.encrypt && s.sec.debugOpened) && !x.keyGone

/-- Whether an invocation stands before its stage `st` of a kind, running and not busy with it (R293). -/
def State.atStage (s : State) (id : CmdId) (i : Invocation) (a : Accord) (st : Stage) (kind : Nat) : Bool :=
  decide (s.inv? id = some i) && decide (s.accordOf? i.accord = some a) && decide (a.stages[i.stage]? = some st) && !i.busy && st.kind == kind &&
    ((s.outst? id).map (fun o => decide (o.phase = .running))).getD false

/-- The commands whose commit point publishes plain changes: blocks, objects and tensors (R207). -/
def plainCommit : Instr → Bool
  | .blockWrite .. | .blockTrim .. | .objWrite .. | .objDelete .. | .tensorWrite .. | .tensorCopy .. | .tensorRepair .. => true
  | _ => false

/-- Whether a frame on a logical port that is up carries a packet of the ring `r` (R428, R432). -/
def State.ringArrival (s : State) (l : Nat) (pkt : LsPkt) (r : Ring) : Bool :=
  s.lportState l == 3 && decide (s.fabric.rings.find? (fun x => x.ringId = pkt.ring && x.epoch = pkt.epoch && x.index = pkt.dst) = some r)

/-- A frame of a ring, counted at its port and charged to the ring's command or the device (R413, R416, R433). -/
def State.counted (s : State) (l : Nat) (pkt : LsPkt) (r : Ring) : State :=
  let n := lsFrameLen (s.lport l) pkt
  let t := (s.countPort l 1 1).countPort l 3 n
  match r.who with
  | some id => t.chargeBytes id 19 n
  | none => t.chargeDevice 19 n

/-- Whether the next step of a core's list is `k` and may issue now (R194, R200), in the run `r` with the core's progress `c`. -/
def State.nextStep (s : State) (flat : Nat) (k : StepKind) (r : Run) (c : CoreRun) : Bool :=
  decide (s.runOn flat = some r) && decide (r.cores.find? (fun c => c.flat = flat) = some c) &&
    ((r.img.steps.getD (r.coreNo flat) [])[c.pc]?.map (fun w => w.kind == k && !c.atCommit && s.canIssue r c w)).getD false

/-- The core has issued its next step: it moves past it, and holds it in flight when it is an engine's, with what the step overwrites (R210). -/
def State.issued (s : State) (flat : Nat) (k : StepKind) (r : Run) (c : CoreRun) : State :=
  (s.keepOld r flat c.pc (if stays k then (r.touches k).2 else [])).updCore r.id flat (fun x => { x with pc := x.pc + 1, inflight := if stays k then x.inflight ++ [x.pc] else x.inflight })

/-- The parts of the machine that posting a completion leaves alone: everything but the host's side of queues and results, the accounts of
contexts, partitions and device, allocations, handle counts, bindings, invocations that end, the room of a held result with its marks (R512), pending management
events, what goes out, and, where an injected error waits for a write (R242), the health counts of what the held result's write meets. -/
structure State.Keeps (s t : State) : Prop where
  pending : t.pending = s.pending
  variant : t.variant = s.variant
  cfg : t.cfg = s.cfg
  arbiters : t.arbiters = s.arbiters
  sems : t.sems = s.sems
  dcache : t.dcache = s.dcache
  bindCount : t.bindCount = s.bindCount
  tensors : t.tensors = s.tensors
  progs : t.progs = s.progs
  models : t.models = s.models
  accords : t.accords = s.accords
  invocations : t.invocations.Sublist s.invocations
  runs : t.runs = s.runs
  cores : t.cores = s.cores
  events : t.events = s.events
  tpDirty : t.tpDirty = s.tpDirty
  tpOwner : t.tpOwner = s.tpOwner
  indexes : t.indexes = s.indexes
  queries : t.queries = s.queries
  flash : t.flash = s.flash
  fabric : t.fabric = s.fabric
  cfl : t.cfl = s.cfl
  sec : t.sec = s.sec
  power : t.power = s.power
  armed : s.integ.armed = [] → t.integ.armed = [] ∧ t.health = s.health
  test : t.test = s.test
  commitSeq : t.commitSeq = s.commitSeq
  now : t.now = s.now
  freeCount : t.freeCount = s.freeCount

end Sys2Proof.Machine
end

