-- ==== Sys2Proof/WellFormed.lean ====
section
/-!
DEFINITION. Well-formed commands: every operand fits the field or the range that the manual gives it. What a command does with a value that fits but
is out of its range is its meaning's concern.
-/
namespace Sys2Proof

/-- A value of at most `w` bits. -/
def fits (w v : Nat) : Bool := decide (v < 2 ^ w)

/-- Two admin queues and 128 I/O queues (R491). -/
def QId.wf : QId → Bool
  | .admin p => decide (p < 2)
  | .io q => decide (q < 128)

/-- Tags are 0 to 31 (R494). -/
def CmdId.wf (i : CmdId) : Bool := i.queue.wf && decide (i.tag < 32)

/-- Two ports with one physical and at most eight virtual functions each (R476, R478). -/
def Fn.wf : Fn → Bool
  | .pf p => decide (p < 2)
  | .vf p n => decide (p < 2) && decide (n < 8)

def SpdmPath.wf : SpdmPath → Bool
  | .doe p => decide (p < 2)
  | .mctp => true

/-- Unit codes are of 16 bits (R618). -/
def Board.wf (b : Board) : Bool := b.failing.all (fits 16) && b.checks.all (fun c => fits 12 c.unit && c.answers.length == 3) &&
  decide (b.nand.length ≤ 8) && b.nand.all (fun f => f.channels.all (fun ch => ch.all (fun l => fits 64 l.1 && l.2.length == 20)))

/-! ### Step words: the widths of the *Step word layouts* table (R197) -/

def LoadArgs.wf (a : LoadArgs) : Bool := fits 3 a.shape && fits 12 a.w && fits 16 a.tileK && fits 16 a.tileN

def MatArgs.wf (a : MatArgs) : Bool :=
  fits 2 a.engine && fits 3 a.shape && fits 3 a.round && fits 3 a.act && fits 12 a.a && fits 12 a.w && fits 12 a.out && fits 12 a.bias &&
    fits 16 a.m && fits 16 a.n && fits 16 a.k && fits 11 a.accBase && fits 8 a.accLog2W && fits 8 a.outFormat && fits 12 a.sregBase &&
    fits 16 a.kOff && fits 16 a.nOff && fits 32 a.mOff

def VecArgs.wf (a : VecArgs) : Bool :=
  fits 8 a.vop && fits 3 a.round && fits 1 a.mode && fits 12 a.a && fits 12 a.b && fits 2 a.bUse && fits 12 a.c && fits 2 a.cUse &&
    fits 12 a.out && fits 8 a.outFormat && fits 8 a.pred && fits 16 a.topkK && fits 32 a.rowOff && fits 32 a.rows

/-- A QSCAN has no SEG, ROUND and OUT. -/
def QuantArgs.wf (convert : Bool) (a : QuantArgs) : Bool :=
  fits 2 a.axis && fits 12 a.src && fits 16 a.group && fits 8 a.target &&
    (if convert then fits 2 a.seg && fits 3 a.round && fits 12 a.out else a.seg == 0 && a.round == 0 && a.out == 0)

def CollArgs.wf (a : CollArgs) : Bool := fits 8 a.cop && fits 8 a.ring && fits 12 a.src && fits 12 a.dst && fits 8 a.headroom

def StepKind.wf : StepKind → Bool
  | .loadWeights a => a.wf
  | .swap _ => true
  | .streamMm a => a.wf
  | .mv a => a.wf
  | .vec a => a.wf
  | .qscan a => a.wf false
  | .qconvert a => a.wf true
  | .copy _ src dst => fits 12 src && fits 12 dst
  | .fill width off n v => fits 8 width && fits 32 off && fits 32 n && fits 64 v
  | .tpCopy src dst n => fits 32 src && fits 32 dst && fits 32 n
  | .wait event count => fits 8 event && fits 16 count
  | .signal event cluster increment => fits 8 event && fits 8 cluster && fits 16 increment
  | .layerMark layer => fits 16 layer
  | .collective a => a.wf
  | .commit => true

/-! ### Longshore packets: the widths of the header (R430) -/

def LsPkt.wf (p : LsPkt) : Bool :=
  fits 8 p.type && fits 32 p.ring && fits 32 p.epoch && fits 16 p.src && fits 16 p.dst && fits 5 p.stripe && fits 8 p.plane &&
    fits 32 p.seq && fits 32 p.ackSeq && fits 32 p.credit && fits 32 p.chunk && fits 32 p.block

/-- The well-formed commands. -/
def Instr.wf : Instr → Bool
  | .nop id => id.wf
  | .cfgRead id => id.wf
  | .cfgWrite id => id.wf
  | .setOpp id opp => id.wf && fits 8 opp
  | .storeTune id tunable value => id.wf && fits 8 tunable && fits 32 value
  | .partCreate id p => id.wf && fits 8 p
  | .partModify id p => id.wf && fits 8 p
  | .partDestroy id p => id.wf && fits 8 p
  | .ctxCreate id p priority => id.wf && fits 8 p && fits 8 priority
  | .ctxDestroy id p c => id.wf && fits 8 p && fits 8 c
  | .ctxModify id p c priority => id.wf && fits 8 p && fits 8 c && fits 8 priority
  | .ctxStatus id p c => id.wf && fits 8 p && fits 8 c
  | .ctxFlagsClear id p c mask => id.wf && fits 8 p && fits 8 c && fits 8 mask
  | .blockRead id ns lba count => id.wf && fits 8 ns && fits 40 lba && fits 32 count
  | .blockWrite id ns lba count => id.wf && fits 8 ns && fits 40 lba && fits 32 count
  | .blockTrim id ns lba count => id.wf && fits 8 ns && fits 40 lba && fits 32 count
  | .storeFlush id => id.wf
  | .nsCreate id ns type op encrypt capacity objects => id.wf && fits 8 ns && fits 8 type && fits 8 op && fits 8 encrypt && fits 64 capacity && fits 64 objects
  | .nsDestroy id ns => id.wf && fits 8 ns
  | .objCreate id ns flags obj length => id.wf && fits 8 ns && fits 8 flags && fits 48 obj && fits 64 length
  | .objWrite id ns obj offset => id.wf && fits 8 ns && fits 48 obj && fits 64 offset
  | .objRead id ns obj offset length => id.wf && fits 8 ns && fits 48 obj && fits 64 offset && fits 32 length
  | .objDelete id ns obj => id.wf && fits 8 ns && fits 48 obj
  | .tensorCreate id home => id.wf && fits 8 home
  | .tensorDestroy id h => id.wf && fits 32 h
  | .tensorWrite id h region offset => id.wf && fits 32 h && fits 8 region && fits 64 offset
  | .tensorRead id h region offset length => id.wf && fits 32 h && fits 8 region && fits 64 offset && fits 32 length
  | .tensorCopy id src dst => id.wf && fits 32 src && fits 32 dst
  | .tensorStage id h => id.wf && fits 32 h
  | .tensorSync id h => id.wf && fits 32 h
  | .tensorEvict id h => id.wf && fits 32 h
  | .tensorRepair id h source => id.wf && fits 32 h && fits 32 source
  | .tensorInfo id h => id.wf && fits 32 h
  | .qstats id h first count => id.wf && fits 32 h && fits 32 first && fits 32 count
  | .progLoad id => id.wf
  | .progRun id prog _ => id.wf && fits 32 prog
  | .progUnload id prog => id.wf && fits 32 prog
  | .semCreate id => id.wf
  | .semAcquire id sem donateMax timeout => id.wf && fits 32 sem && fits 8 donateMax && fits 32 timeout
  | .semRelease id sem => id.wf && fits 32 sem
  | .semDestroy id sem => id.wf && fits 32 sem
  | .idxCreate id ns => id.wf && fits 8 ns
  | .idxQuery id ns prune count l k beam maxReads => id.wf && fits 8 ns && fits 8 prune && fits 16 count && fits 16 l && fits 16 k && fits 8 beam && fits 16 maxReads
  | .idxInsert id ns => id.wf && fits 8 ns
  | .idxDelete id ns node => id.wf && fits 8 ns && fits 64 node
  | .idxMerge id ns flags => id.wf && fits 8 ns && fits 8 flags
  | .idxInfo id ns => id.wf && fits 8 ns
  | .idxDestroy id ns => id.wf && fits 8 ns
  | .accordLoad id ctx defLen => id.wf && fits 8 ctx && fits 32 defLen
  | .accordRun id acc startStage _ => id.wf && fits 32 acc && fits 8 startStage
  | .accordUnload id acc => id.wf && fits 32 acc
  | .modelBind id prog count => id.wf && fits 32 prog && fits 16 count
  | .modelUnbind id model => id.wf && fits 32 model
  | .ringForm id ringId epoch members index planes timeout => id.wf && fits 32 ringId && fits 32 epoch && fits 16 members && fits 16 index && fits 32 planes && fits 32 timeout
  | .ringDissolve id ring => id.wf && fits 32 ring
  | .ringInfo id ring => id.wf && fits 32 ring
  | .fabPortSet id lport => id.wf && fits 8 lport
  | .fabPortInfo id lport => id.wf && fits 8 lport
  | .cflRead id addr length => id.wf && fits 32 addr && fits 32 length
  | .cflProgram id addr => id.wf && fits 32 addr
  | .cflErase id sector => id.wf && fits 16 sector
  | .cflSuspend id => id.wf
  | .cflResume id => id.wf
  | .cflProtect id level => id.wf && fits 8 level
  | .attest id nonce => id.wf && fits 128 nonce
  | .identityRead id => id.wf
  | .romxUpdate id => id.wf
  | .errInject id p kind addr => id.wf && fits 8 p && fits 8 kind && fits 64 addr
  | .linkTest id kind pattern index mode lun laneMask durationMs => id.wf && fits 8 kind && fits 8 pattern && fits 16 index && fits 8 mode && fits 8 lun && fits 32 laneMask && fits 32 durationMs
  | .linkMargin id kind index laneMask target => id.wf && fits 8 kind && fits 16 index && fits 32 laneMask && fits 8 target
  | .memBist id target algorithm index => id.wf && fits 8 target && fits 8 algorithm && fits 16 index
  | .healthLog id => id.wf
  | .eventWait id => id.wf
  | .acctRead id scope p c => id.wf && fits 8 scope && fits 8 p && fits 8 c
  | .acctClear id scope p c mask => id.wf && fits 8 scope && fits 8 p && fits 8 c && fits 32 mask
  | .memInfo id => id.wf
  | .storeInfo id => id.wf
  | .resultRead id handle flags tag offset => id.wf && fits 32 handle && fits 8 flags && fits 8 tag && fits 32 offset
  | .resultRelease id handle flags tag => id.wf && fits 32 handle && fits 8 flags && fits 8 tag
  | .loadWeights core a => fits 8 core && a.wf
  | .swap core _ => fits 8 core
  | .swapTakesEffect core _ => fits 8 core
  | .streamMm core a => fits 8 core && a.wf
  | .mv core a => fits 8 core && a.wf
  | .vec core a => fits 8 core && a.wf
  | .qscan core a => fits 8 core && a.wf false
  | .qconvert core a => fits 8 core && a.wf true
  | .copy core _ src dst => fits 8 core && fits 12 src && fits 12 dst
  | .fill core width offset length value => fits 8 core && fits 8 width && fits 32 offset && fits 32 length && fits 64 value
  | .tpCopy core srcOff dstOff length => fits 8 core && fits 32 srcOff && fits 32 dstOff && fits 32 length
  | .wait core event count => fits 8 core && fits 8 event && fits 16 count
  | .signal core event cluster increment => fits 8 core && fits 8 event && fits 8 cluster && fits 16 increment
  | .layerMark core layer => fits 8 core && fits 16 layer
  | .collective core a => fits 8 core && a.wf
  | .commit core => fits 8 core
  | .prefetchIssue core entry => fits 8 core && fits 16 entry
  | .commandCommit id => id.wf
  | .tokensIn id => id.wf
  | .embed id => id.wf
  | .search id => id.wf
  | .filter id => id.wf
  | .rerank id => id.wf
  | .gather id => id.wf
  | .out id => id.wf
  | .store id => id.wf
  | .insert id => id.wf
  | .loader id => id.wf
  | .modelStage id => id.wf
  | .collectiveStage id => id.wf
  | .optimiser id => id.wf
  | .querySlotStart id qi walker => id.wf && fits 8 qi && fits 8 walker
  | .recordArrival id qi slot => id.wf && fits 8 qi && fits 64 slot
  | .driftlineEntryScan walker ns entry => fits 8 walker && fits 8 ns && fits 32 entry
  | .mergeRound ns => fits 8 ns
  | .driftlineReclaim ns => fits 8 ns
  | .slotProgram _ => true
  | .nandProgramDone _ => true
  | .nandProgramFail _ => true
  | .readCodeword ns _ _ => fits 8 ns
  | .nandEraseDone group _ => fits 3 group
  | .gcCollect group => fits 3 group
  | .readCountThreshold group _ member => fits 3 group && fits 4 member
  | .retentionScan group _ _ => fits 3 group
  | .superblockRefresh group _ => fits 3 group
  | .wearLevel group => fits 3 group
  | .journalPieceWrite die => fits 3 die
  | .mapCheckpoint ns _ => fits 8 ns
  | .channelRecalibrate channel => fits 7 channel
  | .lunFailure channel lun => fits 7 channel && lun.all (fits 3)
  | .tensorWriteBack h => fits 32 h
  | .stageTransfer h => fits 32 h
  | .scrubStep _ _ _ => true
  | .outOfTurnScrub _ _ => true
  | .remapTableWrite => true
  | .sliceEnd p => fits 3 p
  | .handover p => fits 3 p
  | .runBoundExpiry id => id.wf
  | .semTimeout id => id.wf
  | .regulatorAdmit p _ unit _ => fits 3 p && fits 8 unit
  | .energySample _ _ => true
  | .capStep _ _ => true
  | .tempSample _ => true
  | .healthLogSave => true
  | .unitFaultDetected unit => fits 16 unit
  | .deviceClassFault unit => fits 16 unit
  | .watchdogExpiry proc cmds => fits 3 proc && cmds.all CmdId.wf
  | .clockLoss _ => true
  | .powerOn board => board.wf
  | .pwrgdFall => true
  | .plpNFall => true
  | .flushLimitReached _ => true
  | .powerRemoved => true
  | .replayStart => true
  | .pkgReset f _ board => f.wf && board.wf
  | .packageReset board => board.wf
  | .perstAssert port board => fits 1 port && board.wf
  | .perstRelease port => fits 1 port
  | .functionLevelReset f => f.wf
  | .d3hotEntry f => f.wf
  | .vfEnable port numVfs _ => fits 1 port && fits 16 numVfs
  | .configRequest f offset => f.wf && fits 12 offset
  | .pcieLinkUp port => fits 1 port
  | .pcieLinkDown port => fits 1 port
  | .sqTail f q _ => f.wf && q.wf
  | .commandFetch q => q.wf
  | .cqHead f q _ => f.wf && q.wf
  | .queueEnable f q _ => f.wf && q.wf
  | .queueDisable f q _ => f.wf && q.wf
  | .qConfigUpdate f q _ => f.wf && q.wf
  | .cflWait f _ => f.wf
  | .registerWrite f offset size _ => f.wf && fits 64 offset && fits 8 size
  | .bar2WindowRead port addr length => fits 1 port && fits 32 addr && fits 16 length
  | .cflOperationDone => true
  | .irqDelayTimeout q => q.wf
  | .resultTimeout handle => fits 32 handle
  | .fibreUnplug oe => fits 3 oe
  | .fibrePlug oe => fits 3 oe
  | .laserPowerLow port _ => fits 4 port
  | .laserPowerRestored port _ => fits 4 port
  | .fabricPortStateChange lport _ => fits 5 lport
  | .dataReceived lport pkt _ => fits 5 lport && pkt.wf
  | .linkAdderHop ring stripe seq => fits 32 ring && fits 5 stripe && fits 32 seq
  | .ackReceived lport pkt _ => fits 5 lport && pkt.wf
  | .ackTimer ring stripe => fits 32 ring && fits 5 stripe
  | .retransmitTimeout ring stripe seq => fits 32 ring && fits 5 stripe && fits 32 seq
  | .planeFailTimeout ring plane _ => fits 32 ring && fits 5 plane
  | .probeTimer ring plane _ => fits 32 ring && fits 5 plane
  | .probeReceived lport pkt _ => fits 5 lport && pkt.wf
  | .controlRepeat ring => fits 32 ring
  | .hello lport pkt _ => fits 5 lport && pkt.wf
  | .start lport pkt _ => fits 5 lport && pkt.wf
  | .abort lport pkt _ => fits 5 lport && pkt.wf
  | .broken lport pkt _ => fits 5 lport && pkt.wf
  | .formTimeout id => id.wf
  | .neighborSolicitation lport target => fits 5 lport && fits 128 target
  | .echoRequest lport dest _ => fits 5 lport && fits 128 dest
  | .frameDiscard lport bytes => fits 5 lport && fits 16 bytes
  | .ideIntegrityFailure f cmd => f.wf && cmd.all CmdId.wf
  | .getVersion path => path.wf
  | .getCapabilities path => path.wf
  | .negotiateAlgorithms path _ _ => path.wf
  | .getDigests path => path.wf
  | .getCertificate path slot offset length => path.wf && fits 8 slot && fits 16 offset && fits 16 length
  | .challenge path _ => path.wf
  | .getMeasurements path index nonce => path.wf && fits 8 index && fits 256 nonce
  | .keyExchange path _ => path.wf
  | .finish path _ => path.wf
  | .keyUpdate path => path.wf
  | .endSession path => path.wf
  | .ideKm f _ _ => f.wf
  | .mctpControl setEid => setEid.all (fits 8)
  | .getState => true
  | .getHealth offset length => fits 16 offset && fits 16 length
  | .getTelemetry _ => true
  | .getEvent => true
  | .i3cAddressAssignment addr => fits 7 addr
  | .alertResponse => true
  | .testLogicReset => true
  | .extest => true
  | .idcode => true
  | .samplePreload _ => true
  | .clamp => true
  | .highz => true
  | .extestPulse => true
  | .extestTrain => true
  | .stack1500 stack => fits 8 stack
  | .bypass => true
  | .debugChainOpen => true
  | .engineStepComplete core _ => fits 8 core
  | .testDurationEnd kind index _ _ => fits 8 kind && fits 16 index
  | .memBistDone _ => true
  | .checkerLock kind index lane => fits 8 kind && fits 16 index && fits 8 lane

end Sys2Proof
end

