-- ==== Sys2Proof/Certificates/Slice0/Obligations.lean ====
section
/-!
DEFINITION. The statements for the provers.
-/

open Sys2Proof Sys2Proof.Machine

/-- R25, R346, R522: NOP, CFG_READ and STORE_TUNE, once their waits are over and their fields in range, complete with OK; only STORE_TUNE changes a setting,
its own. -/
def Obligations.AdminCommandsComplete : Prop :=
  ∀ (s : State) (id : CmdId) (o : Outst),
    (s.startable id (.nop id) = some o → o.hold = false → exec (.nop id) s = .next (s.complete o .ok 0 [])) ∧
    (s.startable id (.cfgRead id) = some o → (o.hold || decide (512 ≤ o.rbufLen)) = true →
      exec (.cfgRead id) s = .next (s.ends s o .ok 0 s.stored.bytes)) ∧
    (∀ tunable value, s.startable id (.storeTune id tunable value) = some o → o.hold = false → tunable ≤ 4 → tuneOk tunable value = true →
      exec (.storeTune id tunable value) s =
        .next (({ s with cfg := { s.cfg with
          tunables := setAt tunable value s.cfg.tunables, tunablesSaved := setAt tunable value s.cfg.tunables, tunablesLost := false } } : State).complete o .ok 0 []))

/-- R30, R33, R35, R36, R39, R40, R382, R384, R385, R550, R599, R604: a record or partition entry that passes the checks is adopted; where the caps in force
stay and dirty data is under the ceiling the command completes at once, otherwise it waits for them. SET_OPP puts the operating point in force (R599). -/
def Obligations.ConfigCommandsComplete : Prop :=
  ∀ (s : State) (id : CmdId) (o : Outst), s.configTurn o = true → o.hold = false →
    let ends := fun (u t : State) =>
      let cap := decide (u.capsNow ≠ t.capsNow)
      let ceiling := decide (t.ceilingPieces < t.dirtyPieces)
      if cap || ceiling then
        ({ t with cfg := { t.cfg with
          waitingCap := if cap then t.cfg.waitingCap ++ [id] else t.cfg.waitingCap
          waitingCeiling := if ceiling then t.cfg.waitingCeiling ++ [id] else t.cfg.waitingCeiling } } : State).markRunning id
      else t.complete o .ok 0 []
    (∀ opp, s.startable id (.setOpp id opp) = some o → opp ≤ 3 → minWait opp ≤ o.rung.2 →
      exec (.setOpp id opp) s = .next ((({ s with power := { s.power with opp := opp } } : State).holdClocks).complete o .ok 0 [])) ∧
    (s.startable id (.cfgWrite id) = some o → 512 ≤ o.ibufLen → s.hostBad o.ibuf 512 = false → recFault (s.hostRd o.ibuf 512) = none →
      let u := s.chargeBytes o.id 16 512
      let r := recOf (s.hostRd o.ibuf 512)
      let t := u.adoptRecord r
      u.checkProtected r = .ok () → u.checkRecord r = .ok () → exec (.cfgWrite id) s = .next (ends u t)) ∧
    (∀ p, p < 8 → 48 ≤ o.ibufLen → s.hostBad o.ibuf 48 = false → s.layoutPending = false → entryFault (s.hostRd o.ibuf 48) = none →
      (pEntryOf (s.hostRd o.ibuf 48)).valid = 1 →
      s.test.bist.all (fun b => !(b.target = 0 && bitAt (pEntryOf (s.hostRd o.ibuf 48)).clusterMask b.index)) = true →
      let u := s.chargeBytes o.id 16 48
      let r := s.stored.withEntry p (pEntryOf (s.hostRd o.ibuf 48))
      let t := u.adoptRecord r
      u.checkRecord r = .ok () →
      (s.startable id (.partCreate id p) = some o → s.hasPart p = false → exec (.partCreate id p) s = .next (t.complete o .ok 0 [])) ∧
      (s.startable id (.partModify id p) = some o → s.hasPart p = true → exec (.partModify id p) s = .next (ends u t))) ∧
    (∀ p, s.startable id (.partDestroy id p) = some o → p < 8 → s.hasPart p = true → s.layoutPending = false →
      s.checkRecord (s.stored.withEntry p {}) = .ok () →
      exec (.partDestroy id p) s = .next ((s.adoptRecord (s.stored.withEntry p {})).complete o .ok 0 []))

/-- R28, R123, R391, R392, R393, R531: the context commands on a partition and context that exist. CTX_CREATE takes the lowest free number and answers its
queue. -/
def Obligations.ContextCommandsComplete : Prop :=
  ∀ (s : State) (id : CmdId) (o : Outst) (p : Nat), p < 8 → s.hasPart p = true →
    (∀ priority c, s.startable id (.ctxCreate id p priority) = some o → priority ≤ 3 → (o.hold || decide (4 ≤ o.rbufLen)) = true →
      c < (s.entry p).ctxMax → s.ctx? p c = none → (∀ k < c, s.ctx? p k ≠ none) →
      exec (.ctxCreate id p priority) s =
        .next (s.ends { s with ctxs := s.ctxs ++ [Ctx.fresh p c priority s.now] } o .ok 0 (leBytes 1 c ++ [0] ++ leBytes 2 (16 * p + c)))) ∧
    (∀ c x, c < 16 → s.ctx? p c = some x →
      (s.startable id (.ctxStatus id p c) = some o → (o.hold || decide (16 ≤ o.rbufLen)) = true →
        exec (.ctxStatus id p c) s = .next (s.ends s o .ok 0 (s.ctxStatus p c x))) ∧
      (o.hold = false →
        (s.startable id (.ctxDestroy id p c) = some o →
          s.holdsCommand (.io (16 * p + c)) = false →
          exec (.ctxDestroy id p c) s = .next ((s.dropContext p c).complete o .ok 0 [])) ∧
        (∀ priority, s.startable id (.ctxModify id p c priority) = some o → priority ≤ 3 →
          exec (.ctxModify id p c priority) s = .next ((s.updCtx p c (fun y => { y with base := priority })).complete o .ok 0 [])) ∧
        (∀ mask, s.startable id (.ctxFlagsClear id p c mask) = some o → mask < 32 →
          exec (.ctxFlagsClear id p c mask) s =
            .next ((s.updCtx p c (fun y => { y with flags := y.flags &&& (31 - mask) })).complete o .ok 0 []))))

/-- R319, R327, R329, R331, R333: the block commands on a namespace of type block. A read completes with its blocks; a write and a trim leave their data
uncommitted and run on to their commit point; STORE_FLUSH waits for every committed slot. -/
def Obligations.BlockCommandsComplete : Prop :=
  ∀ (s : State) (id : CmdId) (o : Outst),
    (∀ ns lba count x, ns < 64 → 1 ≤ count → count ≤ 65536 → s.nsOpen o ns x = true → x.type = 0 → lba < x.capacity → lba + count ≤ x.capacity →
      (∀ bs, s.startable id (.blockRead id ns lba count) = some o → (o.hold || decide (4096 * count ≤ o.rbufLen)) = true →
        s.readBlocks ns lba count = .ok bs →
        exec (.blockRead id ns lba count) s = .next (s.ends ((s.noteReads ns lba count).chargeBytes id 14 (s.readTraffic ns lba count)) o .ok 0 bs)) ∧
      (s.startable id (.blockWrite id ns lba count) = some o → o.hold = false → 4096 * count ≤ o.ibufLen → s.flash.readOnly = false →
        s.dirtyFits (unitsOf lba count).length = .ok () → s.writesHeld = false → s.roomFor (unitsOf lba count) = true →
        s.hostBad o.ibuf (4096 * count) = false →
        exec (.blockWrite id ns lba count) s =
          .next (((s.chargeBytes o.id 16 (4096 * count)).writeBlocks id ns lba count (s.hostRd o.ibuf (4096 * count))).markRunning id)) ∧
      (s.startable id (.blockTrim id ns lba count) = some o → o.hold = false → s.dirtyFits (partialUnits lba count).length = .ok () →
        s.roomFor (partialUnits lba count) = true →
        exec (.blockTrim id ns lba count) s = .next ((s.trimRun id ns lba count).markRunning id))) ∧
    (s.startable id (.storeFlush id) = some o → o.hold = false →
      (s.flash.slots.all (fun x => x.seq.isNone) = true → exec (.storeFlush id) s = .next (s.complete o .ok 0 [])) ∧
      (s.flash.slots.any (fun x => x.seq.isSome) = true →
        exec (.storeFlush id) s =
          .next (((s.flash.slots.filter (fun x => x.seq.isSome)).foldl (fun t x => t.addPend id (.slot x.sid)) s).markRunning id)))
/-- R302, R317, R318, R321, R322, R323, R324, R327, R331, R333, R582: the namespace and object commands. An encrypted namespace takes a fresh key whose
wrapped form fills its key slot; an object takes a whole extent; writes and deletes run on to their commit point. -/
def Obligations.NamespaceAndObjectCommandsComplete : Prop :=
  ∀ (s : State) (id : CmdId) (o : Outst) (ns : Nat), ns < 64 →
    (∀ type op encrypt capacity objects, s.startable id (.nsCreate id ns type op encrypt capacity objects) = some o → o.hold = false →
      s.nsHeld ns = false → type ≤ 2 → (op = 0 ∨ 7 ≤ op ∧ op ≤ 50) → encrypt ≤ 1 → 4 ≤ capacity → capacity % 4 = 0 →
      (if type = 1 then 1 ≤ objects ∧ objects ≤ capacity / 2 else objects = 0) → s.nsOwner ns = some (ioPart o) → s.ns? ns = none →
      s.flash.allocated + nsTakes capacity (if op = 0 then 12 else op) ≤ s.flash.dataCapacity →
      let key := if encrypt = 1 then s.sec.drbg + 1 else 0
      exec (.nsCreate id ns type op encrypt capacity objects) s =
        .next (({ s with
          flash := { s.flash with ns := s.flash.ns ++ [{ nsid := ns, type := type, capacity := capacity, op := if op = 0 then 12 else op, encrypt := decide (encrypt = 1), objects := objects, keyGen := key, keyLost := false }] }
          sec := { s.sec with
            drbg := s.sec.drbg + encrypt
            keySlots := if encrypt = 1 then setAt ns key s.sec.keySlots else s.sec.keySlots
            keyGens := setAt ns (s.sec.keyGens.getD ns 0 + encrypt) s.sec.keyGens } } : State).complete o .ok 0 [])) ∧
    (∀ x, s.nsHeld ns = false → s.nsNamed o ns = .ok x → s.startable id (.nsDestroy id ns) = some o → o.hold = false → s.indexBusy ns = false →
        s.host.outst.all (fun y => y.id = id || y.phase == .posted || !s.cmdNames ns y.cmd) = true →
        let t := ({ s with commitSeq := nextSeq s.commitSeq } : State).emptyNs ns s.commitSeq
        exec (.nsDestroy id ns) s =
          .next ((({ t with
            flash := { t.flash with ns := t.flash.ns.filter (fun y => y.nsid ≠ ns) }
            sec := { t.sec with keySlots := if x.encrypt then setAt ns 0 t.sec.keySlots else t.sec.keySlots } } : State).spareEvents.settleFlush.settleCeiling).complete o .ok 0 [])) ∧
    (∀ x, s.nsOpen o ns x = true → x.type = 1 →
        (∀ flags ob len n, s.startable id (.objCreate id ns flags ob len) = some o → o.hold = false → len < 2 ^ 40 → s.obj? ns ob = none → ob < x.objects →
          s.flash.readOnly = false → (bitAt flags 0 = false ∨ s.flash.canMirror = true) →
          ({ s with flash := { s.flash with objs := s.flash.objs ++ s.pendingObjs } } : State).newExtent x ob len (bitAt flags 0) = some n →
          let t : State := { s with commitSeq := nextSeq s.commitSeq, flash := { s.flash with objs := s.flash.objs ++ [n] } }
          (∀ u, t.writeThrough s.commitSeq ns (ob / 256) 1 (tableBlock ns (ob / 256) t.flash.objs) = some u →
            exec (.objCreate id ns flags ob len) s = .next (u.settleFlush.settleCeiling.complete o .ok 0 [])) ∧
          (t.writeThrough s.commitSeq ns (ob / 256) 1 (tableBlock ns (ob / 256) t.flash.objs) = none → exec (.objCreate id ns flags ob len) s = .next s)) ∧
        (∀ ob b, s.obj? ns ob = some b →
          (∀ off, off % 4096 = 0 → off + o.ibufLen ≤ b.length → s.startable id (.objWrite id ns ob off) = some o → o.hold = false →
            s.flash.readOnly = false → s.hostBad o.ibuf o.ibufLen = false → s.writesHeld = false →
            let us := unitsOf (b.first + off / 4096) (ceilDiv o.ibufLen 4096)
            s.dirtyFits us.length = .ok () → s.roomFor us = true →
            ∀ n data, (s.chargeBytes o.id 16 o.ibufLen).objBlocks b off (s.hostRd o.ibuf o.ibufLen) = .ok (n, data) →
            let u := s.chargeBytes o.id 16 o.ibufLen
            let v := if o.ibufLen % 4096 = 0 then u else u.noteReads ns (b.first + off / 4096 + n - 1) 1
            exec (.objWrite id ns ob off) s = .next ((v.writeBlocks id ns (b.first + off / 4096) n data).markRunning id)) ∧
          (∀ off len bs, s.startable id (.objRead id ns ob off len) = some o → (o.hold || decide (len ≤ o.rbufLen)) = true → off + len ≤ b.length →
            s.readNsBytes ns (4096 * b.first + off) len = .ok bs →
            exec (.objRead id ns ob off len) s =
              .next (s.ends ((s.noteBytes ns (4096 * b.first + off) len).chargeBytes id 14
                (s.readTraffic ns (b.first + off / 4096) (ceilDiv (off % 4096 + len) 4096))) o .ok 0 bs)) ∧
          (∀ us, us = partialUnits b.first b.blocks ++ unitsOf (ob / 256) 1 →
            s.startable id (.objDelete id ns ob) = some o → o.hold = false → s.dirtyFits us.length = .ok () → s.roomFor us = true →
            exec (.objDelete id ns ob) s = .next ((s.deleteObj id b).markRunning id))))

/-- R148, R161, R162, R168, R170, R172, R173, R174, R178, R179, R305, R676: the commands on tensors of the issuing partition. Reads and statistics answer the
bytes of the generation current at their start; writes, copies and repairs go to a shadow and run on to their commit point. -/
def Obligations.TensorCommandsComplete : Prop :=
  ∀ (s : State) (id : CmdId) (o : Outst),
    (∀ home u bases, s.startable id (.tensorCreate id home) = some o → (home = 0xFF ∨ home < Variant.dies s.variant) → 160 ≤ o.ibufLen →
      (o.hold || decide (4 ≤ o.rbufLen)) = true → s.hostBad o.ibuf 160 = false →
      let d := descOf (s.hostRd o.ibuf 160)
      let v := s.chargeBytes o.id 16 160
      (d.tier = 3 → s.nsHeld (backingOf d.backing).1 = false) →
      descFault (s.hostRd o.ibuf 160) d false = none → v.descChecks o d = .ok () → 
      v.allocTensor (ioPart o) home (fun k => if d.tier = 1 then d.regionBytes k else if d.tier = 2 && k = 1 then d.regionBytes 1 else 0) = some (u, bases) →
      let h := (u.newHandle (ioPart o)).2
      let e : Desc := { d.setBases (if d.tier = 2 then setAt 0 d.base bases else bases) with handle := h, part := ioPart o, channels := d.chanCount, bytes := d.arrayBytes }
      exec (.tensorCreate id home) s =
        .next (s.ends { (u.newHandle (ioPart o)).1 with
          tensors := (u.newHandle (ioPart o)).1.tensors ++
            [{ desc := e
               home := if d.tier = 1 then nmDie e.base
                 else if d.tier = 2 ∧ home = 0xFF then (if e.expBase = 0 then ((u.newHandle (ioPart o)).1.homeDies (ioPart o) home).headD home else nmDie e.expBase)
                 else home
               dirty := [], staged := false, lastBound := 0 }] } o .ok 0 (leBytes 4 h))) ∧
    (∀ h t, s.tensorIdent o h = .ok t →
      (s.startable id (.tensorDestroy id h) = some o → o.hold = false → s.isBound h = false → s.models.all (fun m => decide (h ∉ m.weights)) = true →
        let u := s.writeBackAll h
        (u.isClean h = false → exec (.tensorDestroy id h) s = .next s) ∧
        (u.isClean h = true → exec (.tensorDestroy id h) s =
          .next ((({ u with tensors := u.tensors.filter (fun x => x.desc.handle ≠ h) } : State).sweep.settleCeiling).complete o .ok 0 []))) ∧
      (s.startable id (.tensorInfo id h) = some o → (o.hold || decide (160 ≤ o.rbufLen)) = true →
        exec (.tensorInfo id h) s = .next (s.ends s o .ok 0 t.desc.shown.bytesOf)) ∧
      (∀ region off u, s.startable id (.tensorWrite id h region off) = some o → o.hold = false → region ≤ 3 → off + o.ibufLen ≤ t.desc.partBytes region →
        (s.writesHeld = false ∨ t.desc.tier ≠ 3) → s.bindTarget id h = .ok u → u.hostBad o.ibuf o.ibufLen = false →
        let v := u.chargeBytes o.id 16 o.ibufLen
        exec (.tensorWrite id h region off) s = .next ((v.tensorPut t.desc.part id (v.viewOf id h) region off (u.hostRd o.ibuf o.ibufLen)).markRunning id)) ∧
      (∀ region off len u, s.startable id (.tensorRead id h region off len) = some o → region ≤ 4 → (o.hold || decide (len ≤ o.rbufLen)) = true →
        off + len ≤ t.desc.regionBytes region → (s.openBinding id).bindInputs id .dataPoisoned 0 [h] = .ok u →
        let base := (u.viewOf id h).bases.getD region 0 + off
        let w := (if inHostWindow base then u else u.probe base len).askHost t.desc.part base len
        w.hwinBad t.desc.part base len = false → w.poisoned base len = false →
        exec (.tensorRead id h region off len) s = .next (s.ends w o .ok 0 (w.devRd t.desc.part base len))) ∧
      (∀ first count u, s.startable id (.qstats id h first count) = some o → t.desc.holds 4 = true → (o.hold || decide (16 * count ≤ o.rbufLen)) = true →
        (first < t.desc.chanCount ∨ count = 0) → first + count ≤ t.desc.chanCount → (s.openBinding id).bindInputs id .dataPoisoned 0 [h] = .ok u →
        let base := (u.viewOf id h).bases.getD 4 0 + 16 * first
        (u.probe base (16 * count)).poisoned base (16 * count) = false →
        exec (.qstats id h first count) s =
          .next (s.ends (u.probe base (16 * count)) o .ok 0 ((u.probe base (16 * count)).devRd t.desc.part base (16 * count)))) ∧
      (∀ dst b u, s.startable id (.tensorCopy id h dst) = some o → o.hold = false → s.tensorIdent o dst = .ok b → copyFault t.desc b.desc = none →
        (s.writesHeld = false ∨ b.desc.tier ≠ 3) → s.bindPair id h dst 0x08 0x0C = .ok u →
        let v := u.sourceView id h
        let w := (u.probeParts { v.desc with handle := h }).askTensor t.desc.part v.desc
        w.hostFails t.desc.part v.desc = false → w.partsPoisoned v.desc = false →
        exec (.tensorCopy id h dst) s =
          .next (((w.copyWhole t.desc.part id v (w.viewOf id dst)).chargeCopy id v (w.viewOf id dst)).markRunning id)) ∧
      (∀ u, s.startable id (.tensorRepair id h nullHandle) = some o → o.hold = false → (s.writesHeld = false ∨ t.desc.tier ≠ 3) →
        let n := (t.desc.repairLayout.map (fun x => x.2.2)).sum
        n ≤ o.ibufLen → s.bindTarget id h = .ok u → u.hostBad o.ibuf n = false →
        let v := (u.chargeBytes o.id 16 n).viewOf id h
        exec (.tensorRepair id h nullHandle) s =
          .next (((t.desc.repairLayout.foldl (fun (s : State) x => s.tensorPut t.desc.part id v x.1 0 (((u.hostRd o.ibuf n).drop x.2.1).take x.2.2))
            (u.chargeBytes o.id 16 n)).refillPart t.desc.part id v 4).markRunning id)) ∧
      (∀ source a u, source ≠ nullHandle → s.startable id (.tensorRepair id h source) = some o → o.hold = false → s.tensorIdent o source = .ok a →
        copyFault a.desc t.desc = none → (s.writesHeld = false ∨ t.desc.tier ≠ 3) → s.bindPair id source h 0x0C 0x08 = .ok u →
        let v := u.sourceView id source
        let w := (u.probeParts v.desc).askTensor t.desc.part v.desc
        w.hostFails t.desc.part v.desc = false → w.partsPoisoned v.desc = false →
        let y := w.viewOf id h
        exec (.tensorRepair id h source) s =
          .next (([2, 3, 4].foldl (fun s k => if a.desc.holds k then s else s.refillPart t.desc.part id y k)
            ((w.copyWhole t.desc.part id v y).chargeCopy id v y)).markRunning id)))

/-- R33, R172, R180, R181, R183, R184: staging, write-back and eviction. TENSOR_STAGE and TENSOR_SYNC run until the work is done, which then completes them; a
tensor that needs no work completes them at once. -/
def Obligations.TensorTierCommandsComplete : Prop :=
  ∀ (s : State) (id : CmdId) (o : Outst) (h : Nat) (t : Tensor),
    (s.tensorIdent o h = .ok t → o.hold = false →
      (s.startable id (.tensorStage id h) = some o → (t.staged = true ∨ t.desc.tier ≠ 3) → exec (.tensorStage id h) s = .next (s.complete o .ok 0 [])) ∧
      (s.startable id (.tensorStage id h) = some o → t.staged = false → t.desc.tier = 3 → (State.stage id h (s.tensors.length + 1) s).isSome = true →
        exec (.tensorStage id h) s = .next (s.markRunning id)) ∧
      (s.startable id (.tensorSync id h) = some o → t.dirty = [] → exec (.tensorSync id h) s = .next ((s.writeBackAll h).complete o .ok 0 [])) ∧
      (s.startable id (.tensorSync id h) = some o → t.dirty ≠ [] → exec (.tensorSync id h) s = .next (s.markRunning id)) ∧
      (s.startable id (.tensorEvict id h) = some o → s.isBound h = false → s.models.all (fun m => decide (h ∉ m.weights)) = true →
        (t.staged = false → exec (.tensorEvict id h) s = .next (s.complete o .ok 0 [])) ∧
        (t.staged = true → (s.writeBackAll h).isClean h = true →
          exec (.tensorEvict id h) s = .next ((((s.writeBackAll h).unstage h).settleCeiling).complete o .ok 0 [])) ∧
        (t.staged = true → (s.writeBackAll h).isClean h = false → exec (.tensorEvict id h) s = .next s))) ∧
    (∀ i is u, s.stagersOf h = i :: is → State.stage i h (s.tensors.length + 1) s = some u →
      exec (.stageTransfer h) s = .next ((s.stagersOf h).foldl (fun v i => v.completeId i .ok 0 []) u)) ∧
    (s.flashFree = true →
      let u := s.writeBackAll h
      (u.isClean h = false → exec (.tensorWriteBack h) s = .next u.settleCeiling) ∧
      (u.isClean h = true → exec (.tensorWriteBack h) s =
        .next ((((u.host.outst.filter (fun x => x.cmd = .tensorSync x.id h && x.phase = .running)).map (·.id)).foldl (fun v i => v.completeId i .ok 0 []) u).settleCeiling)))
/-- R192, R193, R194, R195, R216, R396: PROG_LOAD stores a sound image in near memory and answers its handle; PROG_UNLOAD forgets it; PROG_RUN binds its
operands and starts the run, which goes on. -/
def Obligations.ProgramCommandsComplete : Prop :=
  ∀ (s : State) (id : CmdId) (o : Outst),
    (∀ g u base, s.startable id (.progLoad id) = some o → (o.hold || decide (8 ≤ o.rbufLen)) = true → 128 ≤ o.ibufLen →
      s.hostBad o.ibuf 128 = false →
      let n := imageReads (s.hostRd o.ibuf 128)
      let b := s.hostRd o.ibuf n
      let v := s.chargeBytes o.id 16 n
      n ≤ o.ibufLen → s.hostBad o.ibuf n = false →
      validateImage b (v.runCores (ioPart o)).length (v.entry (ioPart o)).tpBytes = .ok g → v.alloc (ioPart o) 0xFF b.length = some (u, base) →
      let w := (u.devWr (ioPart o) base b).newHandle (ioPart o)
      exec (.progLoad id) s =
        .next (s.ends { w.1 with progs := w.1.progs ++ [{ handle := w.2, part := ioPart o, alloc := base, len := b.length, img := g }] } o .ok 0 (leBytes 4 w.2))) ∧
    (∀ prog x, s.progIdent (ioPart o) prog = .ok x → o.hold = false →
      (s.startable id (.progUnload id prog) = some o → s.progNamed prog = false →
        exec (.progUnload id prog) s = .next ((({ s with progs := s.progs.filter (fun y => y.handle ≠ prog) } : State).sweep).complete o .ok 0 [])) ∧
      (∀ seed u v, s.startable id (.progRun id prog seed) = some o → s.sliceAllows id = true →
        let n := 4 * (x.img.slots.length + x.img.rings)
        let w := s.chargeBytes o.id 16 n
        let slots := handlesOf (s.hostRd o.ibuf n) 0 x.img.slots.length
        let rings := handlesOf (s.hostRd o.ibuf n) (4 * x.img.slots.length) x.img.rings
        n ≤ o.ibufLen → s.hostBad o.ibuf n = false → w.bindChecks (ioPart o) x.img slots rings = .ok () →
        w.dirtyFits ((x.img.outputs slots).map w.tensorPieces).sum = .ok () → w.outputsHeld (x.img.outputs slots) = false →
        let wher := fun (h : Nat) => 4 * slots.idxOf h
        (w.openBinding id).bindInputs id .dataPoisoned 0 (x.img.inputs slots) wher = .ok u → u.bindOutputs id (x.img.outputs slots) wher = .ok v →
        exec (.progRun id prog seed) s = .next ((v.startRun id (ioPart o) (qCtx id.queue) x.img slots rings seed).markRunning id)))

/-- R405, R406, R407, R410, R411: the semaphore commands. SEM_CREATE (semCreate) makes a semaphore, up to 64 in a partition; SEM_ACQUIRE (semAcquire) of a free
semaphore, once no acquire that rang before it still waits to start, takes it and the answer tells whether it was abandoned, of one that another context holds
it waits in its place, of one that its own context holds it completes with RESOURCE_BUSY; SEM_RELEASE (semRelease) by the holder passes it on, by another
completes with SEM_NOT_HOLDER; SEM_DESTROY (semDestroy) removes an idle one and answers RESOURCE_BUSY for one in use. -/
def Obligations.SemaphoreCommandsComplete : Prop :=
  ∀ (s : State) (id : CmdId) (o : Outst),
    (s.startable id (.semCreate id) = some o → (o.hold || decide (4 ≤ o.rbufLen)) = true → 
      let w := s.newHandle (ioPart o)
      ((s.sems.filter (fun x => x.part = ioPart o)).length < 64 → exec (.semCreate id) s =
        .next (s.ends { w.1 with sems := w.1.sems ++ [{ handle := w.2, part := ioPart o, holder := none, abandoned := false, waiters := [] }] } o .ok 0 (leBytes 4 w.2))) ∧
      (64 ≤ (s.sems.filter (fun x => x.part = ioPart o)).length → exec (.semCreate id) s = .next (s.complete o .resourceExhausted 0xFFFF []))) ∧
    (∀ sem x, s.semIdent (ioPart o) sem = .ok x →
      (∀ donateMax timeout, s.startable id (.semAcquire id sem donateMax timeout) = some o → donateMax ≤ 64 → timeout ≤ 10000000 →
        (o.hold || decide (4 ≤ o.rbufLen)) = true →
        (x.holder = none → s.semTurn o sem = true → exec (.semAcquire id sem donateMax timeout) s =
          .next (s.ends (s.updSem sem (fun y => { y with holder := some (qCtx id.queue), abandoned := false })) o .ok 0 (leBytes 4 (if x.abandoned then 1 else 0)))) ∧
        (x.holder = none → s.semTurn o sem = false → exec (.semAcquire id sem donateMax timeout) s = .next s) ∧
        (∀ h w, x.holder = some h → h ≠ qCtx id.queue →
          w = { id := id, ctx := qCtx id.queue, donateMax := donateMax, donations := 0, timeout := timeout } →
          let join := fun (y : Sem) => insertBy (fun a b => s.rangBefore a.id b.id) w y.waiters
          exec (.semAcquire id sem donateMax timeout) s = .next (s.goesOn (s.updSem sem (fun y => { y with waiters := join y })) o 4)) ∧
        (x.holder = some (qCtx id.queue) → exec (.semAcquire id sem donateMax timeout) s = .next (s.complete o .resourceBusy 0 []))) ∧
      (o.hold = false →
        (s.startable id (.semRelease id sem) = some o →
          (x.holder = some (qCtx id.queue) → exec (.semRelease id sem) s =
            .next (((s.updSem sem (fun y => { y with holder := none })).passSem sem).complete o .ok 0 [])) ∧
          (x.holder ≠ some (qCtx id.queue) → exec (.semRelease id sem) s = .next (s.complete o .semNotHolder (x.holder.getD 0xFFFF) []))) ∧
        (s.startable id (.semDestroy id sem) = some o →
          (x.holder = none ∧ x.waiters = [] →
            exec (.semDestroy id sem) s = .next (({ s with sems := s.sems.filter (fun y => y.handle ≠ sem) } : State).complete o .ok 0 [])) ∧
          (x.holder ≠ none ∨ x.waiters ≠ [] → exec (.semDestroy id sem) s = .next (s.complete o .resourceBusy 0 [])))))

/-- R406: a waiting SEM_ACQUIRE whose TIMEOUT passes leaves its place and completes with SEM_TIMEOUT (semTimeout); TIMEOUT 0 is no timeout, and such a wait goes
on. -/
def Obligations.SemaphoreWaitTimesOut : Prop :=
  ∀ (s : State) (id : CmdId),
    (s.sems.any (fun x => x.waiters.any (fun w => w.id = id && w.timeout != 0)) = true →
      exec (.semTimeout id) s =
        .next (({ s with sems := s.sems.map (fun x => { x with waiters := x.waiters.filter (fun w => w.id ≠ id) }) } : State).completeId id .semTimeout 0 [])) ∧
    (s.sems.all (fun x => x.waiters.all (fun w => w.id ≠ id || w.timeout == 0)) = true → exec (.semTimeout id) s = .next s)

/-- R244, R249, R250, R251, R252, R270, R277, R279, R533: the index commands. Creation places the tables, information answers 64 bytes, insertion and deletion
run on to their commit point, and a merge runs until its last round. -/
def Obligations.IndexCommandsComplete : Prop :=
  ∀ (s : State) (id : CmdId) (o : Outst) (ns : Nat), ns < 64 →
    (∀ x u bases, s.startable id (.idxCreate id ns) = some o → o.hold = false → s.nsOpen o ns x = true → s.index? ns = none → 32 ≤ o.ibufLen → x.type = 2 →
      s.hostBad o.ibuf 32 = false → idxParamFault (s.hostRd o.ibuf 32) = none →
      let p := idxParamsOf (s.hostRd o.ibuf 32)
      p.slots ≤ Variant.maxSlots s.variant p.sketchBits → p.slots ≤ x.capacity → (s.chargeBytes o.id 16 32).placeTables (ioPart o) p = some (u, bases) →
      exec (.idxCreate id ns) s =
        .next (({ u with indexes := u.indexes ++ [{ ns := ns, part := ioPart o, params := p, sketches := [], directory := [], tombstones := []
                                                    usedSlots := [], entries := [], driftline := [], epoch := 0, epochBase := u.lastSeq, merge := none
                                                    reclaim := [], unreadable := [], reads := 0, hops := 0, lost := false, allocs := bases, dirty := []
                                                    dirPoison := [], scan := [], copies := [] }] } : State).complete o .ok 0 [])) ∧
    (∀ x i, s.nsHeld ns = false → s.indexIdent o ns = .ok x → s.theIndex x = .ok i →
      (s.startable id (.idxInfo id ns) = some o → (o.hold || decide (64 ≤ o.rbufLen)) = true →
        exec (.idxInfo id ns) s = .next (s.ends s o .ok 0 i.infoBytes)) ∧
      (∀ slot, s.startable id (.idxInsert id ns) = some o → 4096 ≤ o.ibufLen → (o.hold || decide (8 ≤ o.rbufLen)) = true → s.hostBad o.ibuf 4096 = false →
        let b := s.hostRd o.ibuf 4096
        let u := s.chargeBytes o.id 16 4096
        u.insertChecks i b = .ok slot → u.dirtyFits (1 + (i.sketchPages slot ++ Index.dirPages (recNode b)).eraseDups.length) = .ok () →
        u.writesHeld = false → u.roomFor (unitsOf slot 1) = true →
        exec (.idxInsert id ns) s = .next (s.goesOn (u.bindInsert id ns slot b) o 8)) ∧
      (o.hold = false →
        (s.startable id (.idxDestroy id ns) = some o → s.indexBusy ns = false →
          exec (.idxDestroy id ns) s =
            .next (((({ s with commitSeq := nextSeq s.commitSeq } : State).emptyNs ns s.commitSeq).settleWaits).complete o .ok 0 [])) ∧
        (∀ node, s.startable id (.idxDelete id ns node) = some o → i.dirBad node = false → s.poolFull = false → s.flash.driftFull = false →
          exec (.idxDelete id ns node) s = .next ((s.bindDelete id ns node).markRunning id)) ∧
        (∀ flags, s.startable id (.idxMerge id ns flags) = some o → i.merge = none →
          exec (.idxMerge id ns flags) s = .next ((s.startMerge ns (some id) (bitAt flags 0)).markRunning id))))

/-- R254, R255, R256, R257, R258, R268, R269, R280: a query command places its queries, which a free walker takes in order; a record's arrival and a driftline
entry's scan move the queries that wait for them, and count in the index. -/
def Obligations.QueryCommandsComplete : Prop :=
  ∀ (s : State) (id : CmdId) (ns : Nat),
    (∀ o prune count l k beam maxReads x i, ns < 64 → s.startable id (.idxQuery id ns prune count l k beam maxReads) = some o → s.nsHeld ns = false →
      queryParamFault prune count l k beam maxReads = none → s.indexIdent o ns = .ok x → s.theIndex x = .ok i → s.index? ns = some i → i.lost = false →
      let len := queryBlockLen i.params.dim
      let bs := s.hostRd o.ibuf (count * len)
      let blk := fun j => slice bs (j * len) len
      let u := s.chargeBytes o.id 16 (count * len)
      count * len ≤ o.ibufLen → (o.hold || decide (count * (16 + 16 * k) ≤ o.rbufLen)) = true → s.hostBad o.ibuf (count * len) = false →
      (List.range count).all (fun j => queryBlockFault i.params (blk j) == none) = true →
      exec (.idxQuery id ns prune count l k beam maxReads) s =
        .next (s.goesOn { u with queries := u.queries ++ (List.range count).map (fun j =>
          Query.new id j ns (qblockOf (blk j) (slice (blk j) 0x40 64) ((List.range i.params.dim).map (fun e => BitVec.ofNat 32 (field (blk j) (0x80 + 4 * e) 4))))
            l beam k maxReads (prune == 1) u.lastSeq i.epochBase) } o (count * (16 + 16 * k)))) ∧
    (∀ p q walker x, qPart id.queue = some p → s.firstWaiting p = some q → q.id = id → s.freeWalker p = some walker → s.index? q.ns = some x →
      exec (.querySlotStart id q.qi walker) s = .next ((s.updQuery id q.qi (fun y => y.begin x walker)).runQuery id q.qi)) ∧
    (∀ q slot x, s.queries.find? (fun y => y.id = id && y.qi == q.qi) = some q → q.outstanding.contains slot = true → s.index? q.ns = some x →
      let u := (s.walkerRead q x slot).1
      let ends := fun (t : State) (q' : Query) =>
        ((t.updIndex q.ns (fun y => { y with reads := y.reads + 1, hops := y.hops + (q'.hops - q.hops) })).updQuery id q.qi (fun _ => q')).runQuery id q.qi
      (∀ r, (s.walkerRead q x slot).2 = some r → exec (.recordArrival id q.qi slot) s = .next (ends (u.readSketches q x r) (q.takeRecord x slot r))) ∧
      ((s.walkerRead q x slot).2 = none → exec (.recordArrival id q.qi slot) s = .next (ends (u.markUnreadable q.ns slot) (q.skipRecord slot)))) ∧
    (∀ walker entry x e, s.index? ns = some x → x.driftline[entry]? = some e → (alookup walker x.scan).getD entry = entry →
      (e.poisoned = true → exec (.driftlineEntryScan walker ns entry) s =
        .next (s.updIndex ns (fun y => { y with driftline := mapIf (fun d => d.same e) (fun d => { d with poisoned := false }) y.driftline }))) ∧
      (e.poisoned = false →
        let mine := fun (q : Query) => q.walker = some walker && q.ns == ns && !q.lapLeft.isEmpty
        exec (.driftlineEntryScan walker ns entry) s =
          .next ((s.queries.filter mine).foldl (fun t q => t.runQuery q.id q.qi)
            (({ s with queries := mapIf mine (fun q => q.pass e) s.queries } : State).updIndex ns (fun y => y.scanPast walker entry)))))

/-- R271, R272, R273, R274, R275, R276, R278: a round of a merge that fits the write buffer and the dirty ceiling publishes the records that it rewrote and
either leaves more entries for another round or ends the merge; reclaim frees what an ended merge left once no query needs it. -/
def Obligations.MergeStepsComplete : Prop :=
  ∀ (s : State) (ns : Nat) (x : Index), s.index? ns = some x →
    (∀ m, x.merge = some m →
      let owner := m.id.getD (mergeOwner ns)
      let r := s.roundWork x m
      let last := r.2.1.isEmpty && r.2.2.isNone
      let dir := s.roundDir x m r.1 last
      let u := (r.1.readUnits.foldl (fun (t : State) k => t.readPage ns k) s).roundStore x owner r.1 (x.roundPages r.1 dir)
      let v := u.1.roundPublish x m owner r.1 r.2.1 (r.2.2.getD 0) dir
      s.flashFree = true → s.writesHeld = false → s.roomFor r.1.units = true →
      (u.1.dirtyPieces + u.2 ≤ u.1.ceilingPieces →
        exec (.mergeRound ns) s = .next (if last then v.mergeEnd x m r.1 u.1.commitSeq dir else v.settleWaits)) ∧
      (u.1.ceilingPieces < u.1.dirtyPieces + u.2 → exec (.mergeRound ns) s = .next (u.1.dropPend owner))) ∧
    (∀ r rest, x.reclaim = r :: rest → s.flashFree = true → s.reclaimDue ns r.1 = true →
      s.roomFor (r.2.2.map (fun n => (n / 4, 2 ^ (n % 4)))) = true →
      let u := s.reclaimStore x (mergeOwner ns) r.2.2
      (u.2 = 0 ∨ u.1.dirtyPieces + u.2 ≤ u.1.ceilingPieces →
        exec (.driftlineReclaim ns) s = .next ((u.1.reclaimOne x (mergeOwner ns) r).forceMerge.settleWaits)) ∧
      (u.2 ≠ 0 → u.1.ceilingPieces < u.1.dirtyPieces + u.2 → exec (.driftlineReclaim ns) s = .next (u.1.dropPend (mergeOwner ns))))

/-- R283, R284, R285, R286, R287, R288, R292, R293, R294, R298, R299, R304: the accord commands on sound definitions and parts of the issuing partition. -/
def Obligations.AccordCommandsComplete : Prop :=
  ∀ (s : State) (id : CmdId) (o : Outst),
    (∀ ctx defLen w work, s.startable id (.accordLoad id ctx defLen) = some o → ctx < 16 → (s.ctx? (ioPart o) ctx).isSome = true →
      (o.hold || decide (8 ≤ o.rbufLen)) = true → defLen ≤ o.ibufLen → s.hostBad o.ibuf defLen = false →
      let hd := s.hostRd o.ibuf defLen
      let n := field hd 0x10 2
      let u := s.chargeBytes o.id 16 (defLen + 4 * n)
      let bs := s.hostRd o.ibuf (defLen + 4 * n)
      let a := accordOf hd 0 (ioPart o) ctx (handlesOf bs defLen n)
      accordCheck1 hd = .ok () → defLen + 4 * n ≤ o.ibufLen → s.hostBad o.ibuf (defLen + 4 * n) = false → a.namespaces.any s.nsHeld = false →
      a.tensors.all (fun h => ((u.tensor? h).map (fun t => t.desc.part == ioPart o)).getD false) = true →
      checkStages (fun i st => acNeed (u.stageFits a (u.workTensors a) st) 2 (0x40 + 48 * i)) 0 a.stages = .ok () →
      checkStages (u.stageResources a) 0 a.stages = .ok () → u.embedFits a = true → u.allocWork (ioPart o) (u.workTensors a) = some (w, work) →
      let z := w.newHandle (ioPart o)
      exec (.accordLoad id ctx defLen) s =
        .next (s.ends { z.1 with accords := z.1.accords ++ [{ a with handle := z.2, working := work }] } o .ok 0 (leBytes 4 z.2))) ∧
    (∀ acc a, s.accordIdent o acc = .ok a →
      (s.startable id (.accordUnload id acc) = some o → o.hold = false → s.accordInUse acc = false →
        exec (.accordUnload id acc) s = .next ((({ s with accords := s.accords.filter (fun x => x.handle ≠ acc) } : State).sweep).complete o .ok 0 [])) ∧
      (∀ startStage seed, s.startable id (.accordRun id acc startStage seed) = some o → s.sliceAllows id = true →
        s.commandHeld (.accordRun id acc startStage seed) = false → s.accordOpen a = .ok () →
        (∀ i u, s.invocations.find? (fun x => x.id = id) = some i → s.dirtyFits (s.invPieces id a i.items) = .ok () →
          (if a.kind = 2 then .ok s else State.bindStages id a 0 a.stages ((s.openBinding id).bindWork id a)) = .ok u →
          exec (.accordRun id acc startStage seed) s = .next (s.goesOn u o a.outLen)) ∧
        (s.invocations.all (fun i => i.id ≠ id) = true → a.ctx = qCtx id.queue → (if a.kind = 2 then startStage < a.stages.length else startStage = 0) →
        a.batch * a.itemLen ≤ o.ibufLen → (o.hold || decide (a.outLen ≤ o.rbufLen)) = true →
        ∀ u, s.startInvocation id o a startStage seed = .ok (u, .runs a.outLen) →
        exec (.accordRun id acc startStage seed) s = .next (s.goesOn u o a.outLen)))) ∧
    (∀ prog count x, s.startable id (.modelBind id prog count) = some o → 1 ≤ count → count ≤ 4095 → s.progIdent (ioPart o) prog = .ok x →
      4 * count ≤ o.ibufLen → (o.hold || decide (4 ≤ o.rbufLen)) = true → s.hostBad o.ibuf (4 * count) = false → count ≤ x.img.slots.length →
      let u := s.chargeBytes o.id 16 (4 * count)
      let hs := handlesOf (s.hostRd o.ibuf (4 * count)) 0 count
      checkAll (fun j => u.weightCheck (ioPart o) x.img (x.img.slots.length - count + j) (hs.getD j 0)) (List.range count) = .ok () →
      let z := u.newHandle (ioPart o)
      ∀ w, State.stageAll id hs.eraseDups { z.1 with models := z.1.models ++ [{ handle := z.2, part := ioPart o, prog := prog, weights := hs }] } = some w →
      hs.any (fun h => ((w.tensor? h).map (fun t => t.desc.state == 3)).getD true) = false →
      exec (.modelBind id prog count) s = .next (s.ends w o .ok 0 (leBytes 4 z.2))) ∧
    (∀ model m, s.startable id (.modelUnbind id model) = some o → o.hold = false → s.model? (ioPart o) model = some m →
      s.accords.all (fun a => !(a.part == ioPart o && a.stages.any (fun st => st.runsModel && st.model == model))) = true →
      exec (.modelUnbind id model) s =
        .next (({ s with models := s.models.filter (fun y => !(y.handle == model && y.part == ioPart o)) } : State).complete o .ok 0 []))

/-- R245, R255, R285, R289, R290, R291, R293, R295, R296, R306, R307, R465: each stage row, at the stage of its kind, does that stage's work: model stages
start their run, the others move the invocation on. -/
def Obligations.AccordStagesComplete : Prop :=
  ∀ (v : State) (id : CmdId) (i : Invocation) (a : Accord) (st : Stage),
    let s := v.endStage id
    (s.atStage id i a st 1 = true → exec (.tokensIn id) v =
      .next ((i.items.zipIdx.foldl (fun t x =>
        (t.devWr a.part ((a.work 0xFF0).base + 4 * a.seq * x.2) (slice x.1 0x40 (4 * a.seq))).devWr a.part ((a.work 0xFF1).base + 4 * x.2) (slice x.1 0 4)) s).stageDone id)) ∧
    (s.atStage id i a st 2 = true → exec (.embed id) v = .next (s.runModelStage i a st)) ∧
    (∀ x, s.atStage id i a st 3 = true → s.index? st.target = some x → x.lost = false →
      i.items.all (fun b => isPad b || field b 0x10 8 &&& field b 8 8 == field b 0x10 8) = true →
      let taken := fun (t : State) => i.snap.getD (st.target, t.lastSeq, x.epochBase)
      let mk := fun (t : State) (b : Bytes × Nat) => Query.new id b.2 st.target (qblockOf (slice b.1 8 40) (t.itemSketch a b.2) (t.itemVector id a b.2))
        (st.prm 0x1C 2) (st.prm 0x1E 1) (st.prm 0x20 2) (st.prm 0x22 2) (st.prm 0x1F 1 == 1) (taken t).2.1 (taken t).2.2
      exec (.search id) v = .next (s.stageReading id [a.workSpan 0xFF2, a.workSpan 0xFF3] (fun t =>
        let u := t.updInv id (fun y => { y with snap := some (taken t) })
        ({ u with queries := u.queries ++ ((i.items.zipIdx.filter (fun (b : Bytes × Nat) => !isPad b.1)).map (mk t)) } : State).stageBusy id))) ∧
    (s.atStage id i a st 4 = true →
      let spans := i.cands.flatMap (fun hs => hs.flatMap (fun h => a.terms.filterMap (fun t => if t.src = 4 then s.termAddr id a t h.node else none)))
      exec (.filter id) v = .next (s.stageReading id (spans.map (fun x => (x, 4))) (fun t =>
        (t.updInv id (fun y => { y with cands := y.cands.map (fun hs => hs.filter (t.passes id a)) })).stageDone id))) ∧
    (s.atStage id i a st 5 = true → exec (.rerank id) v = .next (s.runModelStage i a st)) ∧
    (∀ l, s.atStage id i a st 6 = true → s.snippetsAll a (st.prm 0x1C 2) i.cands = .ok l →
      exec (.gather id) v =
        .next (((s.noteSnippets a (st.prm 0x1C 2) i.cands.flatten).updInv id (fun y => { y with snippets := l })).stageDone id)) ∧
    (s.atStage id i a st 7 = true → exec (.out id) v = .next ((s.updInv id (fun y => { y with output := i.outBytes a })).stageDone id)) ∧
    (∀ n t, s.atStage id i a st 8 = true → s.ns? st.target = some n → s.flash.readOnly = false →
      State.storeItems id n ((i.items.filter (fun b => !isPad b)).map a.textItem) s = .ok t → (List.range 8).all (fun d => t.1.slotRoom d 0) = true →
      exec (.store id) v = .next ((t.1.updInv id (fun y => { y with texts := t.2 })).stageDone id)) ∧
    (∀ t, s.atStage id i a st 9 = true → (s.index? st.target).isSome = true →
      let u := [a.workSpan 0xFF2, a.workSpan 0xFF3].foldl (fun u x => u.probe x.1 x.2) s
      (u.inv? id).isSome = true → [a.workSpan 0xFF2, a.workSpan 0xFF3].any (fun x => u.poisoned x.1 x.2) = false →
      State.insertItems id a st.target (prmTarget a.stages 8) (i.items.zipIdx.filter (fun b => !isPad b.1)) u = .ok t →
      (List.range 8).all (fun d => t.slotRoom d 0) = true → exec (.insert id) v = .next (t.stageDone id)) ∧
    (∀ t, s.atStage id i a st 0xA = true → State.loadRows a st.target i.items.zipIdx s = .ok t → exec (.loader id) v = .next (t.stageDone id)) ∧
    (s.atStage id i a st 0xB = true → exec (.modelStage id) v = .next (s.runModelStage i a st)) ∧
    (s.atStage id i a st 0xC = true →
      let hs := [a.bindHandle (st.prm 0x20 2), a.bindHandle (st.prm 0x22 2)]
      let desc := fun (k : Nat) => ((s.tensor? (hs.getD k 0)).map (·.desc)).getD {}
      let g := collectiveImage (desc 0) (desc 1) st
      let rings := s.accordRings a.part a.rings
      st.prm 0x1D 1 < rings.length → (desc 0).tier = 1 → (desc 1).tier = 1 → g.collectives.findSome? (s.collFault g hs rings) = none →
      exec (.collectiveStage id) v = .next (s.startStageRun i a st g hs rings)) ∧
    (s.atStage id i a st 0xD = true → exec (.optimiser id) v = .next (s.runModelStage i a st))

/-- R181, R206, R207, R208: a running command whose work is done reaches its commit point: it takes the next commit sequence number, its changes become
visible together, and it completes. -/
def Obligations.CommandCommitCompletes : Prop :=
  ∀ (s : State) (id : CmdId) (o : Outst) (u : State), s.outst? id = some o → o.phase = .running →
    (plainCommit o.cmd = true → s.prepareCommit id = .ok (u, true) → exec (.commandCommit id) s = .next ((((u.commitPoint id).1).completeId id .ok 0 []).settleWaits)) ∧
    (∀ p seed r, o.cmd = .progRun id p seed → s.run? id = some r → r.id = id → r.ended = true → s.prepareCommit id = .ok (u, true) →
      let v := ((u.commitPoint id).1.closeRun r).applyEvents id r.part r.ctx r.flags r.saturations r.nanConv r.rescales
      exec (.commandCommit id) s =
        .next (((v.syncAfter r).completeId id (if r.emptySteps = 0 then .ok else .okEmptyReduction) r.emptySteps []).settleWaits)) ∧
    (∀ ns e rest, s.openEntries id = (ns, e) :: rest →
      let v := s.readDirectory id
      ((v.index? ns).map (fun x => x.judge e)).getD .notFound = .ok → v.prepareCommit id = .ok (u, true) →
      (o.cmd = .idxInsert id ns ∧ e.isInsert = true →
        exec (.commandCommit id) s = .next ((((u.commitPoint id).1).postResult id .ok 0 (leBytes 5 e.slot ++ zeros 3)).settleWaits)) ∧
      (∀ node, o.cmd = .idxDelete id ns node ∧ e.isInsert = false →
        exec (.commandCommit id) s = .next ((((u.commitPoint id).1).postResult id .ok 0 []).settleWaits))) ∧
    (∀ acc first seed i a, o.cmd = .accordRun id acc first seed →
      let v := (s.endStage id).readDirectory id
      (s.endStage id).inv? id = some i → i.id = id → (s.endStage id).accordOf? i.accord = some a → a.kind ≠ 2 → i.busy = false → i.stage = a.stages.length →
      v.directoryBad id = false → v.prepareCommit id = .ok (u, true) →
      let c := u.invCommitPoint id i.texts
      c.2 = [] →
      let w := c.1.applyEvents id a.part a.ctx i.flags i.saturations i.nanConv i.rescales
      let x := w.postResult id (if i.emptySteps = 0 then .ok else .okEmptyReduction) i.emptySteps (if a.kind = 1 then i.outBytes a else i.output)
      exec (.commandCommit id) s = .next (({ x with invocations := w.invocations.filter (fun y => y.id ≠ id) } : State).settleWaits))

/-- R423, R424, R425, R426, R440, R444, R445, R534: fabric-port settings and information, and the events of a fibre, a laser and a port's own link. -/
def Obligations.FabricPortCommandsComplete : Prop :=
  ∀ (s : State) (id : CmdId) (o : Outst) (l : Nat),
    (s.lportIdent o l = .ok () →
      (s.startable id (.fabPortSet id l) = some o → o.hold = false → 48 ≤ o.ibufLen → s.hostBad o.ibuf 48 = false →
        let b := s.hostRd o.ibuf 48
        let u := s.chargeBytes o.id 16 48
        field b 0 1 < 32 → (List.range 32).all (fun k => k == l || !(u.lport k).set || (u.lport k).plane != field b 0 1) = true →
        u.fabric.rings.all (fun r => r.forming.isSome || !(u.lport l).set || decide ((u.lport l).plane ∉ r.planeList)) = true →
        exec (.fabPortSet id l) s = .next ((u.updLport l (fun x => x.applySettings b)).complete o .ok 0 [])) ∧
      (s.startable id (.fabPortInfo id l) = some o → (o.hold || decide (128 ≤ o.rbufLen)) = true →
        let u := s.noteFec l
        exec (.fabPortInfo id l) s = .next (s.ends { u with freeCount := u.freeCount + 1 } o .ok 0 (u.portInfo l)))) ∧
    (∀ oe, oe < Variant.dies s.variant →
      exec (.fibreUnplug oe) s =
        .next ([4 * oe, 4 * oe + 1, 4 * oe + 2, 4 * oe + 3].foldl State.portDown
          (({ s with fabric := { s.fabric with fibre := setAt oe false s.fabric.fibre } } : State).driveLaser oe)) ∧
      exec (.fibrePlug oe) s = .next (({ s with fabric := { s.fabric with fibre := setAt oe true s.fabric.fibre } } : State).driveLaser oe)) ∧
    (∀ port power, (s.lportEnabled (2 * port) || s.lportEnabled (2 * port + 1)) = true →
      (power < laserMin → (s.lport (2 * port)).laserOk = true →
        exec (.laserPowerLow port power) s =
          .next ((([2 * port, 2 * port + 1].foldl (fun (t : State) k => (t.portDown k).updLport k (fun x =>
            { x with laser := some power, laserOk := false, dimmed := decide (1 < (t.lport k).state) })) s).driveLaser (port / 2)).raise 7 port (port % 2) .device)) ∧
      (laserMin ≤ power → power ≤ laserMax → (s.lport (2 * port)).laserOk = false →
        let lit := ([2 * port, 2 * port + 1].foldl (fun (t : State) k => t.updLport k (fun x => { x with laser := some power, laserOk := true })) s).driveLaser (port / 2)
        exec (.laserPowerRestored port power) s =
          .next ([2 * port, 2 * port + 1].foldl (fun (t : State) k => t.updLport k (fun x =>
            { x with dimmed := false
                     state := if x.dimmed && t.lportEnabled k && lit.fabric.laserEn.getD (port / 2) false && !t.portTested (k / 2) then 3 else x.state })) lit))) ∧
    (s.lportEnabled l = true →
      exec (.fabricPortStateChange l false) s = .next (s.portDown l) ∧
      (s.fabric.laserEn.getD (l / 4) false = true → (s.lport l).laserOk = true → s.portTested (l / 2) = false →
        exec (.fabricPortStateChange l true) s =
          .next { (s.updLport l (fun x => { x with state := 3 })) with power := { s.power with clocks := ainsert .fclk true s.power.clocks } }))

/-- R446, R447, R448, R449, R450, R535: the ring commands. RING_FORM leaves the ring forming, sends its HELLO both ways and waits; a timeout takes the ring
away and ends the command with RING_BROKEN. -/
def Obligations.RingCommandsComplete : Prop :=
  ∀ (s : State) (id : CmdId) (o : Outst),
    (∀ ringId epoch members index planes timeout, s.startable id (.ringForm id ringId epoch members index planes timeout) = some o →
      2 ≤ members → members ≤ 4096 → index < members → timeout ≤ 60000 →
      let ps := maskList 32 planes
      ps.all (fun n => (s.lportOf n).any (fun l => bitAt (s.entry (ioPart o)).fabMask (l / 2))) = true →
      s.ringFormed ringId = false → 32 * ps.length ≤ o.ibufLen → (o.hold || decide (4 ≤ o.rbufLen)) = true →
      s.formedRings.length < 16 → (alookup ringId s.fabric.lastEpoch).all (fun e => lsLt e epoch) = true → s.hostBad o.ibuf (32 * ps.length) = false →
      let b := s.hostRd o.ibuf (32 * ps.length)
      let w := (s.chargeBytes o.id 16 (32 * ps.length)).newHandle (ioPart o)
      let r := newRing w.2 ringId epoch members index planes (ioPart o) id (addrList ps b) (addrList ps (b.drop (16 * ps.length)))
      exec (.ringForm id ringId epoch members index planes timeout) s =
        .next (s.goesOn (({ w.1 with fabric := { w.1.fabric with rings := w.1.fabric.rings ++ [r] } } : State).raiseBoth w.2 (r.ctl 1 0 0 0)) o 4)) ∧
    (∀ r, s.fabric.rings.find? (fun x => x.forming = some id) = some r →
      exec (.formTimeout id) s =
        .next (({ s with fabric := { s.fabric with rings := s.fabric.rings.filter (fun x => x.handle ≠ r.handle) } } : State).completeId id .ringBroken r.index [])) ∧
    (∀ h r, s.ringIdent o h = .ok r →
      (s.startable id (.ringDissolve id h) = some o → o.hold = false → s.ringNamed id r.handle = false →
        exec (.ringDissolve id h) s =
          .next (({ s with fabric := { s.fabric with rings := s.fabric.rings.filter (fun x => x.handle ≠ h) } } : State).complete o .ok 0 [])) ∧
      (s.startable id (.ringInfo id h) = some o → (o.hold || decide (80 ≤ o.rbufLen)) = true →
        exec (.ringInfo id h) s = .next (s.ends s o (if r.isBroken then .ringState else .ok) 0 r.info)))

/-- R432, R434, R436, R437, R438, R439, R463, R464, R467, R468: DATA from the predecessor joins its stripe and is acknowledged when 16 wait, an ACK from the
successor frees what it covers, a link adder takes the next segment, and the ACK and retransmission timers send again. -/
def Obligations.RingDataStepsComplete : Prop :=
  ∀ (s : State) (l : Nat) (pkt : LsPkt) (r : Ring),
    (s.ringArrival l pkt r = true → r.hasStripe pkt.stripe = true → r.forming = none →
      let t := s.counted l pkt r
      (pkt.type = 1 → r.fromPred pkt = true → r.isBroken = false →
        let v := t.updRing r.handle (fun x => x.setRecv pkt.stripe ((x.recvOf pkt.stripe).take pkt))
        let u := if r.two then v.takeAck r.handle pkt.stripe pkt.ackSeq pkt.credit [] false else v
        (∀ x, u.ring? r.handle = some x → (x.recvOf pkt.stripe).sinceAck < 16 → exec (.dataReceived l pkt true) s = .next (u.drain r.handle)) ∧
        (∀ x, u.ring? r.handle = some x → 16 ≤ (x.recvOf pkt.stripe).sinceAck →
          exec (.dataReceived l pkt true) s = .next ((u.sendAck r.handle pkt.stripe pkt.plane).drain r.handle))) ∧
      (pkt.type = 2 → r.fromSucc pkt = true →
        exec (.ackReceived l pkt true) s = .next (t.takeAck r.handle pkt.stripe pkt.ackSeq pkt.credit (sackSeqs pkt.ackSeq pkt.sack) pkt.ceSeen))) ∧
    (∀ h st seq, s.ring? h = some r →
      (∀ op p, r.current = some op → (r.recvOf st).staged.find? (fun q => q.seq = seq) = some p → op.startSeen = true → r.adds op p = true →
        exec (.linkAdderHop h st seq) s = .next (((s.unstagePkt h st seq).takeAdd h p).drain h)) ∧
      (r.hasStripe st = true → 0 < (r.recvOf st).sinceAck → exec (.ackTimer h st) s = .next (s.sendAck h st (r.stripePlane false st))) ∧
      exec (.retransmitTimeout h st seq) s = .next (s.resend h st seq))

/-- R440, R441, R442: a plane without acknowledgement fails toward a neighbour, is probed there, and a probe is answered on its plane. -/
def Obligations.PlaneStepsComplete : Prop :=
  ∀ (s : State) (h : Nat) (r : Ring) (plane : Nat),
    (∀ succ, s.ring? h = some r → (plane, succ) ∈ r.probing → exec (.planeFailTimeout h plane succ) s = .next (s.failPlane h plane succ)) ∧
    (∀ succ, s.ring? h = some r → (succ || r.two) = true → r.send.any (fun x => x.2.plane == plane && !x.2.unacked.isEmpty) = true →
      exec (.planeFailTimeout h plane succ) s = .next (s.failPlane h plane succ)) ∧
    (∀ succ, s.ring? h = some r → plane ∈ r.planeList → r.forming = none →
      (succ = false ∨ r.send.all (fun x => x.2.plane != plane || x.2.unacked.isEmpty) = true) →
      let again := fun (d : Nat × Nat) => if d.1 = plane && decide ((plane, succ) ∈ r.probing) then (plane, 0) else d
      let t := s.updRing h (fun x => { x with
        downSucc := if succ then x.downSucc.map again else x.downSucc, downPred := if succ then x.downPred else x.downPred.map again
        probing := addOnce (plane, succ) x.probing })
      exec (.probeTimer h plane succ) s = .next (t.sendPkt h succ (t.header r 3 succ ((r.planeList.findIdx? (fun q => q = plane)).getD 0) plane 0))) ∧
    (∀ l pkt, s.ringArrival l pkt r = true → r.forming = none → (r.fromPred pkt || r.fromSucc pkt) = true →
      let t := s.counted l pkt r
      (pkt.type = 3 → exec (.probeReceived l pkt true) s =
        .next (t.sendPkt r.handle (r.fromSucc pkt) { t.header r 2 (r.fromSucc pkt) pkt.stripe pkt.plane 0 with
          sack := if !r.fromSucc pkt || r.two then (r.recvOf pkt.stripe).sack else 0 })) ∧
      (pkt.type = 2 → (pkt.plane, r.fromSucc pkt) ∈ r.probing →
        exec (.probeReceived l pkt true) s = .next (t.updRing r.handle (fun x => x.answered pkt.plane (r.fromSucc pkt)))))

/-- R432, R433, R449, R453, R454, R470: control packets of a ring. Each is counted and taken by the machine of its kind; the repeat timer sends every control
packet that is still open once more. -/
def Obligations.RingControlStepsComplete : Prop :=
  ∀ (s : State) (l : Nat) (pkt : LsPkt) (r : Ring),
    (∀ h, s.ring? h = some r → exec (.controlRepeat h) s = .next (r.controls.foldl (fun t c => t.sendCtl h c.1 c.2 true) s)) ∧
    (∀ c, s.ringArrival l pkt r = true → pkt.type = 4 → pkt.ctl = some c →
      let t := s.counted l pkt r
      (c.kind = 1 → exec (.hello l pkt true) s = .next (t.takeHello r pkt c)) ∧
      (r.forming = none →
        (c.kind = 2 → r.isBroken = false → exec (.start l pkt true) s = .next (t.takeStart r pkt c)) ∧
        ((r.fromPred pkt || r.fromSucc pkt) = true →
          (c.kind = 3 → exec (.abort l pkt true) s = .next (t.takeAbort r pkt c)) ∧
          (c.kind = 4 → exec (.broken l pkt true) s = .next (t.takeBroken r pkt c)))))

/-- R416, R425, R428, R429: frames on a port that is up. A solicitation and an echo request for the port's address are answered, and both frames are counted
and charged to the device; a frame that the port cannot use counts as discarded. -/
def Obligations.PortFramesComplete : Prop :=
  ∀ (s : State) (l : Nat), s.lportState l = 3 →
    (∀ bytes, exec (.frameDiscard l bytes) s = .next ((((s.countPort l 1 1).countPort l 3 bytes).chargeDevice 19 bytes).countPort l 6 1)) ∧
    (∀ target,
      let n := icmpFrame (s.lport l) 32
      let t := ((s.countPort l 1 1).countPort l 3 n).chargeDevice 19 n
      ((t.lport l).set = true → (t.lport l).ipv6 = target →
        exec (.neighborSolicitation l target) s =
          .next (((({ t with out := t.out ++ [.neighborAdvert l target (t.lport l).mac] } : State).countPort l 0 1).countPort l 2 n).chargeDevice 18 n)) ∧
      ((t.lport l).ipv6 ≠ target → exec (.neighborSolicitation l target) s = .next (t.countPort l 6 1))) ∧
    (∀ dest data,
      let n := icmpFrame (s.lport l) (8 + data.length)
      let t := ((s.countPort l 1 1).countPort l 3 n).chargeDevice 19 n
      ((t.lport l).set = true → (t.lport l).ipv6 = dest → 48 + data.length ≤ 4096 →
        exec (.echoRequest l dest data) s =
          .next (((({ t with out := t.out ++ [.echoReply l dest data] } : State).countPort l 0 1).countPort l 2 n).chargeDevice 18 n)) ∧
      ((t.lport l).ipv6 ≠ dest ∨ 4096 < 48 + data.length → exec (.echoRequest l dest data) s = .next (t.countPort l 6 1)))
/-- R545, R546, R549, R555, R556, R558, R559, R561, R562, R563: the configuration flash. A read answers the bytes that the regions hold (cflRead), a program
(cflProgram) and an erase (cflErase) run until the flash reports the end, which changes the array and completes them (cflOperationDone), an erase can be
suspended (cflSuspend) and resumed (cflResume), and the window of BAR2 reads the array (bar2WindowRead). -/
def Obligations.ConfigFlashCommandsComplete : Prop :=
  ∀ (s : State) (id : CmdId) (o : Outst),
    (∀ addr length, s.startable id (.cflRead id addr length) = some o → 1 ≤ length → length ≤ 0x100000 → addr + length ≤ cflSize →
      (o.hold || decide (length ≤ o.rbufLen)) = true → (s.cfl.protLevel = 0 ∨ addr + length ≤ cflCustomer) →
      (addr = 0x02020000 → length = 16 →
        exec (.cflRead id addr length) s = .next (s.ends s o .ok 0 s.protBytes)) ∧
      ((addr ≠ 0x02020000 ∨ length ≠ 16) → s.cfl.bankBusy (cflBank addr) = false →
        (s.cfl.bankBusy (cflBank addr + 1) = false ∨ cflBank (addr + length - 1) ≤ cflBank addr) →
        exec (.cflRead id addr length) s =
          .next (s.ends { s with freeCount := s.freeCount + 1 } o .ok 0 ((List.range length).map (fun i => s.cflByte s.freeCount (addr + i)))))) ∧
    (o.hold = false →
      (∀ addr, s.startable id (.cflProgram id addr) = some o → addr < cflSize → 1 ≤ o.ibufLen → addr % 256 + o.ibufLen ≤ 256 → cflCustomer ≤ addr →
        s.cfl.protLevel ≠ 2 → s.cfl.op = none → s.hostBad o.ibuf o.ibufLen = false →
        let u := s.chargeBytes o.id 16 o.ibufLen
        exec (.cflProgram id addr) s =
          .next (({ u with cfl := { u.cfl with op := some { id := some id, isErase := false, addr := addr, data := s.hostRd o.ibuf o.ibufLen, suspended := false } } } : State).markRunning id)) ∧
      (∀ sector, s.startable id (.cflErase id sector) = some o → sector < 4096 → cflCustomer ≤ sector * 0x10000 → s.cfl.protLevel ≠ 2 → s.cfl.op = none →
        exec (.cflErase id sector) s =
          .next (({ s with cfl := { s.cfl with
            op := some { id := some id, isErase := true, addr := sector * 0x10000, data := [], suspended := false }
            undefinedAt := s.cfl.undefinedAt.filter (fun r => r.1 / 0x10000 ≠ sector) } } : State).markRunning id)) ∧
      (∀ p, s.cfl.op = some p → p.isErase = true →
        (s.startable id (.cflSuspend id) = some o → p.suspended = false →
          exec (.cflSuspend id) s = .next (({ s with cfl := { s.cfl with op := some { p with suspended := true } } } : State).complete o .ok 0 [])) ∧
        (s.startable id (.cflResume id) = some o → p.suspended = true →
          exec (.cflResume id) s = .next (({ s with cfl := { s.cfl with op := some { p with suspended := false } } } : State).complete o .ok 0 [])))) ∧
    (∀ p i, s.cfl.op = some p → p.suspended = false → p.id = some i →
      exec .cflOperationDone s = .next (({ s with cfl := s.cfl.apply p } : State).completeId i .ok 0 [])) ∧
    (∀ port addr length, s.power.powered = true → s.fnAlive (.pf port) = true → Fn.pf port ∉ s.host.fnD3 → 1 ≤ length → length ≤ 512 →
      addr + length ≤ cflSize → addr % 4096 + length ≤ 4096 →
      exec (.bar2WindowRead port addr length) s =
        .next { s with freeCount := s.freeCount + 1
                       out := s.out ++ [.windowData port ((List.range length).map (fun i => s.windowByte s.freeCount (addr + i)))] })

/-- R563, R564, R565, R566: CFL_PROTECT (cflProtect) in its turn. A level is raised at once; the level in force completes the command as it stands; lowering from
level 1 begins without more, from level 2 with a sound release; a lowering that has begun erases the secrets once no command on an encrypted namespace runs, and
its last row finishes it and completes the command. -/
def Obligations.ProtectionLevelsMove : Prop :=
  ∀ (s : State) (id : CmdId) (o : Outst),
    (o.hold = false →
      (∀ level, s.startable id (.cflProtect id level) = some o → s.configTurn o = true → level ≤ 2 →
        (s.cfl.protLevel < level →
          exec (.cflProtect id level) s =
            .next (({ s with cfl := { s.cfl with protLevel := level, protCounter := s.cfl.protCounter + 1 } } : State).complete o .ok 0 [])) ∧
        (s.cfl.protLevel = level → exec (.cflProtect id level) s = .next (s.complete o .ok 0 [])) ∧
        (s.cfl.protLevel = 1 → level = 0 →
          exec (.cflProtect id level) s = .next (({ s with cfl := { s.cfl with lowerCmd := some id } } : State).markRunning id)) ∧
        (s.cfl.protLevel = 2 → level < 2 → 16256 ≤ o.ibufLen → s.hostBad o.ibuf 16256 = false →
          let u := s.chargeBytes o.id 16 16256
          exec (.cflProtect id level) s = .next (match s.checkRelease level (s.hostRd o.ibuf 16256) with
            | .ok _ => ({ u with cfl := { u.cfl with lowerCmd := some id } } : State).markRunning id
            | .error e => s.complete o e.status e.detail [])))) ∧
    (∀ level, s.cfl.lowerCmd = some id → s.startable id (.cflProtect id level) = none →
      (s.cfl.lowering = none → level < s.cfl.protLevel → s.encryptedRunning = false →
        exec (.cflProtect id level) s = .next ({ s with cfl := { s.cfl with lowering := some level } } : State).eraseSecrets) ∧
      (s.cfl.lowering.isSome = true → s.power.storageReady = true →
        exec (.cflProtect id level) s = .next ((((s.eraseSecrets.finishLowering).settleFlush).settleCeiling).endLowering id)))

/-- R544, R570, R576, R577, R578, R588: attestation, identity, a ROMX update, and the debug chain, which erases the key slots. -/
def Obligations.SecurityCommandsComplete : Prop :=
  ∀ (s : State) (id : CmdId) (o : Outst),
    (∀ nonce, s.startable id (.attest id nonce) = some o → s.configTurn o = true → (o.hold || decide (16480 ≤ o.rbufLen)) = true →
      exec (.attest id nonce) s = .next (s.ends s o .ok 0 (s.reportBody nonce ++ signed (s.reportBody nonce)))) ∧
    (s.startable id (.identityRead id) = some o → (o.hold || decide (56 + Config.certChain.length ≤ o.rbufLen)) = true →
      exec (.identityRead id) s = .next (s.ends s o .ok 0 (s.idKey ++ zeros 4 ++ leBytes 4 Config.certChain.length ++ Config.certChain))) ∧
    (s.startable id (.romxUpdate id) = some o → s.configTurn o = true → o.hold = false → s.cfl.protLevel ≠ 2 → s.hostBad o.ibuf o.ibufLen = false →
      s.sec.updating = none →
      exec (.romxUpdate id) s = .next (if romxValid s.sec.minSvn (s.hostRd o.ibuf o.ibufLen) then
        ((s.chargeBytes o.id 16 o.ibufLen).openRomx id (s.hostRd o.ibuf o.ibufLen)).markRunning id else s.complete o .signatureInvalid 0 [])) ∧
    (∀ b, s.sec.updating = some (id, b) → s.startable id (.romxUpdate id) = none →
      let w := s.wroteRomx b
      let back := w.cfl.arr.readN 0xFF w.sec.spareCopy b.length
      (romxValid w.sec.minSvn back = true →
        exec (.romxUpdate id) s = .next (({ w with sec := w.sec.setSpare (some (romxOf back)) } : State).completeId id .ok 0 [])) ∧
      (romxValid w.sec.minSvn back = false → exec (.romxUpdate id) s = .next (w.completeId id .signatureInvalid 0 []))) ∧
    (s.cfl.protLevel = 0 →
      exec .debugChainOpen s = .next { s with sec := { s.sec with keySlots := List.replicate 64 0, debugOpened := true } })

/-- R569, R570, R579, R580, R581, R585, R586: SPDM requests in their order on a path that is live. Each is answered on its path, and moves the requester's
state as the protocol does; IDE keys are taken inside a session, and a failed integrity check drops them and reports the error. -/
def Obligations.SpdmRequestsComplete : Prop :=
  ∀ (s : State) (p : SpdmPath) (x : Spdm), s.spdmLive p = true → s.spdmOf p = x →
    exec (.getVersion p) s = .next ((s.setSpdm { Spdm.fresh p with version := true }).spdmReply p 0x04 []) ∧
    (x.version = true → exec (.getCapabilities p) s = .next ((s.setSpdm { x with caps := true }).spdmReply p 0x61 [])) ∧
    (∀ slh sha, x.caps = true → (slh || sha) = true →
      exec (.negotiateAlgorithms p slh sha) s = .next ((s.setSpdm { x with algs := true }).spdmReply p 0x63 [])) ∧
    (x.algs = true →
      exec (.getDigests p) s = .next (s.spdmReply p 0x01 (sha256 Config.certChain)) ∧
      (∀ off len, exec (.getCertificate p 0 off len) s = .next (s.spdmReply p 0x02 ((Config.certChain.drop off).take len))) ∧
      (∀ nonce, exec (.challenge p nonce) s = .next (s.spdmReply p 0x03 (signed nonce))) ∧
      (∀ index nonce, exec (.getMeasurements p index nonce) s = .next (s.spdmReply p 0x60 (s.measurement index nonce)))) ∧
    (∀ k, p = .doe k →
      (∀ data, x.algs = true →
        exec (.keyExchange p data) s = .next ((s.setSpdm { x with handshake := true, session := false }).spdmReply p 0x64 (signed data))) ∧
      (∀ data, x.handshake = true →
        exec (.finish p data) s = .next (if Config.spdmFinishOk x.keyGen data then (s.setSpdm { x with handshake := false, session := true }).spdmReply p 0x65 []
          else (s.setSpdm { x with handshake := false }).spdmRefuse p)) ∧
      (x.session = true →
        exec (.keyUpdate p) s = .next ((s.setSpdm { x with keyGen := x.keyGen + 1 }).spdmReply p 0x69 []) ∧
        exec (.endSession p) s = .next ((s.setSpdm { x with session := false }).spdmReply p 0x6C []) ∧
        (∀ f keys, fnPort f = k → keys ≠ [] → s.fnAlive f = true →
          exec (.ideKm f true keys) s = .next (({ s with sec := { s.sec with ide := ainsert f true s.sec.ide } } : State).spdmReply p 0x7E [])))) ∧
    (∀ f c, alookup f s.sec.ide = some true →
      let t : State := { s with sec := { s.sec with ide := ainsert f false s.sec.ide }, out := s.out ++ [.aer f] }
      exec (.ideIntegrityFailure f none) s = .next t ∧ exec (.ideIntegrityFailure f (some c)) s = .next (t.failRun c .dataPoisoned 0))
/-- R417, R418, R507, R513, R514, R537, R538, R539, R544, R630, R632: telemetry commands. Information commands answer what the machine holds and change
nothing else; ACCT_CLEAR clears the chosen counters of one account; the results held for later are read and released; an EVENT_WAIT with no event pending
waits. -/
def Obligations.TelemetryCommandsComplete : Prop :=
  ∀ (s : State) (id : CmdId) (o : Outst),
    (s.startable id (.healthLog id) = some o → (o.hold || decide (0xC20 ≤ o.rbufLen)) = true →
      exec (.healthLog id) s = .next (s.ends s o .ok 0 s.healthBytes)) ∧
    (s.startable id (.memInfo id) = some o → (o.hold || decide (32 * Variant.dies s.variant ≤ o.rbufLen)) = true →
      exec (.memInfo id) s = .next (s.ends s o .ok 0 s.memInfo)) ∧
    (s.startable id (.storeInfo id) = some o → (o.hold || decide (64 ≤ o.rbufLen)) = true →
      exec (.storeInfo id) s = .next (s.ends s o .ok 0 s.storeInfo)) ∧
    (∀ scope p c, acctFields scope p c = .ok () → s.acctIdent o scope p c = .ok () →
      (s.startable id (.acctRead id scope p c) = some o → (o.hold || decide (224 ≤ o.rbufLen)) = true →
        exec (.acctRead id scope p c) s = .next (s.ends s o .ok 0 (s.acctOf scope p c).bytes)) ∧
      (∀ mask, s.startable id (.acctClear id scope p c mask) = some o → o.hold = false → mask < 2 ^ 27 →
        exec (.acctClear id scope p c mask) s = .next ((s.updAcct scope p c (fun a => a.clear mask)).complete o .ok 0 []))) ∧
    (∀ handle flags tag h, (bitAt flags 0 = false ∨ tag < 32) → s.named o handle flags tag = .result h → s.resultTurn o h = true → o.hold = false →
      (∀ offset, s.startable id (.resultRead id handle flags tag offset) = some o → offset ≤ h.bytes.length →
        let n := min o.rbufLen (h.bytes.length - offset)
        let w := if h.room = 0 then s else s.probe (h.room + offset) n
        (h.room = 0 ∨ w.poisoned (h.room + offset) n = false) →
        let t : State := { w with host := { w.host with held := mapIf (fun x => x.handle = h.handle) (fun x => { x with readBefore := true }) w.host.held } }
        exec (.resultRead id handle flags tag offset) s =
          .next ((t.updOutst id (fun x => { x with again := h.readBefore })).complete o .ok 0 ((h.bytes.drop offset).take o.rbufLen))) ∧
      (s.startable id (.resultRelease id handle flags tag) = some o →
        exec (.resultRelease id handle flags tag) s =
          .next ((({ s with host := { s.host with held := s.host.held.filter (fun x => x.handle ≠ h.handle) } } : State).sweep).complete o .ok 0 []))) ∧
    (s.startable id (.eventWait id) = some o → o.hold = false → ((s.chargeQueue id.queue 17 32).queue id.queue).events = [] →
      exec (.eventWait id) s = .next ((s.chargeQueue id.queue 17 32).markRunning id)) ∧
    (s.power.powered = true → s.power.flushing = false → s.power.flushed = false →
      exec .healthLogSave s = .next { s with health := { s.health with saved := s.health.log } }) ∧
    (∀ h x, s.host.held.find? (fun y => y.handle = h) = some x → x.isDone = true →
      (s.queue x.id.queue).heldCpls.any (fun k => k.held && k.handle == h) = false →
      exec (.resultTimeout h) s = .next ({ s with host := { s.host with held := s.host.held.filter (fun y => y.handle ≠ h) } } : State).sweep)

/-- R637, R638, R639, R640, R641: the management interface while the package is powered. Each request is answered with REQUEST, COMPLETION and its data; only
GET_EVENT takes an event off its queue. -/
def Obligations.ManagementRequestsComplete : Prop :=
  ∀ (s : State), s.power.powered = true →
    exec .getState s = .next (s.mgmtReply 1 0 (leBytes 4 s.devId ++ leBytes 4 0x00010000 ++ leBytes 8 s.sec.serial ++ leBytes 4 (s.devState 0)
      ++ leBytes 4 s.devStatus ++ leBytes 4 s.caps ++ leBytes 8 s.power.uptimeUs)) ∧
    (∀ offset length,
      (offset + length ≤ 0xC20 →
        exec (.getHealth offset length) s = .next (s.mgmtReply 2 0 (slice s.healthBytes offset length))) ∧
      (0xC20 < offset + length → exec (.getHealth offset length) s = .next (s.mgmtReply 2 2 []))) ∧
    (∀ watts, ∃ data, exec (.getTelemetry watts) s = .next (s.mgmtReply 3 0 data) ∧ data.length = 38 + 2 * Variant.clusters s.variant ∧
      slice data 24 14 = (List.range 7).flatMap (fun i => leBytes 2 (capAt 0xFFFF (watts.getD i 0)))) ∧
    (s.mgmt.events = [] → exec .getEvent s = .next (s.mgmtReply 4 1 [])) ∧
    (∀ e rest, s.mgmt.events = e :: rest →
      exec .getEvent s = .next (({ s with mgmt := { s.mgmt with events := rest, lost := false } } : State).mgmtReply 4 0
        (leBytes 4 e.1 ++ leBytes 2 (capAt 0xFFFF e.2) ++ leBytes 1 (if s.mgmt.lost then 1 else 0)))) ∧
    exec (.mctpControl none) s = .next { s with out := s.out ++ [.mctp s.mgmt.eid] } ∧
    (∀ e, 8 ≤ e → e < 255 → exec (.mctpControl (some e)) s = .next { s with mgmt := { s.mgmt with eid := e }, out := s.out ++ [.mctp e] }) ∧
    (∀ addr, s.mgmt.smbOnly = false →
      exec (.i3cAddressAssignment addr) s = .next { s with mgmt := { s.mgmt with i3c := true, addr := addr } }) ∧
    (s.mgmt.i3c = false → s.mgmt.events ≠ [] → exec .alertResponse s = .next { s with out := s.out ++ [.alertAddr s.mgmt.addr] })

/-- R242, R659, R660, R661, R662, R663, R664, R665, R667, R668, R669, R670: test commands. A link test in MISSION mode answers at once, any other test holds
its link until its duration ends; a memory test runs until it is done; an injected error is armed at the store's next write. -/
def Obligations.TestCommandsComplete : Prop :=
  ∀ (s : State) (id : CmdId) (o : Outst),
    (∀ kind index mask, kind ≤ 6 → s.lanesOk kind mask = true → s.linkIdent o kind index mask = .ok () → s.linkTested kind index = false →
      (∀ lun, s.startable id (.linkTest id kind 0 index 0 lun mask 0) = some o → (kind ≠ 6 ∨ lun ≤ 7) → s.modeAllowed kind index 0 = true →
        exec (.linkTest id kind 0 index 0 lun mask 0) s = .next (s.ends { s with freeCount := s.freeCount + 1 } o .ok 0 (s.missionResult kind index mask))) ∧
      (∀ pattern mode lun duration, s.startable id (.linkTest id kind pattern index mode lun mask duration) = some o → patternOk kind pattern = true →
        1 ≤ mode → mode ≤ 3 → (kind ≠ 6 ∨ lun ≤ 7) → 1 ≤ duration → duration ≤ (if kind = 6 then 100 else 60000) → s.modeAllowed kind index mode = true →
        exec (.linkTest id kind pattern index mode lun mask duration) s =
          .next (s.goesOn (s.openTest { id := id, kind := kind, index := index, pattern := pattern, mode := mode, lun := lun, laneMask := mask, isMargin := false
                                        target := 0, locked := [] }) o (8 + 24 * (maskList 32 mask).length))) ∧
      (∀ target, s.startable id (.linkMargin id kind index mask target) = some o → 6 ≤ target → target ≤ 15 → (kind ≠ 6 ∨ s.channelFree index = true) →
        exec (.linkMargin id kind index mask target) s =
          .next (s.goesOn (s.openTest { id := id, kind := kind, index := index, pattern := 0, mode := 0, lun := 0, laneMask := mask, isMargin := true, target := target
                                        locked := [] }) o (8 + 24 * (maskList 32 mask).length)))) ∧
    (∀ kind index lane, exec (.checkerLock kind index lane) s =
      .next { s with test := { s.test with links := s.test.links.map (fun t =>
        if t.kind = kind && t.index = index && !t.isMargin && bitAt t.laneMask lane then { t with locked := addOnce lane t.locked } else t) } }) ∧
    (∀ kind index bits errors t, s.test.links.find? (fun x => x.kind = kind && x.index = index) = some t →
      exec (.testDurationEnd kind index bits errors) s =
        .next (({ (s.endTest t) with freeCount := s.freeCount + 1 } : State).completeId t.id .ok 0 (s.testResult t bits errors))) ∧
    (∀ target algorithm index, s.startable id (.memBist id target algorithm index) = some o → target ≤ 1 →
      (if target = 0 then algorithm ≤ 1 else algorithm = 0) → index < (if target = 0 then Variant.clusters s.variant else Variant.stacks s.variant) →
      (o.hold || decide (bistRoom ≤ o.rbufLen)) = true → s.cfl.protLevel ≠ 2 → s.test.bist.all (fun b => !(b.target = target && b.index = index)) = true →
      (target ≠ 0 ∨ (List.range 8).all (fun p => !(s.hasPart p && bitAt (s.entry p).clusterMask index && s.ctxs.any (fun c => c.part = p))) = true) →
      exec (.memBist id target algorithm index) s =
        .next (s.goesOn { s with test := { s.test with bist := s.test.bist ++ [{ id := id, target := target, algorithm := algorithm, index := index }] } } o bistRoom)) ∧
    (∀ p kind addr, s.startable id (.errInject id p kind addr) = some o → o.hold = false → kind ≤ 2 → p < 8 → s.hasPart p = true → s.cfl.protLevel ≠ 2 →
      s.injectable p addr = true →
      let st : Store := if addr < 0x80000000 then .tidepool else .nearMemory
      exec (.errInject id p kind addr) s =
        .next (({ s with integ := { s.integ with armed := s.integ.armed ++ [(st, checkedUnit st addr, kind)] } } : State).complete o .ok 0 [])) ∧
    (∀ faults b rest, s.test.bist = b :: rest →
      let u : State := { s with test := { s.test with bist := rest } }
      let r := (faults.filter (fun f => u.bistCovers b f.1 f.2.2)).foldl (State.bistFault b.index) (u, [])
      let t := if b.target = 0 then r.1.wipeCluster b.index else r.1
      exec (.memBistDone faults) s =
        .next (t.completeId b.id .ok 0 (leBytes 4 r.2.length ++ leBytes 4 (if 256 < r.2.length then 1 else 0) ++ (r.2.take 256).flatten)))

/-- R671, R672, R673, R674: the test access port. Each instruction is selected; where it acts (below protection level 2, the boundary instructions only while
the package is held in reset) SAMPLE and the EXTEST family shift the lands' levels out, and IDCODE its register always. -/
def Obligations.JtagInstructionsComplete : Prop :=
  ∀ (s : State),
    exec .testLogicReset s = .next { s with test := { s.test with tapIr := 1 } } ∧
    exec .idcode s = .next { s with test := { s.test with tapIr := 1 }, out := s.out ++ [.tdo 1 (2 ^ 28 + (0x4E30 + Variant.dies s.variant) * 2 ^ 12 + 0x4D5 * 2 + 1)] } ∧
    exec .bypass s = .next { s with test := { s.test with tapIr := 0xFF } } ∧
    exec .clamp s = .next { s with test := { s.test with tapIr := 3 } } ∧
    exec .highz s = .next { s with test := { s.test with tapIr := 4 } } ∧
    (s.cfl.protLevel ≠ 2 →
      (∀ bits, exec (.samplePreload bits) s =
        .next { s with freeCount := s.freeCount + 1, out := s.out ++ [.tdo 2 s.landSample]
                       test := { s.test with tapIr := 2, boundary := (List.range boundaryCells).map (fun i => bits.getD i false) } }) ∧
      (s.heldInReset = true →
        exec .extest s = .next { s with freeCount := s.freeCount + 1, out := s.out ++ [.tdo 0 s.landSample], test := { s.test with tapIr := 0 } } ∧
        exec .extestPulse s = .next { s with freeCount := s.freeCount + 1, out := s.out ++ [.tdo 5 s.landSample], test := { s.test with tapIr := 5 } } ∧
        exec .extestTrain s = .next { s with freeCount := s.freeCount + 1, out := s.out ++ [.tdo 6 s.landSample], test := { s.test with tapIr := 6 } } ∧
        (∀ k, exec (.stack1500 k) s = .next { s with test := { s.test with tapIr := 0x10, stack := k } }))) ∧
    (s.cfl.protLevel = 2 → ∀ bits, exec (.samplePreload bits) s = .next { s with test := { s.test with tapIr := 2 } }) ∧
    ((s.cfl.protLevel = 2 ∨ s.heldInReset = false) →
      exec .extest s = .next { s with test := { s.test with tapIr := 0 } } ∧ exec .extestPulse s = .next { s with test := { s.test with tapIr := 5 } } ∧
      exec .extestTrain s = .next { s with test := { s.test with tapIr := 6 } } ∧ (∀ k, exec (.stack1500 k) s = .next { s with test := { s.test with tapIr := 0x10 } }))
/-- R83, R84, R155, R156, R202, R203, R206: the control and copy steps of a program, where the core's next step is that one and may issue. FILL and TP_COPY
write their destination in the core's tidepool, SIGNAL adds to an event counter, COMMIT ends the list, and a SWAP takes effect once no step of its half is
loading or streaming. -/
def Obligations.ControlStepsComplete : Prop :=
  ∀ (s : State) (core : Nat) (r : Run) (c : CoreRun),
    (∀ event count, s.nextStep core (.wait event count) r c = true →
      exec (.wait core event count) s = .next (s.issued core (.wait event count) r c)) ∧
    (∀ event cluster increment x, s.nextStep core (.signal event cluster increment) r c = true → r.cores[8 * cluster]? = some x →
      let t := s.issued core (.signal event cluster increment) r c
      exec (.signal core event cluster increment) s =
        .next { t with events := ainsert (x.flat / 8, event) (t.eventOf (x.flat / 8) event + increment) t.events }) ∧
    (∀ layer, s.nextStep core (.layerMark layer) r c = true →
      exec (.layerMark core layer) s = .next ((s.issued core (.layerMark layer) r c).updCore r.id core (fun x => { x with layer := layer }))) ∧
    (s.nextStep core .commit r c = true →
      exec (.commit core) s = .next ((s.issued core .commit r c).updCore r.id core (fun x => { x with atCommit := true }))) ∧
    (∀ width offset length value, s.nextStep core (.fill width offset length value) r c = true →
      exec (.fill core width offset length value) s =
        .next (((s.issued core (.fill width offset length value) r c).tpTouch r core offset length).devWr r.part (tpBase core + offset) (fillBytes width length value))) ∧
    (∀ srcOff dstOff length, s.nextStep core (.tpCopy srcOff dstOff length) r c = true →
      let t := (s.issued core (.tpCopy srcOff dstOff length) r c).probe (tpBase core + srcOff) length
      (t.run? r.id).isSome = true →
      exec (.tpCopy core srcOff dstOff length) s =
        .next (((t.tpTouch r core dstOff length).devWr r.part (tpBase core + dstOff) (t.rd (tpBase core + srcOff) length)).addPoison
          (t.carryPoison (tpBase core + srcOff) (tpBase core + dstOff) length))) ∧
    (∀ halfB, s.nextStep core (.swap halfB) r c = true →
      exec (.swap core halfB) s =
        .next ((s.issued core (.swap halfB) r c).updCore r.id core (fun x => { x with pendingSwap := setAt (b2n halfB) true x.pendingSwap }))) ∧
    (∀ halfB j, s.runOn core = some r → r.cores.find? (fun x => x.flat = core) = some c → r.swapIdx c (b2n halfB) = some j →
      c.pendingSwap.getD (b2n halfB) false = true → r.busyHalves c ((s.core core).swapHalves (b2n halfB)) = false →
      let t := s.setCore core ((s.core core).swapped (b2n halfB))
      exec (.swapTakesEffect core halfB) s =
        .next ((t.updCore r.id core (fun y => { y with pendingSwap := setAt (b2n halfB) false y.pendingSwap })).stepDone r.id core j))

/-- R81, R83, R100, R110, R112, R141, R144, R179, R203, R451, R463, R467: the steps of the engines, where the core's next step is that one and may issue. Each
reads its operands under the checker and leaves its results; the step stays in flight until the engine has done. -/
def Obligations.EngineStepsComplete : Prop :=
  ∀ (s : State) (core : Nat) (r : Run) (c : CoreRun),
    (∀ a v, s.nextStep core (.loadWeights a) r c = true →
      let t := s.issued core (.loadWeights a) r c
      t.operand r core a.w = some v →
      let spans := t.cellSpans r.id v (a.tileN * (tileOf a.shape).2) (min (tileOf a.shape).2 (v.desc.rows - a.tileN * (tileOf a.shape).2))
        (a.tileK * (tileOf a.shape).1) (min (tileOf a.shape).1 (v.desc.ext 0 - a.tileK * (tileOf a.shape).1))
      exec (.loadWeights core a) s =
        .next (t.reading r.id spans (fun u =>
          let w := u.loadTile r v a
          w.1.setCore core ((w.1.core core).load w.2 (halfOf a.shape a.halfB))))) ∧
    (∀ a, s.nextStep core (.streamMm a) r c = true → exec (.streamMm core a) s = .next ((s.issued core (.streamMm a) r c).matStep r core a false)) ∧
    (∀ a, s.nextStep core (.mv a) r c = true → exec (.mv core a) s = .next ((s.issued core (.mv a) r c).matStep r core a true)) ∧
    (∀ a, s.nextStep core (.vec a) r c = true →
      let t := s.issued core (.vec a) r c
      exec (.vec core a) s = .next (t.reading r.id (t.vecReads r core a) (fun u => u.runVec r core a))) ∧
    (∀ a v, s.nextStep core (.qscan a) r c = true →
      let t := s.issued core (.qscan a) r c
      t.operand r core a.src = some v →
      exec (.qscan core a) s = .next (t.reading r.id (t.groupSpans r.id a v) (fun u => u.runQscan r core a v))) ∧
    (∀ a v w, s.nextStep core (.qconvert a) r c = true →
      let t := s.issued core (.qconvert a) r c
      t.operand r core a.src = some v → t.operand r core a.out = some w →
      exec (.qconvert core a) s = .next (t.reading r.id (t.groupSpans r.id a v) (fun u => u.runQconvert r core a v w))) ∧
    (∀ stream src dst a b, s.nextStep core (.copy stream src dst) r c = true →
      let t := s.issued core (.copy stream src dst) r c
      t.operand r core src = some a → t.operand r core dst = some b → exec (.copy core stream src dst) s = .next (t.copyRun r stream a b)) ∧
    (∀ a v, s.nextStep core (.collective a) r c = true →
      let t := s.issued core (.collective a) r c
      t.operand r core a.src = some v →
      exec (.collective core a) s =
        .next (t.startOp (r.rings.getD a.ring 0)
          { id := r.id, flat := core, stepIdx := c.pc, op := 0, cop := a.cop, headroom := a.headroom, units := collUnits a.cop v.desc
            src := a.src, dst := a.dst, startSeen := false, first := [], second := [] })) ∧
    (∀ entry p, s.runOn core = some r → r.cores.find? (fun x => x.flat = core) = some c → r.img.prefetch[entry]? = some p → s.stalled = false →
      r.pfDue c entry p = true → r.pfClear c p = true → (r.copyQueue c).length < 16 →
      let t := (s.keepOld r core (pfKey + entry) (if p.dstTier = 0 then r.whole p.dst else [])).updCore r.id core
        (fun x => { x with pfIssued := x.pfIssued ++ [entry], inflight := x.inflight ++ [pfKey + entry] })
      (p.dstTier = 1 → exec (.prefetchIssue core entry) s = .next t) ∧
      (∀ a b, p.dstTier ≠ 1 → t.operand r core p.src = some a → t.operand r core p.dst = some b →
        exec (.prefetchIssue core entry) s = .next (t.copyRun r false a b))) ∧
    (∀ j, s.runOn core = some r → r.cores.find? (fun x => x.flat = core) = some c → j ∈ c.inflight → r.mayEnd c j = true →
      (∀ w, (r.img.steps.getD (r.coreNo core) [])[j]? = some w → (∀ h, w.kind ≠ .swap h) → (∀ a, w.kind ≠ .collective a) →
        exec (.engineStepComplete core j) s = .next ((s.addBusy r core w.kind).stepDone r.id core j)) ∧
      ((r.img.steps.getD (r.coreNo core) [])[j]? = none → pfKey ≤ j →
        exec (.engineStepComplete core j) s = .next (s.prefetchDone r.id core (j - pfKey))))
/-- R314, R320, R327, R328, R329, R330, R342, R347, R348, R364, R366, R370: programming. A committed slot whose turn it is takes a page and keeps it; a program
that succeeds writes the enciphered page and, once its whole group is written, switches the map; a copy that collection makes is written and mapped; one that
fails retires its block; in a flush the piece at the front is written, or its segment is written again in the spare space. -/
def Obligations.SlotProgrammingCompletes : Prop :=
  ∀ (s : State) (slot : Nat),
    (∀ x t loc mirror, s.flash.slots.find? (fun y => y.sid = slot) = some x → x.seq.isSome = true → x.programming = none → s.flashFree = true →
      s.isNextSlot x = true → s.placeFor x.ns x.unit = (t, some (loc, mirror)) →
      exec (.slotProgram slot) s =
        .next { t with flash := { t.flash with slots := mapIf (fun y => y.sid = slot) (fun y => { y with programming := some loc, mirror := mirror }) t.flash.slots } }) ∧
    (∀ x loc, (s.power.flushing || s.power.draining) = false → s.flashFree = true → s.flash.slots.find? (fun y => y.sid = slot) = some x →
      x.programming = some loc → x.verified = false →
      let cells := s.cipherUnit x.ns x.unit (s.flash.slotMem.readN 0 (slot * 16384) 16384)
      let t := ((s.programAt loc x.mirror x.ns x.unit (x.seq.getD 0) cells).readBack x.mirror loc).chargeProgram x
      let u : State := { t with flash := { t.flash with slots := mapIf (fun y => y.sid = slot) (fun y => { y with verified := true }) t.flash.slots } }
      exec (.nandProgramDone slot) s = .next ((((u.settleGroup x).settleFlush).settleCeiling).settleErases) ∧
      exec (.nandProgramFail slot) s = .next ((s.chargeProgram x).retireFailed x.mirror loc)) ∧
    (∀ c, (s.power.flushing || s.power.draining) = false → s.flashFree = true → s.flash.slots.find? (fun y => y.sid = slot) = none →
      s.flash.copies.find? (fun x => x.key = slot) = some c →
      exec (.nandProgramDone slot) s = .next ((s.copyDone c).settleErases) ∧
      exec (.nandProgramFail slot) s = .next ((s.chargeDevice 15 (s.unitTraffic * (if c.mirror then 2 else 1))).retireFailed c.mirror c.loc)) ∧
    (∀ p rest, (s.power.flushing || s.power.draining) = true → s.flash.area.todo = p :: rest → s.flash.area.tailsSaved = true → p.key = slot →
      let a := s.flash.area
      let gone := a.written.filter (fun q => q.sameSegment p)
      exec (.nandProgramDone slot) s =
        .next { s with flash := { s.flash with area := { a with todo := rest, written := a.written ++ [p], writtenAt := some s.now } } } ∧
      (gone.length < a.spare → exec (.nandProgramFail slot) s =
        .next { s with flash := { s.flash with area := { a with
          todo := gone ++ a.todo, written := a.written.filter (fun q => !q.sameSegment p), spare := a.spare - (gone.length + 1) } } }))

/-- R222, R241, R303, R333, R334, R335, R336, R344, R662: what reading a codeword finds. A clean read only reads, a retry counts as corrected, parity rebuilds and
queues a refresh, a page of a member that is away is rebuilt at once, a mirror's second copy is read when the first fails, and a codeword that nothing repairs
(a page that is another unit's among them) loses its block, unless only a test that has borrowed its channel keeps it from being read: then the read waits. -/
def Obligations.CodewordReadsComplete : Prop :=
  ∀ (s : State) (ns lblock : Nat),
    let unit := lblock / 4
    let e := s.mapAt ns unit
    let soft := ((s.flash.profileOf (e.loc / 2 ^ 31)).map (·.softFrom)).getD 0
    let all := ((s.flash.profileOf (e.loc / 2 ^ 31)).map (·.retryLevels)).getD 0
    let renew := fun (t : State) => if e.mirror && t.flashFree then t.rewritePair ns unit else t
    let gone := if e.mirror then (s.readFails e.loc).readFails ((s.readFails e.loc).mirrorOf e.loc) else s.readFails e.loc
    e.onNand = true →
    (s.copyGood e.loc ns unit = true →
      (s.memberAway e.loc = false →
        (∀ n, exec (.readCodeword ns lblock (.hard n)) s = .next (s.readRow e.loc 1 false)) ∧
        (∀ l, let t := (s.readRow e.loc (1 + min l all) false).integrity 5 0
          (soft ≤ l → exec (.readCodeword ns lblock (.retry l)) s = .next (t.refreshFor e.loc)) ∧
          (l < soft → exec (.readCodeword ns lblock (.retry l)) s = .next t)) ∧
        exec (.readCodeword ns lblock .parity) s = .next (renew (((s.readRow e.loc (1 + all) true).integrity 5 1).refreshFor e.loc))) ∧
      (s.memberAway e.loc = true →
        let t := renew (((s.readRow e.loc 0 true).integrity 5 1).refreshFor e.loc)
        (∀ n, exec (.readCodeword ns lblock (.hard n)) s = .next t) ∧ (∀ l, exec (.readCodeword ns lblock (.retry l)) s = .next t) ∧
        exec (.readCodeword ns lblock .parity) s = .next t)) ∧
    (∀ c, e.mirror = true → s.copyGood (s.mirrorOf e.loc) ns unit = true →
      exec (.readCodeword ns lblock (.mirror c)) s =
        .next (renew ((((s.readFails e.loc).readStep (s.mirrorOf e.loc) c).integrity 5 1).refreshFor e.loc))) ∧
    (∀ c, (e.mirror && s.copyGood (s.mirrorOf e.loc) ns unit) = false → s.testWaits e ns unit = false → exec (.readCodeword ns lblock (.mirror c)) s = .next (gone.loseBlock ns lblock)) ∧
    (s.testWaits e ns unit = false → exec (.readCodeword ns lblock .lost) s = .next (gone.loseBlock ns lblock)) ∧
    (s.copyGood e.loc ns unit = false → (e.mirror && s.copyGood (s.mirrorOf e.loc) ns unit) = false → ∀ out,
      (s.testWaits e ns unit = false → exec (.readCodeword ns lblock out) s = .next (gone.loseBlock ns lblock)) ∧
      (s.testWaits e ns unit = true → exec (.readCodeword ns lblock out) s = .next s))

/-- R330, R333, R340, R341, R343, R344, R345, R349, R375: the background work of the flash store, where it is free to work and its condition holds: refresh by
read count and by scan, collection, refresh and wear levelling of a superblock, and the end of an erase. -/
def Obligations.FlashBackgroundCompletes : Prop :=
  ∀ (s : State) (group : Nat),
    (∀ x sb, s.sb? group sb = some x →
      (∀ member, s.refreshAt group ≤ x.reads.getD member 0 → exec (.readCountThreshold group sb member) s = .next (s.queueRefresh group sb)) ∧
      (x.state = .closed →
        let t := (List.range 16).foldl (fun u m => u.addReads group sb m (ceilDiv (s.flash.pagesPer group x.use) 64)) s
        let limit := ((t.flash.profileOf group).map (·.refreshBits)).getD 0
        (∀ n, limit ≤ n → exec (.retentionScan group sb (.hard n)) s = .next (t.queueRefresh group sb)) ∧
        (∀ n, n < limit → exec (.retentionScan group sb (.hard n)) s = .next t) ∧
        (∀ out, (∀ n, out ≠ .hard n) → exec (.retentionScan group sb out) s = .next (t.queueRefresh group sb))) ∧
      (s.flashFree = true → x.refresh = true → x.use = .data → x.state = .closed → s.busySb x = false →
        exec (.superblockRefresh group sb) s = .next ((s.collect x).settleErases)) ∧
      (s.flashFree = true → x.refresh = true → x.state = .collecting →
        exec (.superblockRefresh group sb) s = .next ((s.pushCopies x).settleErases)) ∧
      (x.state = .erasing → s.flashFree = true → (List.range 16).all (fun m => !s.borrowed (16 * group + m)) = true →
        let t := (s.blankPages (fun p => x.has (s.flash.blockOf p.loc).1)).sbEvent x 2
        exec (.nandEraseDone group sb) s =
          .next (t.updSb x.group x.sb (fun y => { y with state := .free, nextUnit := 0, reads := List.replicate 16 0 })))) ∧
    (s.flashFree = true →
      (∀ x, s.flash.sbs.find? (fun x => x.group = group && (x.state = .collecting || x.state = .dissolving)) = some x →
        exec (.gcCollect group) s = .next ((s.pushCopies x).settleErases)) ∧
      (∀ x, s.flash.sbs.find? (fun x => x.group = group && (x.state = .collecting || x.state = .dissolving)) = none → s.victim group = some x →
        exec (.gcCollect group) s = .next ((s.collect x).settleErases))) ∧
    (∀ lo hi, let closed := s.flash.sbs.filter (fun x => x.group = group && x.use = .data && x.state = .closed && !s.busySb x)
      leastBy (fun a b => decide (a.eraseCount < b.eraseCount)) closed = some lo → leastBy (fun a b => decide (b.eraseCount < a.eraseCount)) closed = some hi →
      s.flashFree = true → s.cfg.tunables.getD 4 5 * ((s.flash.profileOf group).map (·.peRated)).getD 0 < 100 * (hi.eraseCount - lo.eraseCount) →
      exec (.wearLevel group) s = .next ((s.collect lo).settleErases))

/-- R308, R338, R339: the journal, the map checkpoints and channel recalibration. The records of a die that wait for no program become durable in one piece of
64 KiB, in order, on SLC pages; a checkpoint writes a segment's durable map into the older of its two areas and frees the journal records that every segment's
checkpoint covers. -/
def Obligations.JournalStepsComplete : Prop :=
  ∀ (s : State),
    (∀ die t rs, s.flashFree = true →
      let mine := s.flash.jbuf.filter (fun r => r.die = die)
      let ready := mine.filter (fun r => !s.recWaits r)
      s.writeRecs (ready.take pieceRecs) = (t, rs) → rs.all (fun r => r.loc != 0) = true →
      exec (.journalPieceWrite die) s =
        .next ({ t with flash := { t.flash with
          jdur := t.flash.jdur ++ rs
          jbuf := t.flash.jbuf.filter (fun r => r.die ≠ die) ++ mine.filter s.recWaits ++ ready.drop pieceRecs } } : State).settleErases) ∧
    (∀ ns segment n, s.ns? ns = some n → s.flashFree = true → segment < n.segments →
      let gids := (s.flash.jbuf.filter (fun r => r.kind == 0 && r.ns == ns && segOf r.unit == segment)).map (·.gid)
      let t := s.journalOut (fun r => decide (r.gid ∈ gids))
      let ents := (t.flash.durableMap.filter (fun e => e.1.1 == ns && segOf e.1.2 == segment && e.2 != MapEntry.unmapped)).map (fun e => (e.1.2, e.2))
      let units := min (2 ^ 20) (ceilDiv n.capacity 4 - segment * 2 ^ 20)
      let w := State.programSlc .checkpoint (chunks 16384 (ceilDiv (5 * units) 16384 + 1) (segBytes ents (segment * 2 ^ 20) units)) t
      let u := w.1
      let area := !((u.flash.ckpt? ns segment).map (·.area)).getD true
      0 ∉ w.2 → u.flash.jbuf.any (fun r => decide (r.gid ∈ gids)) = false →
      exec (.mapCheckpoint ns segment) s =
        .next ({ u with flash := ({ u.flash with
          ckpts := u.flash.ckpts.filter (fun x => !(x.ns = ns && x.seg == segment && x.area == area)) ++
            [{ ns := ns, seg := segment, area := area, seq := u.flash.coveredSeq ns segment, gid := u.flash.nextGid, pages := w.2, ents := ents }] } : FlashSt).freeJournal } : State).settleErases) ∧
    (∀ channel, s.flash.groupState.getD (channel / 16) 0 = 1 →
      exec (.channelRecalibrate channel) s = .next { s with flash := { s.flash with recal := ainsert channel s.now s.flash.recal } })

/-- R219, R227, R228, R229, R230, R236, R237: the scrubbers. A step moves the scrubber on; a clean word is clean again, a corrected one counts and is written
back, an uncorrectable one is poisoned; a found word is scrubbed out of turn; the remap tables are written to flash. -/
def Obligations.ScrubbingCompletes : Prop :=
  ∀ (s : State) (st : Store) (addr : Nat),
    (s.scrubs st addr = true → (st, checkedUnit st addr) ∉ s.integ.poison →
      (st ≠ .accumulator → st ≠ .path → (st = .dieCache → s.dcache.any (fun l => l.addr == lineOf addr) = true) →
        let t := s.scrubMove st addr
        ((st, checkedUnit st addr) ∉ s.integ.bad → (st, checkedUnit st addr) ∉ s.integ.weak →
          exec (.scrubStep st addr .clean) s = .next (t.scrubClean st addr).settleFaults) ∧
        ((st, checkedUnit st addr) ∉ s.integ.bad →
          exec (.scrubStep st addr .corrected) s = .next (((t.correctable st addr).scrubClean st addr).settleFaults)) ∧
        exec (.scrubStep st addr .uncorrectable) s = .next (t.uncorrectable st addr).settleFaults) ∧
      (st = .accumulator →
        exec (.scrubStep st addr .clean) s = .next s.settleFaults ∧ exec (.scrubStep st addr .corrected) s = .next (s.correctable st addr).settleFaults) ∧
      (st = .path →
        exec (.scrubStep st addr .clean) s = .next s.settleFaults ∧ exec (.scrubStep st addr .corrected) s = .next (s.integrity 3 clsCorrected).settleFaults)) ∧
    ((st, checkedUnit st addr) ∈ s.integ.weak → (st, checkedUnit st addr) ∈ s.integ.counted → s.scrubs st addr = true →
      ((st, checkedUnit st addr) ∉ s.integ.bad → exec (.outOfTurnScrub st addr) s =
        .next { s with integ := { s.integ with
          weak := s.integ.weak.filter (· ≠ (st, checkedUnit st addr)), counted := s.integ.counted.filter (· ≠ (st, checkedUnit st addr))
          injected := s.integ.injected.filter (· ≠ (st, checkedUnit st addr)) } }) ∧
      ((st, checkedUnit st addr) ∈ s.integ.bad → exec (.outOfTurnScrub st addr) s = .next (s.uncorrectable st addr).settleFaults)) ∧
    (s.power.powered = true →
      exec .remapTableWrite s =
        .next { s with integ := { s.integ with
          remaps := s.integ.remaps.map (fun r => { r with saved := true })
          withheld := s.integ.withheld.map (fun w => (w.1, true))
          retiredBanks := s.integ.retiredBanks.map (fun w => (w.1, true))
          retiredUnits := s.integ.retiredUnits.map (fun w => (w.1, true)) } })

/-- R213, R386, R387, R389, R396, R397, R400, R401, R402, R415, R416: scheduling. At its end a slice whose command may run on becomes an overrun, one whose
command may not gives way to the next context, whose slice begins, and one without a command is handed over; a run past its bound fails with
RUN_BOUND_EXCEEDED; a path serves the partition whose turn it is, which gives the request's bytes from its tokens; an energy sample charges each rail. -/
def Obligations.SchedulingStepsComplete : Prop :=
  ∀ (s : State) (p : Nat), s.hasPart p = true →
    (∀ h o, (s.partRt p).holder = some h → (s.partRt p).overrun = false → s.runningSliced p h = some o →
      let n := State.chooseNext p s.chooseRounds [] s
      (s.runsOn o = true → exec (.sliceEnd p) s = .next (s.updPart p (fun r => { r with overrun := true, sliceLen := s.now - r.sliceStart }))) ∧
      (s.runsOn o = false →
        exec (.sliceEnd p) s = .next (match n.2 with
          | none => n.1
          | some c => if c = h then n.1.grant p c else ((n.1.sliceKill p h o).endSliceOf p).grant p c))) ∧
    (let n := State.chooseNext p s.chooseRounds [] s
     let next : State := match n.2 with
       | none => (n.1.endSliceOf p).updPart p (fun r => { r with holder := none, overrun := false })
       | some c => (if (n.1.partRt p).holder = some c then n.1 else n.1.endSliceOf p).grant p c
     (∀ h, (s.partRt p).holder = some h → (s.partRt p).overrun = false → s.runningSliced p h = none → exec (.sliceEnd p) s = .next next) ∧
     ((s.partRt p).holder = none → exec (.handover p) s = .next next) ∧
     (∀ h, (s.partRt p).holder = some h → s.runningSliced p h = none → ((s.partRt p).overrun = true ∨ s.readySliced p h = []) →
       exec (.handover p) s = .next next)) ∧
    (∀ id o r, s.outst? id = some o → s.run? id = some r → o.phase = .running → s.runsOn o = true →
      exec (.runBoundExpiry id) s = .next (s.failRun id .runBoundExceeded r.img.runBound)) ∧
    (∀ path unit bytes, bytes ≤ 4096 → s.hasPlace p path unit = true →
      let a := s.arbiter path unit
      let come : State := if bytes = 0 then s else { s with arbiters := ainsert (path, unit) { a with waiting := a.waiting ++ [(p, bytes)] } s.arbiters }
      (come.servedNext path unit = none → exec (.regulatorAdmit p path unit bytes) s = .next come) ∧
      (∀ q w, come.servedNext path unit = some q → (come.arbiter path unit).waiting.find? (fun x => x.1 = q) = some w →
        exec (.regulatorAdmit p path unit bytes) s =
          .next { (come.takeTokens q path unit w.2) with
            arbiters := ainsert (path, unit) { waiting := (come.arbiter path unit).waiting.erase (q, w.2), last := q } come.arbiters })) ∧
    (s.power.powered = true → ∀ energy activity,
      exec (.energySample energy activity) s = .next (energy.zipIdx.foldl (fun t e => t.shareRail e.2 e.1 activity) s))

/-- R600, R603, R604, R605, R624, R631: a cap step recomputes the partitions' clock points from the power of ten milliseconds and steps the stall share; a
temperature sample is taken sensor by sensor, moves the thermal points, and a second sample of 115 °C in turn stops the device. -/
def Obligations.PowerSamplesComplete : Prop :=
  ∀ (s : State), s.power.powered = true →
    (∀ otherW measuredW, s.power.computeReady = true →
      let u : State := { s with power := { s.power with otherLast := (otherW :: s.power.otherLast).take 10 } }
      let v := ((u.capPoints (((otherW :: s.power.otherLast).take 10).foldl max 0)).foldl (fun w x => w.updPart x.1 (fun r => { r with clockPoint := x.2.2 })) u).setSupplies
      (v.stored.pkgCap v.variant < measuredW →
        exec (.capStep otherW measuredW) s = .next ({ v with power := { v.power with stall := min (v.power.stall + 10) 90 } } : State).settleCaps) ∧
      (measuredW ≤ v.stored.pkgCap v.variant →
        exec (.capStep otherW measuredW) s = .next ({ v with power := { v.power with stall := v.power.stall - 10 } } : State).settleCaps)) ∧
    (∀ otherW measuredW, s.power.computeReady = false → exec (.capStep otherW measuredW) s = .next s) ∧
    (∀ all, let temps := all.filter (fun x => s.slotFitted x.1)
      let t := temps.foldl State.takeTemp s
      let u := ((List.range 8).filter t.hasPart).foldl State.thermalStep t
      (temps.all (fun x => decide (x.2 < 115) || (alookup x.1 s.health.hotSince).isNone) = true → exec (.tempSample all) s = .next u) ∧
      (∀ x, temps.find? (fun x => decide (115 ≤ x.2) && (alookup x.1 s.health.hotSince).isSome) = some x →
        exec (.tempSample all) s = .next (u.deviceFaultOf (slotUnit x.1) false)))

/-- R351, R354, R355, R598, R618, R619, R624, R625, R628: faults. A fault of a single unit is contained and recorded; a device-class fault stops the device; a
processor that its watchdog resets costs its commands; a lost clock takes down what it drives. -/
def Obligations.FaultsComplete : Prop :=
  ∀ (s : State) (unit : Nat), s.power.powered = true → s.silent = false →
    (s.unitExists unit = true → unit ∉ s.health.log.outOfService → unitKind unit ∉ [0xA, 0xB, 0xD] → unit ≠ 0 → unit ≠ 2 →
      let c := s.containUnit unit
      let t := (c.1.recordFault unit 1 c.2).unitEvent unit
      let a := unitIdx unit / 8
      let b := unitIdx unit % 8
      ((unitKind unit = 9 → (t.dieCut a || t.dieCut b) = false) → (unitKind unit = 0xE → 4 ≤ (List.range 8).countP (fun i => !t.unitDown 0xE i)) →
        exec (.unitFaultDetected unit) s = .next t ∧
        (∀ channel lun, unit = 0x7000 + (8 * channel + lun) → exec (.lunFailure channel (some lun)) s = .next t) ∧
        (∀ channel, unit = 0x8000 + channel → exec (.lunFailure channel none) s = .next t)) ∧
      (unitKind unit = 9 → (t.dieCut a || t.dieCut b) = true →
        exec (.unitFaultDetected unit) s = .next (t.deviceFaultOf (0xA000 + (if t.dieCut a then a else b)) true)) ∧
      (unitKind unit = 0xE → (List.range 8).countP (fun i => !t.unitDown 0xE i) < 4 → exec (.unitFaultDetected unit) s = .next (t.deviceFaultOf unit true))) ∧
    (s.unitExists unit = true → unit ∉ s.health.log.outOfService → (unitKind unit ∈ [0xA, 0xB, 0xD] ∨ unit = 0 ∨ unit = 2) →
      exec (.unitFaultDetected unit) s = .next (s.deviceFaultOf unit true)) ∧
    exec (.deviceClassFault unit) s = .next (s.deviceFaultOf unit true) ∧
    (∀ proc cmds, proc < 8 → 0xE000 + proc ∉ s.health.log.outOfService →
      let hit := cmds.filter (fun id => id ∈ s.runningIds)
      let t := hit.foldl (fun u id => u.faultKill id (0xE000 + proc)) s
      let u : State := { t with health := { t.health with watchdog := t.health.watchdog ++ [(proc, t.now)] } }
      let recent := (t.health.watchdog.filter (fun w => w.1 = proc && decide (t.now < w.2 + 3600000000))).length
      (recent < 2 → exec (.watchdogExpiry proc cmds) s = .next (u.recordFault (0xE000 + proc) 0 hit.length)) ∧
      (2 ≤ recent → exec (.watchdogExpiry proc cmds) s = .next (u.unitFault (0xE000 + proc) hit.length))) ∧
    (∀ clk, let t : State := { s with power := { s.power with clocks := ainsert clk false s.power.clocks } }
      (clk = .pclk0 → exec (.clockLoss clk) s = .next (t.linkDown 0)) ∧
      (clk = .pclk1 → s.host.splitSampled = true → exec (.clockLoss clk) s = .next (t.linkDown 1)) ∧
      (clk = .fclk → exec (.clockLoss clk) s = .next (((List.range 32).filter s.lportEnabled).foldl State.portDown t)) ∧
      (clk = .sclk → exec (.clockLoss clk) s = .next (t.deviceFault 2)) ∧
      (clk = .aclk → exec (.clockLoss clk) s = .next t))
/-- R357, R360, R361, R362, R379, R380, R592, R606, R607, R608, R615, R616: power and reset. With PWRGD up the package starts up; a loss signal while storage
is ready starts the flush; a limit ends it with its mark; removing the supply loses all that is volatile; a package reset starts up at once where no data
waits, and else after its drain. -/
def Obligations.PowerAndResetComplete : Prop :=
  ∀ (s : State) (board : Board),
    (s.power.pwrgd = false → (s.power.flushing || s.power.flushed || s.power.draining) = false →
      let b := s.boardFinds board
      exec (.powerOn board) s =
        .next ({ b with power := { b.power with pwrgd := true, powered := true, clocks := s.power.clocks.map (fun c => (c.1, true)) } } : State).startUp) ∧
    ((s.power.flushing || s.power.flushed || s.power.draining) = false → s.power.storageReady = true →
      exec .pwrgdFall s = .next ((({ s with power := { s.power with pwrgd := false } } : State).endExcursions).startFlush false) ∧
      exec .plpNFall s = .next ((({ s with power := { s.power with plpN := false } } : State).endExcursions).startFlush false)) ∧
    ((s.power.flushing || s.power.flushed) = false → s.power.draining = true →
      exec .plpNFall s = .next { s with power := { s.power with plpN := false, draining := false, flushing := true }
                                        flash := { s.flash with area := { s.flash.area with deadline := some (s.now + 1000000) } } }) ∧
    (s.power.flushing = true → ∀ limit,
      let t : State := { s with flash := { s.flash with area := { s.flash.area with limit := some limit } } }
      (limit = .time → exec (.flushLimitReached limit) s = .next (t.endFlush 1)) ∧ (limit = .energy → exec (.flushLimitReached limit) s = .next (t.endFlush 2)) ∧
      (limit = .power → exec (.flushLimitReached limit) s = .next (t.endFlush 3))) ∧
    exec .powerRemoved s = .next ({ s with power := { s.power with powered := false, pwrgd := false } } : State).volatileReset ∧
    (s.power.adminReady = true → s.power.computeReady = true → s.power.storageReady = false → s.power.replaying = false → s.silent = false →
      exec .replayStart s = .next { s with power := { s.power with plpN := true, replaying := true } }) ∧
    (s.power.powered = true → (s.power.flushing || s.power.draining) = false →
      let t := s.boardSays board
      ((s.power.flushed || s.power.fault || !s.power.storageReady) = true →
        exec (.packageReset board) s = .next t.startUp ∧
        (∀ f value, s.fnAlive f = true → isVf f = false → bitAt value.toNat 0 = true → bits value.toNat 8 8 = 0xA5 →
          exec (.pkgReset f value board) s = .next t.startUp)) ∧
      ((s.power.flushed || s.power.fault || !s.power.storageReady) = false →
        exec (.packageReset board) s = .next { (t.startFlush true) with power := { (t.startFlush true).power with resetWaits := true } })) ∧
    (∀ port, s.power.powered = true →
      let t := (s.boardSays board).updPort port (fun x => { x with perstN := false })
      (s.port port).perstN = true →
      (s.power.flushed = false → s.host.splitSampled = true → exec (.perstAssert port board) s = .next (t.portReset port)) ∧
      (s.power.flushed = true → s.host.splitSampled = true → exec (.perstAssert port board) s = .next t.packageReset) ∧
      (s.host.splitSampled = false → port = 0 → exec (.perstAssert port board) s = .next t.packageReset) ∧
      (s.host.splitSampled = false → port ≠ 0 → exec (.perstAssert port board) s = .next t)) ∧
    (s.power.powered = true → (s.power.flushing || s.power.draining) = true →
      exec (.packageReset board) s = .next { (s.boardSays board) with power := { (s.boardSays board).power with resetWaits := true } }) ∧
    (∀ port, s.power.powered = true → s.host.splitPending = true →
      let t := s.updPort port (fun x => if x.perstN then x else { x with perstN := true, releasedAt := s.now })
      exec (.perstRelease port) s = .next { t with host := { t.host with splitSampled := s.host.splitStrap, splitPending := false } })

/-- R476, R478, R482, R516, R517, R598, R611, R681: functions and links. A function-level reset resets the queues that the function owns and its MSI-X table
and pending bits; D3hot does so and leaves the function in D3hot; a link that goes down orphans its port's queues. -/
def Obligations.FunctionEventsComplete : Prop :=
  ∀ (s : State) (f : Fn),
    (s.pcieStopped = false → exec (.functionLevelReset f) s = .next { s.flr f with host := { (s.flr f).host with fnD3 := (s.flr f).host.fnD3.filter (· ≠ f) } }) ∧
    (s.pcieStopped = false → exec (.d3hotEntry f) s = .next { s.flr f with host := { (s.flr f).host with fnD3 := addOnce f (s.flr f).host.fnD3 } }) ∧
    (s.pcieStopped = true →
      exec (.functionLevelReset f) s = .next s ∧ exec (.d3hotEntry f) s = .next s ∧ ∀ p n b, exec (.vfEnable p n b) s = .next s) ∧
    (∀ p n, s.pcieStopped = false → (s.port p).vfEnable = false →
      (∀ b, exec (.vfEnable p n b) s = .next (s.updPort p (fun x => { x with numVfs := min n 8, vfEnable := b })))) ∧
    (∀ p n, s.pcieStopped = false → (s.port p).vfEnable = true →
      exec (.vfEnable p n false) s =
        .next (((List.range 8).foldl (fun t k => t.flr (.vf p k)) s).updPort p (fun x => { x with vfEnable := false, numVfs := min n 8 }))) ∧
    (s.fnAlive f = true → (s.port (fnPort f)).linkUp = true → ∀ off,
      ((s.port (fnPort f)).perstN = true → (s.port (fnPort f)).releasedAt + 100000 ≤ s.now →
        exec (.configRequest f off) s = .next { s with out := s.out ++ [.configData f (s.configDword f off)] }) ∧
      (s.now < (s.port (fnPort f)).releasedAt + 100000 → exec (.configRequest f off) s = .next { s with out := s.out ++ [.configRetry f] })) ∧
    (∀ p, (s.port p).perstN = true → s.power.adminReady = true → s.fnAlive (.pf p) = true →
      exec (.pcieLinkUp p) s =
        .next (({ s with power := { s.power with clocks := ainsert (if p = 0 then .pclk0 else .pclk1) true s.power.clocks } } : State).updPort p
          (fun x => { x with linkUp := true }))) ∧
    (∀ p, let qs := (s.host.queues.filter (fun x => x.2.enabled && !x.2.orphaned && (x.2.owner.map fnPort) = some p)).map (·.1)
      let t := qs.foldl (fun u q => u.updQueue q (fun x => { x with orphaned := true })) (s.updPort p (fun x => { x with linkUp := false }))
      exec (.pcieLinkDown p) s = .next (qs.foldl (fun u q =>
        let v := match q with
          | .admin _ => u.mgmtPush (orphanWord q) p
          | .io _ => u
        (v.deliver (orphanWord q) p (.admin 0)).deliver (orphanWord q) p (.admin 1)) t))

/-- R40, R485, R490, R491, R492, R494, R505, R506, R518, R520, R529, R678: the queue registers. The owner's SQ_TAIL announces entries under one doorbell,
CQ_HEAD frees the tags of the entries that it passes, a fetch takes the next entry of the ring, and Q_CONFIG enables, changes and disables the queue. -/
def Obligations.QueueRegistersComplete : Prop :=
  ∀ (s : State) (f : Fn) (q : QId), s.reaches f q = true →
    ((s.queue q).enabled = true → (s.queue q).orphaned = false → (s.queue q).owner = some f →
      (∀ v : W32,
        let fresh := (v.toNat % 32 + 32 - (s.queue q).sqHead) % 32
        let t := s.setQueue q { s.queue q with sqTail := v.toNat % 32, rung := ((s.queue q).rung ++ List.replicate 32 (s.host.doorbells, s.host.cflWait)).take fresh }
        exec (.sqTail f q v) s = .next { t with host := { t.host with doorbells := t.host.doorbells + 1 } }) ∧
      (∀ v : W32, let t := s.setQueue q { s.queue q with cqHead := v.toNat % 32 }
        exec (.cqHead f q v) s = .next { t with host := { t.host with outst := t.host.outst.filter (fun o =>
          !(o.id.queue = q && o.phase = .posted && passed (s.queue q).cqHead (v.toNat % 32) o.cplIndex)) } }) ∧
      (∀ v : W32, s.silent = false → bits v.toNat 16 10 < fnVectors f → bitAt v.toNat 0 = true →
        exec (.qConfigUpdate f q v) s = .next ((s.setQueue q { s.queue q with irqEn := bitAt v.toNat 1, vector := bits v.toNat 16 10 }).irqCheck q)) ∧
      (s.silent = false → ∀ v : W32, (s.host.outst.any (fun o => o.id.queue = q) = true → exec (.queueDisable f q v) s = .next (s.disableQueue q)) ∧
        (s.host.outst.any (fun o => o.id.queue = q) = false → exec (.queueDisable f q v) s =
          .next ((s.disableQueue q).updQueue q (fun x => { x with vector := bits (v.toNat / 2 * 2) 16 10, irqEn := bitAt (v.toNat / 2 * 2) 1 }))))) ∧
    (s.silent = false → (s.queue q).orphaned = true → (s.queue q).owner = some f → ∀ v : W32,
      (s.host.outst.any (fun o => o.id.queue = q) = true → exec (.queueDisable f q v) s = .next (s.disableQueue q)) ∧
      (s.host.outst.any (fun o => o.id.queue = q) = false → exec (.queueDisable f q v) s =
        .next ((s.disableQueue q).updQueue q (fun x => { x with vector := bits (v.toNat / 2 * 2) 16 10, irqEn := bitAt (v.toNat / 2 * 2) 1 })))) ∧
    (s.silent = false → (s.queue q).enabled = false → (∀ i, q = .io i → (s.ctx? (i / 16) (i % 16)).isSome = true) → ∀ v : W32, bits (v.toNat ||| 1) 16 10 < fnVectors f →
      exec (.queueEnable f q v) s = .next (s.enableQueue f q (bits (v.toNat ||| 1) 16 10) (bitAt (v.toNat ||| 1) 1))) ∧
    (s.silent = false →
      let x := s.queue q
      let addr := x.sqBase + 64 * x.sqHead
      let t := s.updQueue q (fun y => { y with sqHead := (y.sqHead + 1) % 32, rung := y.rung.drop 1 })
      let g := t.chargeQueue q 16 64
      let pkt := g.hostRd addr 64
      let id : CmdId := { queue := q, tag := field pkt 2 1 % 32 }
      ((x.enabled = false ∨ x.orphaned = true ∨ x.sqHead = x.sqTail) → exec (.commandFetch q) s = .next s) ∧
      (x.enabled = true → x.orphaned = false → x.sqHead ≠ x.sqTail →
        (s.hostBad addr 64 = true → exec (.commandFetch q) s = .next (t.updQueue q (fun y => { y with fetchError := true }))) ∧
        (s.hostBad addr 64 = false → (g.outst? id).isSome = true →
          exec (.commandFetch q) s = .next ((g.updQueue q (fun y => { y with tagError := true })).raise 8
            (match q with
              | .admin k => k
              | .io i => i) id.tag (match q with
              | .admin _ => .device
              | .io i => .ctx (i / 16) (i % 16)))) ∧
        (s.hostBad addr 64 = false → g.outst? id = none →
          let mask := field pkt 4 4
          let v := g.freeNat.1
          let o : Outst := { id := id, cmd := buildCommand pkt id, ordered := bitAt (field pkt 1 1) 0, hold := bitAt (field pkt 1 1) 1, noIrq := bitAt (field pkt 1 1) 2
                             ibuf := field pkt 0x20 8, ibufLen := field pkt 0x28 4, rbuf := field pkt 0x30 8, rbufLen := field pkt 0x38 4
                             serial := v.host.nextSerial, rung := x.rung.headD (v.host.doorbells, v.host.cflWait)
                             deps := (g.host.outst.filter (fun y => y.id.queue = q && bitAt mask y.id.tag && y.phase ≠ .posted)).map (fun y => (y.serial, y.id.tag))
                             depFailed := (g.host.outst.find? (fun y => y.id.queue = q && bitAt mask y.id.tag && y.phase = .posted && y.failed)).map (·.id.tag)
                             phase := .waiting, failed := false, cplIndex := 0, sliceKills := 0, faultKills := 0, poisonKills := [], readyAt := v.now
                             readySeq := readyNext v.host.outst, engineNs := 0, energyMj := g.freeNat.2, movedBytes := 0, again := false, charges := [] }
          let u : State := { v with host := { v.host with
            held := if o.hold then mapIf (fun h => h.id = id) (fun h => { h with byTag := false }) v.host.held else v.host.held
            outst := v.host.outst ++ [o], nextSerial := v.host.nextSerial + 1 } }
          (u.fetchCheck q pkt = .ok () → exec (.commandFetch q) s = .next (State.settle 32 u)) ∧
          (∀ e, u.fetchCheck q pkt = .error e → exec (.commandFetch q) s = .next (u.complete o e.status e.detail []))))) ∧
    ((s.queue q).enabled = true → (s.queue q).orphaned = false → (s.queue q).irqEn = true → 0 < (s.queue q).unreported →
      exec (.irqDelayTimeout q) s = .next ((s.sendIrq q).chargeQueue q 17 ((s.sendIrq q).messageBytes s))) ∧
    (s.fnAlive f = true → f ∉ s.host.fnD3 →
      (isVf f = false → ∀ v : W32, exec (.cflWait f v) s = .next { s with host := { s.host with cflWait := v.toNat % 32 } }) ∧
      (∀ off (v : W64),
        (off % 4 = 0 → off ≠ 0x200 → exec (.registerWrite f off 4 v) s = .next (s.writeReg4 f off (v.toNat % 2 ^ 32))) ∧
        (off % 8 = 0 → off ≠ 0x200 → exec (.registerWrite f off 8 v) s =
          .next ((s.writeReg4 f off (v.toNat % 2 ^ 32)).writeReg4 f (off + 4) (v.toNat / 2 ^ 32)))))

/-! ### The queue of commands and the passing of time -/

/-- Each step takes the command at the front of the queue and is its meaning on the queue's rest. -/
def Obligations.StepRunsFront : Prop :=
  ∀ (s : State) (c : Instr) (rest : List Instr), s.pending = c :: rest → step s = exec c { s with pending := rest }

/-- On an empty queue the block idles for one microsecond (the model's choice, log entry 5): the clock moves on by one, UPTIME_US with it while the package
has supply, and a package without a fault to contain that is not in a flush, a drain, a replay or a lowering writes the driftline entries that are due (log
entry 63) and does nothing more. -/
def Obligations.IdleStepIsOneMicrosecond : Prop :=
  ∀ s : State, s.pending = [] →
    step s = .next s.tick ∧ s.advance.now = s.now + 1 ∧
    (s.power.powered = true → s.advance.power.uptimeUs = (s.power.uptimeUs + 1) % 2 ^ 64) ∧
    (s.integ.due = [] → s.power.powered = false → s.tick = { s with now := s.now + 1 }) ∧
    (s.integ.due = [] → s.power.powered = true → (s.power.flushing || s.power.draining || s.power.replaying) = false → s.cfl.lowering = none →
      s.tick = s.advance.logEntries)

/-- Every step of the block ends in a next state, whatever the state and the command: no command is refused and none faults. -/
def Obligations.EveryStepIsSafe : Prop := ∀ s : State, StepsSafely s

/-- R502, R503, R522: a packet command that is not fetched and waiting, or whose dependencies and ordering are not met, changes nothing (a CFL_PROTECT that is
lowering the level and a ROMX_UPDATE whose image is being written apart: their further rows are the stages of their work). -/
def Obligations.CommandNotReadyChangesNothing : Prop :=
  ∀ (s : State) (c : Instr) (id : CmdId) (op : Nat) (fs : List (Nat × Nat × Nat)), commandFields c = some (id, op, fs) → s.startable id c = none →
    s.cfl.lowerCmd ≠ some id → s.sec.updating.map (·.1) ≠ some id → exec c s = .next s

/-! ### Packets and step words -/

/-- R197: the 32 bytes that a step's fields spell are read as that step again, with every field at every value of its width. -/
def Obligations.StepWordRoundTrip : Prop := ∀ w : StepWord, w.kind.wf = true → stepWordOf (stepBytes w) = some w ∧ (stepBytes w).length = 32

/-- R496, R522, R523: the packet that a command's opcode and fields spell is read as that command again, with every field at every value that the packet
admits, whatever its FLAGS, TAG, DEP_MASK and buffers are. -/
def Obligations.PacketRoundTrip : Prop :=
  ∀ (c : Instr) (id : CmdId) (op : Nat) (fs : List (Nat × Nat × Nat)) (flags tag mask ibuf ibufLen rbuf rbufLen : Nat),
    c.wf = true → commandFields c = some (id, op, fs) →
      buildCommand (packetBytes op flags tag mask fs ibuf ibufLen rbuf rbufLen) id = c ∧
      (packetBytes op flags tag mask fs ibuf ibufLen rbuf rbufLen).length = 64

/-- R499: the completion entry is one 32-byte write with the fields of the *Completion entry layout* table, and every other byte of host memory stays. -/
def Obligations.CompletionEntryLayout : Prop :=
  ∀ (s : State) (q : QId) (c : Cpl), s.host.mem.wf 0 = true → c.resultLen < 2 ^ 32 → c.handle < 2 ^ 32 → c.engineNs < 2 ^ 64 → (s.queue q).sqHead < 32 →
    let addr := (s.queue q).cqBase + 32 * (s.queue q).cqTail
    let t := s.writeCpl q c
    let b := t.hostRd addr 32
    let flags := field b 1 1
    field b 0 1 = c.tag % 32 ∧
    bitAt flags 0 = c.repeated ∧ bitAt flags 1 = c.held ∧ bitAt flags 2 = c.event ∧ bitAt flags 3 = c.takenOver ∧ flags < 16 ∧
    field b 2 2 = c.status.code ∧ field b 4 4 = c.resultLen ∧ field b 8 4 = c.handle ∧ field b 0x0C 1 = (s.queue q).sqHead ∧ field b 0x0D 1 = 0 ∧
    field b 0x0E 2 = min c.detail 0xFFFF ∧ field b 0x10 8 = c.engineNs ∧ field b 0x18 4 = min c.energyMj 0xFFFFFFFF ∧
    field b 0x1C 3 = min c.movedMib 0xFFFFFF ∧ field b 0x1F 1 = (if (s.queue q).phase then 1 else 0) ∧
    (∀ a, a < addr ∨ addr + 32 ≤ a → t.hostRd a 1 = s.hostRd a 1)

/-- R499, R501, R504, R510: posting a completion, with all the completions that follow from failed dependencies, leaves every other part of the machine as it
was: device memory too, but for the room of a held result, which takes the result's bytes (R512). -/
def Obligations.CompletionKeepsTheRest : Prop :=
  ∀ (s : State) (o : Outst) (st : Status) (det : Nat) (bs : Bytes),
    let t := s.complete o st det bs
    s.Keeps t ∧
    ((o.hold || (s.queue o.id.queue).orphaned) = false → t.mem = s.mem ∧ t.integ = s.integ) ∧
    (bs = [] → t.mem = s.mem ∧ t.integ = s.integ) ∧
    (∀ h a, s.heldOf o.serial = some h → s.mem.wf 0 = true → a < h.room ∨ h.room + bs.length ≤ a → t.rd a 1 = s.rd a 1)

/-- R525, R529: HOLD_RESULT on a command without result data completes it with PARAM_INVALID and the packet offset of FLAGS, and nothing else happens. -/
def Obligations.HeldWithoutResultRefused : Prop :=
  ∀ (s : State) (id : CmdId) (o : Outst), o.hold = true →
    let refused : Res := .next (s.complete o .paramInvalid 0x01 [])
    (s.startable id (.nop id) = some o → exec (.nop id) s = refused) ∧
    (∀ a b, s.startable id (.storeTune id a b) = some o → exec (.storeTune id a b) s = refused) ∧
    (∀ a b, s.startable id (.ctxDestroy id a b) = some o → exec (.ctxDestroy id a b) s = refused) ∧
    (∀ a b c, s.startable id (.ctxModify id a b c) = some o → exec (.ctxModify id a b c) s = refused) ∧
    (∀ a b c, s.startable id (.ctxFlagsClear id a b c) = some o → exec (.ctxFlagsClear id a b c) s = refused) ∧
    (s.startable id (.storeFlush id) = some o → exec (.storeFlush id) s = refused) ∧
    (∀ h, s.startable id (.tensorDestroy id h) = some o → exec (.tensorDestroy id h) s = refused) ∧
    (∀ h a b, s.startable id (.tensorWrite id h a b) = some o → exec (.tensorWrite id h a b) s = refused) ∧
    (∀ a b, s.startable id (.tensorCopy id a b) = some o → exec (.tensorCopy id a b) s = refused) ∧
    (∀ h, s.startable id (.tensorStage id h) = some o → exec (.tensorStage id h) s = refused) ∧
    (∀ h, s.startable id (.tensorSync id h) = some o → exec (.tensorSync id h) s = refused) ∧
    (∀ h, s.startable id (.tensorEvict id h) = some o → exec (.tensorEvict id h) s = refused) ∧
    (∀ h a, s.startable id (.tensorRepair id h a) = some o → exec (.tensorRepair id h a) s = refused) ∧
    (∀ h seed, s.startable id (.progRun id h seed) = some o → s.sliceAllows id = true → exec (.progRun id h seed) s = refused) ∧
    (∀ h, s.startable id (.progUnload id h) = some o → exec (.progUnload id h) s = refused) ∧
    (∀ h, s.startable id (.semRelease id h) = some o → exec (.semRelease id h) s = refused) ∧
    (∀ h, s.startable id (.semDestroy id h) = some o → exec (.semDestroy id h) s = refused) ∧
    (∀ h, s.startable id (.accordUnload id h) = some o → exec (.accordUnload id h) s = refused) ∧
    (∀ h, s.startable id (.modelUnbind id h) = some o → exec (.modelUnbind id h) s = refused) ∧
    (∀ h, s.startable id (.ringDissolve id h) = some o → exec (.ringDissolve id h) s = refused) ∧
    (∀ l, s.startable id (.fabPortSet id l) = some o → exec (.fabPortSet id l) s = refused) ∧
    (∀ a, s.startable id (.cflProgram id a) = some o → exec (.cflProgram id a) s = refused) ∧
    (∀ a, s.startable id (.cflErase id a) = some o → exec (.cflErase id a) s = refused) ∧
    (s.startable id (.cflSuspend id) = some o → exec (.cflSuspend id) s = refused) ∧
    (s.startable id (.cflResume id) = some o → exec (.cflResume id) s = refused) ∧
    (∀ a b c, s.startable id (.errInject id a b c) = some o → exec (.errInject id a b c) s = refused) ∧
    (∀ a b c d, s.startable id (.acctClear id a b c d) = some o → exec (.acctClear id a b c d) s = refused) ∧
    (∀ h f t a, s.startable id (.resultRead id h f t a) = some o → exec (.resultRead id h f t a) s = refused) ∧
    (∀ h f t, s.startable id (.resultRelease id h f t) = some o → exec (.resultRelease id h f t) s = refused) ∧
    (s.configTurn o = true →
      (s.startable id (.cfgWrite id) = some o → exec (.cfgWrite id) s = refused) ∧
      (∀ a, s.startable id (.setOpp id a) = some o → exec (.setOpp id a) s = refused) ∧
      (∀ p, s.startable id (.partCreate id p) = some o → exec (.partCreate id p) s = refused) ∧
      (∀ p, s.startable id (.partModify id p) = some o → exec (.partModify id p) s = refused) ∧
      (∀ p, s.startable id (.partDestroy id p) = some o → exec (.partDestroy id p) s = refused) ∧
      (∀ l, s.startable id (.cflProtect id l) = some o → exec (.cflProtect id l) s = refused) ∧
      (s.startable id (.romxUpdate id) = some o → exec (.romxUpdate id) s = refused)) ∧
    (∀ ns, s.nsHeld ns = false →
      (∀ a b, s.startable id (.blockWrite id ns a b) = some o → exec (.blockWrite id ns a b) s = refused) ∧
      (∀ a b, s.startable id (.blockTrim id ns a b) = some o → exec (.blockTrim id ns a b) s = refused) ∧
      (∀ a b c d e, s.startable id (.nsCreate id ns a b c d e) = some o → exec (.nsCreate id ns a b c d e) s = refused) ∧
      (s.startable id (.nsDestroy id ns) = some o → exec (.nsDestroy id ns) s = refused) ∧
      (∀ a b c, s.startable id (.objCreate id ns a b c) = some o → exec (.objCreate id ns a b c) s = refused) ∧
      (∀ a b, s.startable id (.objWrite id ns a b) = some o → exec (.objWrite id ns a b) s = refused) ∧
      (∀ a, s.startable id (.objDelete id ns a) = some o → exec (.objDelete id ns a) s = refused) ∧
      (s.startable id (.idxCreate id ns) = some o → exec (.idxCreate id ns) s = refused) ∧
      (∀ a, s.startable id (.idxDelete id ns a) = some o → exec (.idxDelete id ns a) s = refused) ∧
      (∀ a, s.startable id (.idxMerge id ns a) = some o → exec (.idxMerge id ns a) s = refused) ∧
      (s.startable id (.idxDestroy id ns) = some o → exec (.idxDestroy id ns) s = refused))

/-! ### Rules stated whole -/

/-- R155: FILL writes the low WIDTH bytes of VALUE, lowest first, repeated from OFFSET over LENGTH bytes of the core's tidepool and cut short at the end;
every other byte of device memory stays. It takes the cycles of the bank that most of the range falls in, at 64 bytes per cycle in each bank. -/
def Obligations.FillRepeatsConstant : Prop :=
  ∀ (s : State) (core width offset length value : Nat) (r : Run) (c : CoreRun), s.mem.wf 0 = true → (Instr.fill core width offset length value).wf = true →
    (width = 1 ∨ width = 2 ∨ width = 4 ∨ width = 8) → s.nextStep core (.fill width offset length value) r c = true →
    (∃ t, exec (.fill core width offset length value) s = .next t ∧
      (∀ i, i < length → t.rd (tpBase core + offset + i) 1 = [BitVec.ofNat 8 (value / 256 ^ (i % width))]) ∧
      (∀ a, a < tpBase core + offset ∨ tpBase core + offset + length ≤ a → t.rd a 1 = s.rd a 1)) ∧
    (∃ n, s.stepCycles r core (.fill width offset length value) = some (3, n) ∧
      (∀ b, b < 16 → ceilDiv (bankShare offset length b) 64 ≤ n) ∧ (n = 0 ∨ ∃ b, b < 16 ∧ ceilDiv (bankShare offset length b) 64 = n))

/-- R106: a matrix step with M = 0 or N = 0 leaves memory, the accumulator, both weight sets and the run's flags and counters as they were, and fails no run. -/
def Obligations.EmptyMatrixStepWritesNothing : Prop :=
  ∀ (s : State) (core : Nat) (a : MatArgs) (r : Run) (c : CoreRun), a.m = 0 ∨ a.n = 0 →
    (s.nextStep core (.streamMm a) r c = true → ∃ t, exec (.streamMm core a) s = .next t ∧ t.mem = s.mem ∧ t.cores = s.cores ∧ t.host = s.host ∧
      t.runs.map (fun x => (x.failed, x.flags, x.saturations, x.emptySteps)) = s.runs.map (fun x => (x.failed, x.flags, x.saturations, x.emptySteps)) ∧
      t.tensors = s.tensors ∧ t.bindings = s.bindings) ∧
    (s.nextStep core (.mv a) r c = true → ∃ t, exec (.mv core a) s = .next t ∧ t.mem = s.mem ∧ t.cores = s.cores ∧ t.host = s.host ∧
      t.runs.map (fun x => (x.failed, x.flags, x.saturations, x.emptySteps)) = s.runs.map (fun x => (x.failed, x.flags, x.saturations, x.emptySteps)) ∧
      t.tensors = s.tensors ∧ t.bindings = s.bindings)

/-- R184, R411, R450: a tensor that is bound, a semaphore that has a holder or a waiter, and a ring that a queued or running command names are kept, with
RESOURCE_BUSY; an idle semaphore and an unnamed ring go; and a package reset leaves neither semaphores nor rings. -/
def Obligations.BusyObjectsAreKept : Prop :=
  ∀ (s : State) (id : CmdId) (o : Outst), o.hold = false →
    (∀ h t, s.startable id (.tensorEvict id h) = some o → s.tensor? h = some t → t.desc.part = ioPart o → s.isBound h = true →
      exec (.tensorEvict id h) s = .next (s.complete o .resourceBusy 0 [])) ∧
    (∀ h x, s.startable id (.semDestroy id h) = some o → s.sems.find? (fun y => y.handle = h && y.part = ioPart o) = some x →
      ((x.holder.isSome || !x.waiters.isEmpty) = true → exec (.semDestroy id h) s = .next (s.complete o .resourceBusy 0 [])) ∧
      ((x.holder.isSome || !x.waiters.isEmpty) = false → ∃ t, exec (.semDestroy id h) s = .next t ∧ t.sems = s.sems.filter (fun y => y.handle ≠ h))) ∧
    (∀ h r, s.startable id (.ringDissolve id h) = some o → s.ring? h = some r → r.part = ioPart o → r.forming = none →
      (s.ringNamed id r.handle = true → exec (.ringDissolve id h) s = .next (s.complete o .resourceBusy 0 [])) ∧
      (s.ringNamed id r.handle = false → ∃ t, exec (.ringDissolve id h) s = .next t ∧ ∀ x ∈ t.fabric.rings, x.handle ≠ h)) ∧
    s.startUp.sems = [] ∧ s.startUp.fabric.rings = []

/-- R418: a counter that an increment would carry beyond the largest 64-bit value stays there, sets its own flag and raises one event; further increments
leave it as it is, without an event, until ACCT_CLEAR sets the counter and its flag to zero. -/
def Obligations.CountersSaturateOnce : Prop :=
  ∀ (a : Acct) (i n : Nat), a.counters.length = 27 → i < 27 → a.counters.getD i 0 ≤ 2 ^ 64 - 1 →
    (a.counters.getD i 0 + n ≤ 2 ^ 64 - 1 → (a.add i n).1.counters.getD i 0 = a.counters.getD i 0 + n ∧ (a.add i n).1.saturated = a.saturated ∧ (a.add i n).2 = false) ∧
    (2 ^ 64 - 1 < a.counters.getD i 0 + n → (a.add i n).1.counters.getD i 0 = 2 ^ 64 - 1 ∧ bitAt (a.add i n).1.saturated i = true ∧
      (a.add i n).2 = !bitAt a.saturated i ∧ (∀ j, j ≠ i → bitAt (a.add i n).1.saturated j = bitAt a.saturated j)) ∧
    (∀ j, j ≠ i → (a.add i n).1.counters.getD j 0 = a.counters.getD j 0) ∧
    (∀ mask, bitAt mask i = true → (a.clear mask).counters.getD i 0 = 0 ∧ bitAt (a.clear mask).saturated i = false) ∧
    (∀ s : State, s.device = a → s.chargeDevice i n =
      (if (a.add i n).2 then ({ s with device := (a.add i n).1 } : State).raise 6 (0x80 + i) 0 .device else { s with device := (a.add i n).1 })) ∧
    (∀ (s : State) (p : Nat), (s.partRt p).acct = a → s.chargePart p i n =
      (if (a.add i n).2 then (s.updPart p (fun r => { r with acct := (a.add i n).1 })).raise 6 (0x40 + i) 0 (.part p)
       else s.updPart p (fun r => { r with acct := (a.add i n).1 })))

/-- R431: a sequence number is earlier than another when the difference modulo 2^32 lies between 1 and 2^31 - 1. -/
def Obligations.LongshoreOrderIsModular : Prop :=
  ∀ a b : Nat, a < 2 ^ 32 → b < 2 ^ 32 →
    (lsLt a b = true ↔ 1 ≤ (((b : Int) - (a : Int)) % 2 ^ 32) ∧ (((b : Int) - (a : Int)) % 2 ^ 32) ≤ 2 ^ 31 - 1)

/-- R564: CFL_PROTECT with a higher LEVEL raises the level at once and adds one to COUNTER; with the level in force it completes with OK and changes nothing. -/
def Obligations.ProtectionRisesAtOnce : Prop :=
  ∀ (s : State) (id : CmdId) (o : Outst) (level : Nat), s.startable id (.cflProtect id level) = some o → s.configTurn o = true → o.hold = false → level ≤ 2 →
    (s.cfl.protLevel < level → ∃ t, exec (.cflProtect id level) s = .next t ∧ t.cfl = { s.cfl with protLevel := level, protCounter := s.cfl.protCounter + 1 } ∧
      t = (s.raiseLevel level).complete o .ok 0 []) ∧
    (s.cfl.protLevel = level → exec (.cflProtect id level) s = .next (s.complete o .ok 0 []))

/-- R672: the IDCODE register's version, part number by variant, manufacturer and final bit. -/
def Obligations.IdcodeReads : Prop :=
  ∀ s : State, ∃ v t, exec .idcode s = .next t ∧ t.out = s.out ++ [.tdo 1 v] ∧ t.mem = s.mem ∧ t.host = s.host ∧ t.cores = s.cores ∧ v < 2 ^ 32 ∧
    v / 2 ^ 28 = 1 ∧ v / 2 ^ 12 % 2 ^ 16 = (match s.variant with | .nk2 => 0x4E32 | .nk4 => 0x4E34 | .nk8 => 0x4E38) ∧ v / 2 % 2 ^ 11 = 0x4D5 ∧ v % 2 = 1

/-- R346, R411, R450, R483, R484, R490, R545, R614, R615, R671: what the manual says of the package before its first start: an empty queue, the default record
in force, empty queues and tables, CFL_WAIT 31, store tunables at their defaults, no readiness state, protection level 0, NAND write-protected, IDCODE
selected. -/
def Obligations.ResetValues : Prop :=
  State.reset.pending = [] ∧ State.reset.host.cflWait = 31 ∧ State.reset.host.outst = [] ∧ State.reset.host.held = [] ∧
  (∀ q, State.reset.queue q = Queue.reset) ∧ State.reset.cfg.tunables = [0, 7, 64, 24, 5] ∧ State.reset.stored = factoryRec .nk8 ∧
  State.reset.runs = [] ∧ State.reset.tensors = [] ∧ State.reset.sems = [] ∧ State.reset.fabric.rings = [] ∧ State.reset.flash.ns = [] ∧
  State.reset.cfl.protLevel = 0 ∧ State.reset.power.adminReady = false ∧ State.reset.power.storageReady = false ∧
  State.reset.power.computeReady = false ∧ State.reset.power.fabricReady = false ∧ State.reset.power.wpN = false ∧ State.reset.test.tapIr = 1
end

