-- ==== Sys2Proof/Laws/State.lean ====
section
/-!
SUPPORT. What each named update does to each field of the state: one lemma for each field of each update, so that no proof unfolds an update.
-/
namespace Sys2Proof.Machine

open Sys2Proof

variable (s : State)

/-! ### setQueue -/

@[simp] theorem setQueue_pending (q : QId) (v : Queue) : (s.setQueue q v).pending = s.pending := rfl
@[simp] theorem setQueue_variant (q : QId) (v : Queue) : (s.setQueue q v).variant = s.variant := rfl
@[simp] theorem setQueue_cfg (q : QId) (v : Queue) : (s.setQueue q v).cfg = s.cfg := rfl
@[simp] theorem setQueue_host (q : QId) (v : Queue) : (s.setQueue q v).host = { s.host with queues := ainsert q v s.host.queues } := rfl
@[simp] theorem setQueue_ctxs (q : QId) (v : Queue) : (s.setQueue q v).ctxs = s.ctxs := rfl
@[simp] theorem setQueue_parts (q : QId) (v : Queue) : (s.setQueue q v).parts = s.parts := rfl
@[simp] theorem setQueue_arbiters (q : QId) (v : Queue) : (s.setQueue q v).arbiters = s.arbiters := rfl
@[simp] theorem setQueue_device (q : QId) (v : Queue) : (s.setQueue q v).device = s.device := rfl
@[simp] theorem setQueue_sems (q : QId) (v : Queue) : (s.setQueue q v).sems = s.sems := rfl
@[simp] theorem setQueue_mem (q : QId) (v : Queue) : (s.setQueue q v).mem = s.mem := rfl
@[simp] theorem setQueue_allocs (q : QId) (v : Queue) : (s.setQueue q v).allocs = s.allocs := rfl
@[simp] theorem setQueue_dcache (q : QId) (v : Queue) : (s.setQueue q v).dcache = s.dcache := rfl
@[simp] theorem setQueue_tensors (q : QId) (v : Queue) : (s.setQueue q v).tensors = s.tensors := rfl
@[simp] theorem setQueue_bindCount (q : QId) (v : Queue) : (s.setQueue q v).bindCount = s.bindCount := rfl
@[simp] theorem setQueue_reuse (q : QId) (v : Queue) : (s.setQueue q v).reuse = s.reuse := rfl
@[simp] theorem setQueue_progs (q : QId) (v : Queue) : (s.setQueue q v).progs = s.progs := rfl
@[simp] theorem setQueue_models (q : QId) (v : Queue) : (s.setQueue q v).models = s.models := rfl
@[simp] theorem setQueue_accords (q : QId) (v : Queue) : (s.setQueue q v).accords = s.accords := rfl
@[simp] theorem setQueue_invocations (q : QId) (v : Queue) : (s.setQueue q v).invocations = s.invocations := rfl
@[simp] theorem setQueue_bindings (q : QId) (v : Queue) : (s.setQueue q v).bindings = s.bindings := rfl
@[simp] theorem setQueue_runs (q : QId) (v : Queue) : (s.setQueue q v).runs = s.runs := rfl
@[simp] theorem setQueue_cores (q : QId) (v : Queue) : (s.setQueue q v).cores = s.cores := rfl
@[simp] theorem setQueue_events (q : QId) (v : Queue) : (s.setQueue q v).events = s.events := rfl
@[simp] theorem setQueue_tpDirty (q : QId) (v : Queue) : (s.setQueue q v).tpDirty = s.tpDirty := rfl
@[simp] theorem setQueue_tpOwner (q : QId) (v : Queue) : (s.setQueue q v).tpOwner = s.tpOwner := rfl
@[simp] theorem setQueue_indexes (q : QId) (v : Queue) : (s.setQueue q v).indexes = s.indexes := rfl
@[simp] theorem setQueue_queries (q : QId) (v : Queue) : (s.setQueue q v).queries = s.queries := rfl
@[simp] theorem setQueue_flash (q : QId) (v : Queue) : (s.setQueue q v).flash = s.flash := rfl
@[simp] theorem setQueue_fabric (q : QId) (v : Queue) : (s.setQueue q v).fabric = s.fabric := rfl
@[simp] theorem setQueue_integ (q : QId) (v : Queue) : (s.setQueue q v).integ = s.integ := rfl
@[simp] theorem setQueue_cfl (q : QId) (v : Queue) : (s.setQueue q v).cfl = s.cfl := rfl
@[simp] theorem setQueue_sec (q : QId) (v : Queue) : (s.setQueue q v).sec = s.sec := rfl
@[simp] theorem setQueue_power (q : QId) (v : Queue) : (s.setQueue q v).power = s.power := rfl
@[simp] theorem setQueue_health (q : QId) (v : Queue) : (s.setQueue q v).health = s.health := rfl
@[simp] theorem setQueue_mgmt (q : QId) (v : Queue) : (s.setQueue q v).mgmt = s.mgmt := rfl
@[simp] theorem setQueue_test (q : QId) (v : Queue) : (s.setQueue q v).test = s.test := rfl
@[simp] theorem setQueue_commitSeq (q : QId) (v : Queue) : (s.setQueue q v).commitSeq = s.commitSeq := rfl
@[simp] theorem setQueue_now (q : QId) (v : Queue) : (s.setQueue q v).now = s.now := rfl
@[simp] theorem setQueue_freeCount (q : QId) (v : Queue) : (s.setQueue q v).freeCount = s.freeCount := rfl
@[simp] theorem setQueue_out (q : QId) (v : Queue) : (s.setQueue q v).out = s.out := rfl

/-! ### updQueue -/

@[simp] theorem updQueue_pending (q : QId) (f : Queue → Queue) : (s.updQueue q f).pending = s.pending := rfl
@[simp] theorem updQueue_variant (q : QId) (f : Queue → Queue) : (s.updQueue q f).variant = s.variant := rfl
@[simp] theorem updQueue_cfg (q : QId) (f : Queue → Queue) : (s.updQueue q f).cfg = s.cfg := rfl
@[simp] theorem updQueue_host (q : QId) (f : Queue → Queue) : (s.updQueue q f).host = { s.host with queues := ainsert q (f (s.queue q)) s.host.queues } := rfl
@[simp] theorem updQueue_ctxs (q : QId) (f : Queue → Queue) : (s.updQueue q f).ctxs = s.ctxs := rfl
@[simp] theorem updQueue_parts (q : QId) (f : Queue → Queue) : (s.updQueue q f).parts = s.parts := rfl
@[simp] theorem updQueue_arbiters (q : QId) (f : Queue → Queue) : (s.updQueue q f).arbiters = s.arbiters := rfl
@[simp] theorem updQueue_device (q : QId) (f : Queue → Queue) : (s.updQueue q f).device = s.device := rfl
@[simp] theorem updQueue_sems (q : QId) (f : Queue → Queue) : (s.updQueue q f).sems = s.sems := rfl
@[simp] theorem updQueue_mem (q : QId) (f : Queue → Queue) : (s.updQueue q f).mem = s.mem := rfl
@[simp] theorem updQueue_allocs (q : QId) (f : Queue → Queue) : (s.updQueue q f).allocs = s.allocs := rfl
@[simp] theorem updQueue_dcache (q : QId) (f : Queue → Queue) : (s.updQueue q f).dcache = s.dcache := rfl
@[simp] theorem updQueue_tensors (q : QId) (f : Queue → Queue) : (s.updQueue q f).tensors = s.tensors := rfl
@[simp] theorem updQueue_bindCount (q : QId) (f : Queue → Queue) : (s.updQueue q f).bindCount = s.bindCount := rfl
@[simp] theorem updQueue_reuse (q : QId) (f : Queue → Queue) : (s.updQueue q f).reuse = s.reuse := rfl
@[simp] theorem updQueue_progs (q : QId) (f : Queue → Queue) : (s.updQueue q f).progs = s.progs := rfl
@[simp] theorem updQueue_models (q : QId) (f : Queue → Queue) : (s.updQueue q f).models = s.models := rfl
@[simp] theorem updQueue_accords (q : QId) (f : Queue → Queue) : (s.updQueue q f).accords = s.accords := rfl
@[simp] theorem updQueue_invocations (q : QId) (f : Queue → Queue) : (s.updQueue q f).invocations = s.invocations := rfl
@[simp] theorem updQueue_bindings (q : QId) (f : Queue → Queue) : (s.updQueue q f).bindings = s.bindings := rfl
@[simp] theorem updQueue_runs (q : QId) (f : Queue → Queue) : (s.updQueue q f).runs = s.runs := rfl
@[simp] theorem updQueue_cores (q : QId) (f : Queue → Queue) : (s.updQueue q f).cores = s.cores := rfl
@[simp] theorem updQueue_events (q : QId) (f : Queue → Queue) : (s.updQueue q f).events = s.events := rfl
@[simp] theorem updQueue_tpDirty (q : QId) (f : Queue → Queue) : (s.updQueue q f).tpDirty = s.tpDirty := rfl
@[simp] theorem updQueue_tpOwner (q : QId) (f : Queue → Queue) : (s.updQueue q f).tpOwner = s.tpOwner := rfl
@[simp] theorem updQueue_indexes (q : QId) (f : Queue → Queue) : (s.updQueue q f).indexes = s.indexes := rfl
@[simp] theorem updQueue_queries (q : QId) (f : Queue → Queue) : (s.updQueue q f).queries = s.queries := rfl
@[simp] theorem updQueue_flash (q : QId) (f : Queue → Queue) : (s.updQueue q f).flash = s.flash := rfl
@[simp] theorem updQueue_fabric (q : QId) (f : Queue → Queue) : (s.updQueue q f).fabric = s.fabric := rfl
@[simp] theorem updQueue_integ (q : QId) (f : Queue → Queue) : (s.updQueue q f).integ = s.integ := rfl
@[simp] theorem updQueue_cfl (q : QId) (f : Queue → Queue) : (s.updQueue q f).cfl = s.cfl := rfl
@[simp] theorem updQueue_sec (q : QId) (f : Queue → Queue) : (s.updQueue q f).sec = s.sec := rfl
@[simp] theorem updQueue_power (q : QId) (f : Queue → Queue) : (s.updQueue q f).power = s.power := rfl
@[simp] theorem updQueue_health (q : QId) (f : Queue → Queue) : (s.updQueue q f).health = s.health := rfl
@[simp] theorem updQueue_mgmt (q : QId) (f : Queue → Queue) : (s.updQueue q f).mgmt = s.mgmt := rfl
@[simp] theorem updQueue_test (q : QId) (f : Queue → Queue) : (s.updQueue q f).test = s.test := rfl
@[simp] theorem updQueue_commitSeq (q : QId) (f : Queue → Queue) : (s.updQueue q f).commitSeq = s.commitSeq := rfl
@[simp] theorem updQueue_now (q : QId) (f : Queue → Queue) : (s.updQueue q f).now = s.now := rfl
@[simp] theorem updQueue_freeCount (q : QId) (f : Queue → Queue) : (s.updQueue q f).freeCount = s.freeCount := rfl
@[simp] theorem updQueue_out (q : QId) (f : Queue → Queue) : (s.updQueue q f).out = s.out := rfl

/-! ### updOutst -/

@[simp] theorem updOutst_pending (id : CmdId) (f : Outst → Outst) : (s.updOutst id f).pending = s.pending := rfl
@[simp] theorem updOutst_variant (id : CmdId) (f : Outst → Outst) : (s.updOutst id f).variant = s.variant := rfl
@[simp] theorem updOutst_cfg (id : CmdId) (f : Outst → Outst) : (s.updOutst id f).cfg = s.cfg := rfl
@[simp] theorem updOutst_host (id : CmdId) (f : Outst → Outst) : (s.updOutst id f).host = { s.host with outst := mapIf (fun o => o.id = id) f s.host.outst } := rfl
@[simp] theorem updOutst_ctxs (id : CmdId) (f : Outst → Outst) : (s.updOutst id f).ctxs = s.ctxs := rfl
@[simp] theorem updOutst_parts (id : CmdId) (f : Outst → Outst) : (s.updOutst id f).parts = s.parts := rfl
@[simp] theorem updOutst_arbiters (id : CmdId) (f : Outst → Outst) : (s.updOutst id f).arbiters = s.arbiters := rfl
@[simp] theorem updOutst_device (id : CmdId) (f : Outst → Outst) : (s.updOutst id f).device = s.device := rfl
@[simp] theorem updOutst_sems (id : CmdId) (f : Outst → Outst) : (s.updOutst id f).sems = s.sems := rfl
@[simp] theorem updOutst_mem (id : CmdId) (f : Outst → Outst) : (s.updOutst id f).mem = s.mem := rfl
@[simp] theorem updOutst_allocs (id : CmdId) (f : Outst → Outst) : (s.updOutst id f).allocs = s.allocs := rfl
@[simp] theorem updOutst_dcache (id : CmdId) (f : Outst → Outst) : (s.updOutst id f).dcache = s.dcache := rfl
@[simp] theorem updOutst_tensors (id : CmdId) (f : Outst → Outst) : (s.updOutst id f).tensors = s.tensors := rfl
@[simp] theorem updOutst_bindCount (id : CmdId) (f : Outst → Outst) : (s.updOutst id f).bindCount = s.bindCount := rfl
@[simp] theorem updOutst_reuse (id : CmdId) (f : Outst → Outst) : (s.updOutst id f).reuse = s.reuse := rfl
@[simp] theorem updOutst_progs (id : CmdId) (f : Outst → Outst) : (s.updOutst id f).progs = s.progs := rfl
@[simp] theorem updOutst_models (id : CmdId) (f : Outst → Outst) : (s.updOutst id f).models = s.models := rfl
@[simp] theorem updOutst_accords (id : CmdId) (f : Outst → Outst) : (s.updOutst id f).accords = s.accords := rfl
@[simp] theorem updOutst_invocations (id : CmdId) (f : Outst → Outst) : (s.updOutst id f).invocations = s.invocations := rfl
@[simp] theorem updOutst_bindings (id : CmdId) (f : Outst → Outst) : (s.updOutst id f).bindings = s.bindings := rfl
@[simp] theorem updOutst_runs (id : CmdId) (f : Outst → Outst) : (s.updOutst id f).runs = s.runs := rfl
@[simp] theorem updOutst_cores (id : CmdId) (f : Outst → Outst) : (s.updOutst id f).cores = s.cores := rfl
@[simp] theorem updOutst_events (id : CmdId) (f : Outst → Outst) : (s.updOutst id f).events = s.events := rfl
@[simp] theorem updOutst_tpDirty (id : CmdId) (f : Outst → Outst) : (s.updOutst id f).tpDirty = s.tpDirty := rfl
@[simp] theorem updOutst_tpOwner (id : CmdId) (f : Outst → Outst) : (s.updOutst id f).tpOwner = s.tpOwner := rfl
@[simp] theorem updOutst_indexes (id : CmdId) (f : Outst → Outst) : (s.updOutst id f).indexes = s.indexes := rfl
@[simp] theorem updOutst_queries (id : CmdId) (f : Outst → Outst) : (s.updOutst id f).queries = s.queries := rfl
@[simp] theorem updOutst_flash (id : CmdId) (f : Outst → Outst) : (s.updOutst id f).flash = s.flash := rfl
@[simp] theorem updOutst_fabric (id : CmdId) (f : Outst → Outst) : (s.updOutst id f).fabric = s.fabric := rfl
@[simp] theorem updOutst_integ (id : CmdId) (f : Outst → Outst) : (s.updOutst id f).integ = s.integ := rfl
@[simp] theorem updOutst_cfl (id : CmdId) (f : Outst → Outst) : (s.updOutst id f).cfl = s.cfl := rfl
@[simp] theorem updOutst_sec (id : CmdId) (f : Outst → Outst) : (s.updOutst id f).sec = s.sec := rfl
@[simp] theorem updOutst_power (id : CmdId) (f : Outst → Outst) : (s.updOutst id f).power = s.power := rfl
@[simp] theorem updOutst_health (id : CmdId) (f : Outst → Outst) : (s.updOutst id f).health = s.health := rfl
@[simp] theorem updOutst_mgmt (id : CmdId) (f : Outst → Outst) : (s.updOutst id f).mgmt = s.mgmt := rfl
@[simp] theorem updOutst_test (id : CmdId) (f : Outst → Outst) : (s.updOutst id f).test = s.test := rfl
@[simp] theorem updOutst_commitSeq (id : CmdId) (f : Outst → Outst) : (s.updOutst id f).commitSeq = s.commitSeq := rfl
@[simp] theorem updOutst_now (id : CmdId) (f : Outst → Outst) : (s.updOutst id f).now = s.now := rfl
@[simp] theorem updOutst_freeCount (id : CmdId) (f : Outst → Outst) : (s.updOutst id f).freeCount = s.freeCount := rfl
@[simp] theorem updOutst_out (id : CmdId) (f : Outst → Outst) : (s.updOutst id f).out = s.out := rfl

/-! ### markRunning -/

@[simp] theorem markRunning_pending (id : CmdId) : (s.markRunning id).pending = s.pending := rfl
@[simp] theorem markRunning_variant (id : CmdId) : (s.markRunning id).variant = s.variant := rfl
@[simp] theorem markRunning_cfg (id : CmdId) : (s.markRunning id).cfg = s.cfg := rfl
@[simp] theorem markRunning_host (id : CmdId) : (s.markRunning id).host = { s.host with outst := mapIf (fun o => o.id = id) (fun o => { o with phase := .running }) s.host.outst } := rfl
@[simp] theorem markRunning_ctxs (id : CmdId) : (s.markRunning id).ctxs = s.ctxs := rfl
@[simp] theorem markRunning_parts (id : CmdId) : (s.markRunning id).parts = s.parts := rfl
@[simp] theorem markRunning_arbiters (id : CmdId) : (s.markRunning id).arbiters = s.arbiters := rfl
@[simp] theorem markRunning_device (id : CmdId) : (s.markRunning id).device = s.device := rfl
@[simp] theorem markRunning_sems (id : CmdId) : (s.markRunning id).sems = s.sems := rfl
@[simp] theorem markRunning_mem (id : CmdId) : (s.markRunning id).mem = s.mem := rfl
@[simp] theorem markRunning_allocs (id : CmdId) : (s.markRunning id).allocs = s.allocs := rfl
@[simp] theorem markRunning_dcache (id : CmdId) : (s.markRunning id).dcache = s.dcache := rfl
@[simp] theorem markRunning_tensors (id : CmdId) : (s.markRunning id).tensors = s.tensors := rfl
@[simp] theorem markRunning_bindCount (id : CmdId) : (s.markRunning id).bindCount = s.bindCount := rfl
@[simp] theorem markRunning_reuse (id : CmdId) : (s.markRunning id).reuse = s.reuse := rfl
@[simp] theorem markRunning_progs (id : CmdId) : (s.markRunning id).progs = s.progs := rfl
@[simp] theorem markRunning_models (id : CmdId) : (s.markRunning id).models = s.models := rfl
@[simp] theorem markRunning_accords (id : CmdId) : (s.markRunning id).accords = s.accords := rfl
@[simp] theorem markRunning_invocations (id : CmdId) : (s.markRunning id).invocations = s.invocations := rfl
@[simp] theorem markRunning_bindings (id : CmdId) : (s.markRunning id).bindings = s.bindings := rfl
@[simp] theorem markRunning_runs (id : CmdId) : (s.markRunning id).runs = s.runs := rfl
@[simp] theorem markRunning_cores (id : CmdId) : (s.markRunning id).cores = s.cores := rfl
@[simp] theorem markRunning_events (id : CmdId) : (s.markRunning id).events = s.events := rfl
@[simp] theorem markRunning_tpDirty (id : CmdId) : (s.markRunning id).tpDirty = s.tpDirty := rfl
@[simp] theorem markRunning_tpOwner (id : CmdId) : (s.markRunning id).tpOwner = s.tpOwner := rfl
@[simp] theorem markRunning_indexes (id : CmdId) : (s.markRunning id).indexes = s.indexes := rfl
@[simp] theorem markRunning_queries (id : CmdId) : (s.markRunning id).queries = s.queries := rfl
@[simp] theorem markRunning_flash (id : CmdId) : (s.markRunning id).flash = s.flash := rfl
@[simp] theorem markRunning_fabric (id : CmdId) : (s.markRunning id).fabric = s.fabric := rfl
@[simp] theorem markRunning_integ (id : CmdId) : (s.markRunning id).integ = s.integ := rfl
@[simp] theorem markRunning_cfl (id : CmdId) : (s.markRunning id).cfl = s.cfl := rfl
@[simp] theorem markRunning_sec (id : CmdId) : (s.markRunning id).sec = s.sec := rfl
@[simp] theorem markRunning_power (id : CmdId) : (s.markRunning id).power = s.power := rfl
@[simp] theorem markRunning_health (id : CmdId) : (s.markRunning id).health = s.health := rfl
@[simp] theorem markRunning_mgmt (id : CmdId) : (s.markRunning id).mgmt = s.mgmt := rfl
@[simp] theorem markRunning_test (id : CmdId) : (s.markRunning id).test = s.test := rfl
@[simp] theorem markRunning_commitSeq (id : CmdId) : (s.markRunning id).commitSeq = s.commitSeq := rfl
@[simp] theorem markRunning_now (id : CmdId) : (s.markRunning id).now = s.now := rfl
@[simp] theorem markRunning_freeCount (id : CmdId) : (s.markRunning id).freeCount = s.freeCount := rfl
@[simp] theorem markRunning_out (id : CmdId) : (s.markRunning id).out = s.out := rfl

/-! ### hostWr -/

@[simp] theorem hostWr_pending (addr : Nat) (bs : Bytes) : (s.hostWr addr bs).pending = s.pending := rfl
@[simp] theorem hostWr_variant (addr : Nat) (bs : Bytes) : (s.hostWr addr bs).variant = s.variant := rfl
@[simp] theorem hostWr_cfg (addr : Nat) (bs : Bytes) : (s.hostWr addr bs).cfg = s.cfg := rfl
@[simp] theorem hostWr_host (addr : Nat) (bs : Bytes) : (s.hostWr addr bs).host = { s.host with mem := s.host.mem.writeN 0 addr bs } := rfl
@[simp] theorem hostWr_ctxs (addr : Nat) (bs : Bytes) : (s.hostWr addr bs).ctxs = s.ctxs := rfl
@[simp] theorem hostWr_parts (addr : Nat) (bs : Bytes) : (s.hostWr addr bs).parts = s.parts := rfl
@[simp] theorem hostWr_arbiters (addr : Nat) (bs : Bytes) : (s.hostWr addr bs).arbiters = s.arbiters := rfl
@[simp] theorem hostWr_device (addr : Nat) (bs : Bytes) : (s.hostWr addr bs).device = s.device := rfl
@[simp] theorem hostWr_sems (addr : Nat) (bs : Bytes) : (s.hostWr addr bs).sems = s.sems := rfl
@[simp] theorem hostWr_mem (addr : Nat) (bs : Bytes) : (s.hostWr addr bs).mem = s.mem := rfl
@[simp] theorem hostWr_allocs (addr : Nat) (bs : Bytes) : (s.hostWr addr bs).allocs = s.allocs := rfl
@[simp] theorem hostWr_dcache (addr : Nat) (bs : Bytes) : (s.hostWr addr bs).dcache = s.dcache := rfl
@[simp] theorem hostWr_tensors (addr : Nat) (bs : Bytes) : (s.hostWr addr bs).tensors = s.tensors := rfl
@[simp] theorem hostWr_bindCount (addr : Nat) (bs : Bytes) : (s.hostWr addr bs).bindCount = s.bindCount := rfl
@[simp] theorem hostWr_reuse (addr : Nat) (bs : Bytes) : (s.hostWr addr bs).reuse = s.reuse := rfl
@[simp] theorem hostWr_progs (addr : Nat) (bs : Bytes) : (s.hostWr addr bs).progs = s.progs := rfl
@[simp] theorem hostWr_models (addr : Nat) (bs : Bytes) : (s.hostWr addr bs).models = s.models := rfl
@[simp] theorem hostWr_accords (addr : Nat) (bs : Bytes) : (s.hostWr addr bs).accords = s.accords := rfl
@[simp] theorem hostWr_invocations (addr : Nat) (bs : Bytes) : (s.hostWr addr bs).invocations = s.invocations := rfl
@[simp] theorem hostWr_bindings (addr : Nat) (bs : Bytes) : (s.hostWr addr bs).bindings = s.bindings := rfl
@[simp] theorem hostWr_runs (addr : Nat) (bs : Bytes) : (s.hostWr addr bs).runs = s.runs := rfl
@[simp] theorem hostWr_cores (addr : Nat) (bs : Bytes) : (s.hostWr addr bs).cores = s.cores := rfl
@[simp] theorem hostWr_events (addr : Nat) (bs : Bytes) : (s.hostWr addr bs).events = s.events := rfl
@[simp] theorem hostWr_tpDirty (addr : Nat) (bs : Bytes) : (s.hostWr addr bs).tpDirty = s.tpDirty := rfl
@[simp] theorem hostWr_tpOwner (addr : Nat) (bs : Bytes) : (s.hostWr addr bs).tpOwner = s.tpOwner := rfl
@[simp] theorem hostWr_indexes (addr : Nat) (bs : Bytes) : (s.hostWr addr bs).indexes = s.indexes := rfl
@[simp] theorem hostWr_queries (addr : Nat) (bs : Bytes) : (s.hostWr addr bs).queries = s.queries := rfl
@[simp] theorem hostWr_flash (addr : Nat) (bs : Bytes) : (s.hostWr addr bs).flash = s.flash := rfl
@[simp] theorem hostWr_fabric (addr : Nat) (bs : Bytes) : (s.hostWr addr bs).fabric = s.fabric := rfl
@[simp] theorem hostWr_integ (addr : Nat) (bs : Bytes) : (s.hostWr addr bs).integ = s.integ := rfl
@[simp] theorem hostWr_cfl (addr : Nat) (bs : Bytes) : (s.hostWr addr bs).cfl = s.cfl := rfl
@[simp] theorem hostWr_sec (addr : Nat) (bs : Bytes) : (s.hostWr addr bs).sec = s.sec := rfl
@[simp] theorem hostWr_power (addr : Nat) (bs : Bytes) : (s.hostWr addr bs).power = s.power := rfl
@[simp] theorem hostWr_health (addr : Nat) (bs : Bytes) : (s.hostWr addr bs).health = s.health := rfl
@[simp] theorem hostWr_mgmt (addr : Nat) (bs : Bytes) : (s.hostWr addr bs).mgmt = s.mgmt := rfl
@[simp] theorem hostWr_test (addr : Nat) (bs : Bytes) : (s.hostWr addr bs).test = s.test := rfl
@[simp] theorem hostWr_commitSeq (addr : Nat) (bs : Bytes) : (s.hostWr addr bs).commitSeq = s.commitSeq := rfl
@[simp] theorem hostWr_now (addr : Nat) (bs : Bytes) : (s.hostWr addr bs).now = s.now := rfl
@[simp] theorem hostWr_freeCount (addr : Nat) (bs : Bytes) : (s.hostWr addr bs).freeCount = s.freeCount := rfl
@[simp] theorem hostWr_out (addr : Nat) (bs : Bytes) : (s.hostWr addr bs).out = s.out := rfl

/-! ### updPort -/

@[simp] theorem updPort_pending (p : Nat) (f : Port → Port) : (s.updPort p f).pending = s.pending := rfl
@[simp] theorem updPort_variant (p : Nat) (f : Port → Port) : (s.updPort p f).variant = s.variant := rfl
@[simp] theorem updPort_cfg (p : Nat) (f : Port → Port) : (s.updPort p f).cfg = s.cfg := rfl
@[simp] theorem updPort_host (p : Nat) (f : Port → Port) : (s.updPort p f).host = { s.host with ports := modifyAt f p s.host.ports } := rfl
@[simp] theorem updPort_ctxs (p : Nat) (f : Port → Port) : (s.updPort p f).ctxs = s.ctxs := rfl
@[simp] theorem updPort_parts (p : Nat) (f : Port → Port) : (s.updPort p f).parts = s.parts := rfl
@[simp] theorem updPort_arbiters (p : Nat) (f : Port → Port) : (s.updPort p f).arbiters = s.arbiters := rfl
@[simp] theorem updPort_device (p : Nat) (f : Port → Port) : (s.updPort p f).device = s.device := rfl
@[simp] theorem updPort_sems (p : Nat) (f : Port → Port) : (s.updPort p f).sems = s.sems := rfl
@[simp] theorem updPort_mem (p : Nat) (f : Port → Port) : (s.updPort p f).mem = s.mem := rfl
@[simp] theorem updPort_allocs (p : Nat) (f : Port → Port) : (s.updPort p f).allocs = s.allocs := rfl
@[simp] theorem updPort_dcache (p : Nat) (f : Port → Port) : (s.updPort p f).dcache = s.dcache := rfl
@[simp] theorem updPort_tensors (p : Nat) (f : Port → Port) : (s.updPort p f).tensors = s.tensors := rfl
@[simp] theorem updPort_bindCount (p : Nat) (f : Port → Port) : (s.updPort p f).bindCount = s.bindCount := rfl
@[simp] theorem updPort_reuse (p : Nat) (f : Port → Port) : (s.updPort p f).reuse = s.reuse := rfl
@[simp] theorem updPort_progs (p : Nat) (f : Port → Port) : (s.updPort p f).progs = s.progs := rfl
@[simp] theorem updPort_models (p : Nat) (f : Port → Port) : (s.updPort p f).models = s.models := rfl
@[simp] theorem updPort_accords (p : Nat) (f : Port → Port) : (s.updPort p f).accords = s.accords := rfl
@[simp] theorem updPort_invocations (p : Nat) (f : Port → Port) : (s.updPort p f).invocations = s.invocations := rfl
@[simp] theorem updPort_bindings (p : Nat) (f : Port → Port) : (s.updPort p f).bindings = s.bindings := rfl
@[simp] theorem updPort_runs (p : Nat) (f : Port → Port) : (s.updPort p f).runs = s.runs := rfl
@[simp] theorem updPort_cores (p : Nat) (f : Port → Port) : (s.updPort p f).cores = s.cores := rfl
@[simp] theorem updPort_events (p : Nat) (f : Port → Port) : (s.updPort p f).events = s.events := rfl
@[simp] theorem updPort_tpDirty (p : Nat) (f : Port → Port) : (s.updPort p f).tpDirty = s.tpDirty := rfl
@[simp] theorem updPort_tpOwner (p : Nat) (f : Port → Port) : (s.updPort p f).tpOwner = s.tpOwner := rfl
@[simp] theorem updPort_indexes (p : Nat) (f : Port → Port) : (s.updPort p f).indexes = s.indexes := rfl
@[simp] theorem updPort_queries (p : Nat) (f : Port → Port) : (s.updPort p f).queries = s.queries := rfl
@[simp] theorem updPort_flash (p : Nat) (f : Port → Port) : (s.updPort p f).flash = s.flash := rfl
@[simp] theorem updPort_fabric (p : Nat) (f : Port → Port) : (s.updPort p f).fabric = s.fabric := rfl
@[simp] theorem updPort_integ (p : Nat) (f : Port → Port) : (s.updPort p f).integ = s.integ := rfl
@[simp] theorem updPort_cfl (p : Nat) (f : Port → Port) : (s.updPort p f).cfl = s.cfl := rfl
@[simp] theorem updPort_sec (p : Nat) (f : Port → Port) : (s.updPort p f).sec = s.sec := rfl
@[simp] theorem updPort_power (p : Nat) (f : Port → Port) : (s.updPort p f).power = s.power := rfl
@[simp] theorem updPort_health (p : Nat) (f : Port → Port) : (s.updPort p f).health = s.health := rfl
@[simp] theorem updPort_mgmt (p : Nat) (f : Port → Port) : (s.updPort p f).mgmt = s.mgmt := rfl
@[simp] theorem updPort_test (p : Nat) (f : Port → Port) : (s.updPort p f).test = s.test := rfl
@[simp] theorem updPort_commitSeq (p : Nat) (f : Port → Port) : (s.updPort p f).commitSeq = s.commitSeq := rfl
@[simp] theorem updPort_now (p : Nat) (f : Port → Port) : (s.updPort p f).now = s.now := rfl
@[simp] theorem updPort_freeCount (p : Nat) (f : Port → Port) : (s.updPort p f).freeCount = s.freeCount := rfl
@[simp] theorem updPort_out (p : Nat) (f : Port → Port) : (s.updPort p f).out = s.out := rfl

/-! ### updCtx -/

@[simp] theorem updCtx_pending (p c : Nat) (f : Ctx → Ctx) : (s.updCtx p c f).pending = s.pending := rfl
@[simp] theorem updCtx_variant (p c : Nat) (f : Ctx → Ctx) : (s.updCtx p c f).variant = s.variant := rfl
@[simp] theorem updCtx_cfg (p c : Nat) (f : Ctx → Ctx) : (s.updCtx p c f).cfg = s.cfg := rfl
@[simp] theorem updCtx_host (p c : Nat) (f : Ctx → Ctx) : (s.updCtx p c f).host = s.host := rfl
@[simp] theorem updCtx_ctxs (p c : Nat) (f : Ctx → Ctx) : (s.updCtx p c f).ctxs = mapIf (fun x => x.part = p && x.num = c) f s.ctxs := rfl
@[simp] theorem updCtx_parts (p c : Nat) (f : Ctx → Ctx) : (s.updCtx p c f).parts = s.parts := rfl
@[simp] theorem updCtx_arbiters (p c : Nat) (f : Ctx → Ctx) : (s.updCtx p c f).arbiters = s.arbiters := rfl
@[simp] theorem updCtx_device (p c : Nat) (f : Ctx → Ctx) : (s.updCtx p c f).device = s.device := rfl
@[simp] theorem updCtx_sems (p c : Nat) (f : Ctx → Ctx) : (s.updCtx p c f).sems = s.sems := rfl
@[simp] theorem updCtx_mem (p c : Nat) (f : Ctx → Ctx) : (s.updCtx p c f).mem = s.mem := rfl
@[simp] theorem updCtx_allocs (p c : Nat) (f : Ctx → Ctx) : (s.updCtx p c f).allocs = s.allocs := rfl
@[simp] theorem updCtx_dcache (p c : Nat) (f : Ctx → Ctx) : (s.updCtx p c f).dcache = s.dcache := rfl
@[simp] theorem updCtx_tensors (p c : Nat) (f : Ctx → Ctx) : (s.updCtx p c f).tensors = s.tensors := rfl
@[simp] theorem updCtx_bindCount (p c : Nat) (f : Ctx → Ctx) : (s.updCtx p c f).bindCount = s.bindCount := rfl
@[simp] theorem updCtx_reuse (p c : Nat) (f : Ctx → Ctx) : (s.updCtx p c f).reuse = s.reuse := rfl
@[simp] theorem updCtx_progs (p c : Nat) (f : Ctx → Ctx) : (s.updCtx p c f).progs = s.progs := rfl
@[simp] theorem updCtx_models (p c : Nat) (f : Ctx → Ctx) : (s.updCtx p c f).models = s.models := rfl
@[simp] theorem updCtx_accords (p c : Nat) (f : Ctx → Ctx) : (s.updCtx p c f).accords = s.accords := rfl
@[simp] theorem updCtx_invocations (p c : Nat) (f : Ctx → Ctx) : (s.updCtx p c f).invocations = s.invocations := rfl
@[simp] theorem updCtx_bindings (p c : Nat) (f : Ctx → Ctx) : (s.updCtx p c f).bindings = s.bindings := rfl
@[simp] theorem updCtx_runs (p c : Nat) (f : Ctx → Ctx) : (s.updCtx p c f).runs = s.runs := rfl
@[simp] theorem updCtx_cores (p c : Nat) (f : Ctx → Ctx) : (s.updCtx p c f).cores = s.cores := rfl
@[simp] theorem updCtx_events (p c : Nat) (f : Ctx → Ctx) : (s.updCtx p c f).events = s.events := rfl
@[simp] theorem updCtx_tpDirty (p c : Nat) (f : Ctx → Ctx) : (s.updCtx p c f).tpDirty = s.tpDirty := rfl
@[simp] theorem updCtx_tpOwner (p c : Nat) (f : Ctx → Ctx) : (s.updCtx p c f).tpOwner = s.tpOwner := rfl
@[simp] theorem updCtx_indexes (p c : Nat) (f : Ctx → Ctx) : (s.updCtx p c f).indexes = s.indexes := rfl
@[simp] theorem updCtx_queries (p c : Nat) (f : Ctx → Ctx) : (s.updCtx p c f).queries = s.queries := rfl
@[simp] theorem updCtx_flash (p c : Nat) (f : Ctx → Ctx) : (s.updCtx p c f).flash = s.flash := rfl
@[simp] theorem updCtx_fabric (p c : Nat) (f : Ctx → Ctx) : (s.updCtx p c f).fabric = s.fabric := rfl
@[simp] theorem updCtx_integ (p c : Nat) (f : Ctx → Ctx) : (s.updCtx p c f).integ = s.integ := rfl
@[simp] theorem updCtx_cfl (p c : Nat) (f : Ctx → Ctx) : (s.updCtx p c f).cfl = s.cfl := rfl
@[simp] theorem updCtx_sec (p c : Nat) (f : Ctx → Ctx) : (s.updCtx p c f).sec = s.sec := rfl
@[simp] theorem updCtx_power (p c : Nat) (f : Ctx → Ctx) : (s.updCtx p c f).power = s.power := rfl
@[simp] theorem updCtx_health (p c : Nat) (f : Ctx → Ctx) : (s.updCtx p c f).health = s.health := rfl
@[simp] theorem updCtx_mgmt (p c : Nat) (f : Ctx → Ctx) : (s.updCtx p c f).mgmt = s.mgmt := rfl
@[simp] theorem updCtx_test (p c : Nat) (f : Ctx → Ctx) : (s.updCtx p c f).test = s.test := rfl
@[simp] theorem updCtx_commitSeq (p c : Nat) (f : Ctx → Ctx) : (s.updCtx p c f).commitSeq = s.commitSeq := rfl
@[simp] theorem updCtx_now (p c : Nat) (f : Ctx → Ctx) : (s.updCtx p c f).now = s.now := rfl
@[simp] theorem updCtx_freeCount (p c : Nat) (f : Ctx → Ctx) : (s.updCtx p c f).freeCount = s.freeCount := rfl
@[simp] theorem updCtx_out (p c : Nat) (f : Ctx → Ctx) : (s.updCtx p c f).out = s.out := rfl

/-! ### updPart -/

@[simp] theorem updPart_pending (p : Nat) (f : PartRt → PartRt) : (s.updPart p f).pending = s.pending := rfl
@[simp] theorem updPart_variant (p : Nat) (f : PartRt → PartRt) : (s.updPart p f).variant = s.variant := rfl
@[simp] theorem updPart_cfg (p : Nat) (f : PartRt → PartRt) : (s.updPart p f).cfg = s.cfg := rfl
@[simp] theorem updPart_host (p : Nat) (f : PartRt → PartRt) : (s.updPart p f).host = s.host := rfl
@[simp] theorem updPart_ctxs (p : Nat) (f : PartRt → PartRt) : (s.updPart p f).ctxs = s.ctxs := rfl
@[simp] theorem updPart_parts (p : Nat) (f : PartRt → PartRt) : (s.updPart p f).parts = ainsert p (f (s.partRt p)) s.parts := rfl
@[simp] theorem updPart_arbiters (p : Nat) (f : PartRt → PartRt) : (s.updPart p f).arbiters = s.arbiters := rfl
@[simp] theorem updPart_device (p : Nat) (f : PartRt → PartRt) : (s.updPart p f).device = s.device := rfl
@[simp] theorem updPart_sems (p : Nat) (f : PartRt → PartRt) : (s.updPart p f).sems = s.sems := rfl
@[simp] theorem updPart_mem (p : Nat) (f : PartRt → PartRt) : (s.updPart p f).mem = s.mem := rfl
@[simp] theorem updPart_allocs (p : Nat) (f : PartRt → PartRt) : (s.updPart p f).allocs = s.allocs := rfl
@[simp] theorem updPart_dcache (p : Nat) (f : PartRt → PartRt) : (s.updPart p f).dcache = s.dcache := rfl
@[simp] theorem updPart_tensors (p : Nat) (f : PartRt → PartRt) : (s.updPart p f).tensors = s.tensors := rfl
@[simp] theorem updPart_bindCount (p : Nat) (f : PartRt → PartRt) : (s.updPart p f).bindCount = s.bindCount := rfl
@[simp] theorem updPart_reuse (p : Nat) (f : PartRt → PartRt) : (s.updPart p f).reuse = s.reuse := rfl
@[simp] theorem updPart_progs (p : Nat) (f : PartRt → PartRt) : (s.updPart p f).progs = s.progs := rfl
@[simp] theorem updPart_models (p : Nat) (f : PartRt → PartRt) : (s.updPart p f).models = s.models := rfl
@[simp] theorem updPart_accords (p : Nat) (f : PartRt → PartRt) : (s.updPart p f).accords = s.accords := rfl
@[simp] theorem updPart_invocations (p : Nat) (f : PartRt → PartRt) : (s.updPart p f).invocations = s.invocations := rfl
@[simp] theorem updPart_bindings (p : Nat) (f : PartRt → PartRt) : (s.updPart p f).bindings = s.bindings := rfl
@[simp] theorem updPart_runs (p : Nat) (f : PartRt → PartRt) : (s.updPart p f).runs = s.runs := rfl
@[simp] theorem updPart_cores (p : Nat) (f : PartRt → PartRt) : (s.updPart p f).cores = s.cores := rfl
@[simp] theorem updPart_events (p : Nat) (f : PartRt → PartRt) : (s.updPart p f).events = s.events := rfl
@[simp] theorem updPart_tpDirty (p : Nat) (f : PartRt → PartRt) : (s.updPart p f).tpDirty = s.tpDirty := rfl
@[simp] theorem updPart_tpOwner (p : Nat) (f : PartRt → PartRt) : (s.updPart p f).tpOwner = s.tpOwner := rfl
@[simp] theorem updPart_indexes (p : Nat) (f : PartRt → PartRt) : (s.updPart p f).indexes = s.indexes := rfl
@[simp] theorem updPart_queries (p : Nat) (f : PartRt → PartRt) : (s.updPart p f).queries = s.queries := rfl
@[simp] theorem updPart_flash (p : Nat) (f : PartRt → PartRt) : (s.updPart p f).flash = s.flash := rfl
@[simp] theorem updPart_fabric (p : Nat) (f : PartRt → PartRt) : (s.updPart p f).fabric = s.fabric := rfl
@[simp] theorem updPart_integ (p : Nat) (f : PartRt → PartRt) : (s.updPart p f).integ = s.integ := rfl
@[simp] theorem updPart_cfl (p : Nat) (f : PartRt → PartRt) : (s.updPart p f).cfl = s.cfl := rfl
@[simp] theorem updPart_sec (p : Nat) (f : PartRt → PartRt) : (s.updPart p f).sec = s.sec := rfl
@[simp] theorem updPart_power (p : Nat) (f : PartRt → PartRt) : (s.updPart p f).power = s.power := rfl
@[simp] theorem updPart_health (p : Nat) (f : PartRt → PartRt) : (s.updPart p f).health = s.health := rfl
@[simp] theorem updPart_mgmt (p : Nat) (f : PartRt → PartRt) : (s.updPart p f).mgmt = s.mgmt := rfl
@[simp] theorem updPart_test (p : Nat) (f : PartRt → PartRt) : (s.updPart p f).test = s.test := rfl
@[simp] theorem updPart_commitSeq (p : Nat) (f : PartRt → PartRt) : (s.updPart p f).commitSeq = s.commitSeq := rfl
@[simp] theorem updPart_now (p : Nat) (f : PartRt → PartRt) : (s.updPart p f).now = s.now := rfl
@[simp] theorem updPart_freeCount (p : Nat) (f : PartRt → PartRt) : (s.updPart p f).freeCount = s.freeCount := rfl
@[simp] theorem updPart_out (p : Nat) (f : PartRt → PartRt) : (s.updPart p f).out = s.out := rfl

/-! ### updSem -/

@[simp] theorem updSem_pending (h : Nat) (f : Sem → Sem) : (s.updSem h f).pending = s.pending := rfl
@[simp] theorem updSem_variant (h : Nat) (f : Sem → Sem) : (s.updSem h f).variant = s.variant := rfl
@[simp] theorem updSem_cfg (h : Nat) (f : Sem → Sem) : (s.updSem h f).cfg = s.cfg := rfl
@[simp] theorem updSem_host (h : Nat) (f : Sem → Sem) : (s.updSem h f).host = s.host := rfl
@[simp] theorem updSem_ctxs (h : Nat) (f : Sem → Sem) : (s.updSem h f).ctxs = s.ctxs := rfl
@[simp] theorem updSem_parts (h : Nat) (f : Sem → Sem) : (s.updSem h f).parts = s.parts := rfl
@[simp] theorem updSem_arbiters (h : Nat) (f : Sem → Sem) : (s.updSem h f).arbiters = s.arbiters := rfl
@[simp] theorem updSem_device (h : Nat) (f : Sem → Sem) : (s.updSem h f).device = s.device := rfl
@[simp] theorem updSem_sems (h : Nat) (f : Sem → Sem) : (s.updSem h f).sems = mapIf (fun x => x.handle = h) f s.sems := rfl
@[simp] theorem updSem_mem (h : Nat) (f : Sem → Sem) : (s.updSem h f).mem = s.mem := rfl
@[simp] theorem updSem_allocs (h : Nat) (f : Sem → Sem) : (s.updSem h f).allocs = s.allocs := rfl
@[simp] theorem updSem_dcache (h : Nat) (f : Sem → Sem) : (s.updSem h f).dcache = s.dcache := rfl
@[simp] theorem updSem_tensors (h : Nat) (f : Sem → Sem) : (s.updSem h f).tensors = s.tensors := rfl
@[simp] theorem updSem_bindCount (h : Nat) (f : Sem → Sem) : (s.updSem h f).bindCount = s.bindCount := rfl
@[simp] theorem updSem_reuse (h : Nat) (f : Sem → Sem) : (s.updSem h f).reuse = s.reuse := rfl
@[simp] theorem updSem_progs (h : Nat) (f : Sem → Sem) : (s.updSem h f).progs = s.progs := rfl
@[simp] theorem updSem_models (h : Nat) (f : Sem → Sem) : (s.updSem h f).models = s.models := rfl
@[simp] theorem updSem_accords (h : Nat) (f : Sem → Sem) : (s.updSem h f).accords = s.accords := rfl
@[simp] theorem updSem_invocations (h : Nat) (f : Sem → Sem) : (s.updSem h f).invocations = s.invocations := rfl
@[simp] theorem updSem_bindings (h : Nat) (f : Sem → Sem) : (s.updSem h f).bindings = s.bindings := rfl
@[simp] theorem updSem_runs (h : Nat) (f : Sem → Sem) : (s.updSem h f).runs = s.runs := rfl
@[simp] theorem updSem_cores (h : Nat) (f : Sem → Sem) : (s.updSem h f).cores = s.cores := rfl
@[simp] theorem updSem_events (h : Nat) (f : Sem → Sem) : (s.updSem h f).events = s.events := rfl
@[simp] theorem updSem_tpDirty (h : Nat) (f : Sem → Sem) : (s.updSem h f).tpDirty = s.tpDirty := rfl
@[simp] theorem updSem_tpOwner (h : Nat) (f : Sem → Sem) : (s.updSem h f).tpOwner = s.tpOwner := rfl
@[simp] theorem updSem_indexes (h : Nat) (f : Sem → Sem) : (s.updSem h f).indexes = s.indexes := rfl
@[simp] theorem updSem_queries (h : Nat) (f : Sem → Sem) : (s.updSem h f).queries = s.queries := rfl
@[simp] theorem updSem_flash (h : Nat) (f : Sem → Sem) : (s.updSem h f).flash = s.flash := rfl
@[simp] theorem updSem_fabric (h : Nat) (f : Sem → Sem) : (s.updSem h f).fabric = s.fabric := rfl
@[simp] theorem updSem_integ (h : Nat) (f : Sem → Sem) : (s.updSem h f).integ = s.integ := rfl
@[simp] theorem updSem_cfl (h : Nat) (f : Sem → Sem) : (s.updSem h f).cfl = s.cfl := rfl
@[simp] theorem updSem_sec (h : Nat) (f : Sem → Sem) : (s.updSem h f).sec = s.sec := rfl
@[simp] theorem updSem_power (h : Nat) (f : Sem → Sem) : (s.updSem h f).power = s.power := rfl
@[simp] theorem updSem_health (h : Nat) (f : Sem → Sem) : (s.updSem h f).health = s.health := rfl
@[simp] theorem updSem_mgmt (h : Nat) (f : Sem → Sem) : (s.updSem h f).mgmt = s.mgmt := rfl
@[simp] theorem updSem_test (h : Nat) (f : Sem → Sem) : (s.updSem h f).test = s.test := rfl
@[simp] theorem updSem_commitSeq (h : Nat) (f : Sem → Sem) : (s.updSem h f).commitSeq = s.commitSeq := rfl
@[simp] theorem updSem_now (h : Nat) (f : Sem → Sem) : (s.updSem h f).now = s.now := rfl
@[simp] theorem updSem_freeCount (h : Nat) (f : Sem → Sem) : (s.updSem h f).freeCount = s.freeCount := rfl
@[simp] theorem updSem_out (h : Nat) (f : Sem → Sem) : (s.updSem h f).out = s.out := rfl

/-! ### setCore -/

@[simp] theorem setCore_pending (c : Nat) (v : Core) : (s.setCore c v).pending = s.pending := rfl
@[simp] theorem setCore_variant (c : Nat) (v : Core) : (s.setCore c v).variant = s.variant := rfl
@[simp] theorem setCore_cfg (c : Nat) (v : Core) : (s.setCore c v).cfg = s.cfg := rfl
@[simp] theorem setCore_host (c : Nat) (v : Core) : (s.setCore c v).host = s.host := rfl
@[simp] theorem setCore_ctxs (c : Nat) (v : Core) : (s.setCore c v).ctxs = s.ctxs := rfl
@[simp] theorem setCore_parts (c : Nat) (v : Core) : (s.setCore c v).parts = s.parts := rfl
@[simp] theorem setCore_arbiters (c : Nat) (v : Core) : (s.setCore c v).arbiters = s.arbiters := rfl
@[simp] theorem setCore_device (c : Nat) (v : Core) : (s.setCore c v).device = s.device := rfl
@[simp] theorem setCore_sems (c : Nat) (v : Core) : (s.setCore c v).sems = s.sems := rfl
@[simp] theorem setCore_mem (c : Nat) (v : Core) : (s.setCore c v).mem = s.mem := rfl
@[simp] theorem setCore_allocs (c : Nat) (v : Core) : (s.setCore c v).allocs = s.allocs := rfl
@[simp] theorem setCore_dcache (c : Nat) (v : Core) : (s.setCore c v).dcache = s.dcache := rfl
@[simp] theorem setCore_tensors (c : Nat) (v : Core) : (s.setCore c v).tensors = s.tensors := rfl
@[simp] theorem setCore_bindCount (c : Nat) (v : Core) : (s.setCore c v).bindCount = s.bindCount := rfl
@[simp] theorem setCore_reuse (c : Nat) (v : Core) : (s.setCore c v).reuse = s.reuse := rfl
@[simp] theorem setCore_progs (c : Nat) (v : Core) : (s.setCore c v).progs = s.progs := rfl
@[simp] theorem setCore_models (c : Nat) (v : Core) : (s.setCore c v).models = s.models := rfl
@[simp] theorem setCore_accords (c : Nat) (v : Core) : (s.setCore c v).accords = s.accords := rfl
@[simp] theorem setCore_invocations (c : Nat) (v : Core) : (s.setCore c v).invocations = s.invocations := rfl
@[simp] theorem setCore_bindings (c : Nat) (v : Core) : (s.setCore c v).bindings = s.bindings := rfl
@[simp] theorem setCore_runs (c : Nat) (v : Core) : (s.setCore c v).runs = s.runs := rfl
@[simp] theorem setCore_cores (c : Nat) (v : Core) : (s.setCore c v).cores = ainsert c v s.cores := rfl
@[simp] theorem setCore_events (c : Nat) (v : Core) : (s.setCore c v).events = s.events := rfl
@[simp] theorem setCore_tpDirty (c : Nat) (v : Core) : (s.setCore c v).tpDirty = s.tpDirty := rfl
@[simp] theorem setCore_tpOwner (c : Nat) (v : Core) : (s.setCore c v).tpOwner = s.tpOwner := rfl
@[simp] theorem setCore_indexes (c : Nat) (v : Core) : (s.setCore c v).indexes = s.indexes := rfl
@[simp] theorem setCore_queries (c : Nat) (v : Core) : (s.setCore c v).queries = s.queries := rfl
@[simp] theorem setCore_flash (c : Nat) (v : Core) : (s.setCore c v).flash = s.flash := rfl
@[simp] theorem setCore_fabric (c : Nat) (v : Core) : (s.setCore c v).fabric = s.fabric := rfl
@[simp] theorem setCore_integ (c : Nat) (v : Core) : (s.setCore c v).integ = s.integ := rfl
@[simp] theorem setCore_cfl (c : Nat) (v : Core) : (s.setCore c v).cfl = s.cfl := rfl
@[simp] theorem setCore_sec (c : Nat) (v : Core) : (s.setCore c v).sec = s.sec := rfl
@[simp] theorem setCore_power (c : Nat) (v : Core) : (s.setCore c v).power = s.power := rfl
@[simp] theorem setCore_health (c : Nat) (v : Core) : (s.setCore c v).health = s.health := rfl
@[simp] theorem setCore_mgmt (c : Nat) (v : Core) : (s.setCore c v).mgmt = s.mgmt := rfl
@[simp] theorem setCore_test (c : Nat) (v : Core) : (s.setCore c v).test = s.test := rfl
@[simp] theorem setCore_commitSeq (c : Nat) (v : Core) : (s.setCore c v).commitSeq = s.commitSeq := rfl
@[simp] theorem setCore_now (c : Nat) (v : Core) : (s.setCore c v).now = s.now := rfl
@[simp] theorem setCore_freeCount (c : Nat) (v : Core) : (s.setCore c v).freeCount = s.freeCount := rfl
@[simp] theorem setCore_out (c : Nat) (v : Core) : (s.setCore c v).out = s.out := rfl

/-! ### wr -/

@[simp] theorem wr_pending (addr : Nat) (bs : Bytes) : (s.wr addr bs).pending = s.pending := rfl
@[simp] theorem wr_variant (addr : Nat) (bs : Bytes) : (s.wr addr bs).variant = s.variant := rfl
@[simp] theorem wr_cfg (addr : Nat) (bs : Bytes) : (s.wr addr bs).cfg = s.cfg := rfl
@[simp] theorem wr_host (addr : Nat) (bs : Bytes) : (s.wr addr bs).host = s.host := rfl
@[simp] theorem wr_ctxs (addr : Nat) (bs : Bytes) : (s.wr addr bs).ctxs = s.ctxs := rfl
@[simp] theorem wr_parts (addr : Nat) (bs : Bytes) : (s.wr addr bs).parts = s.parts := rfl
@[simp] theorem wr_arbiters (addr : Nat) (bs : Bytes) : (s.wr addr bs).arbiters = s.arbiters := rfl
@[simp] theorem wr_device (addr : Nat) (bs : Bytes) : (s.wr addr bs).device = s.device := rfl
@[simp] theorem wr_sems (addr : Nat) (bs : Bytes) : (s.wr addr bs).sems = s.sems := rfl
@[simp] theorem wr_mem (addr : Nat) (bs : Bytes) : (s.wr addr bs).mem = s.mem.writeN 0 addr bs := rfl
@[simp] theorem wr_allocs (addr : Nat) (bs : Bytes) : (s.wr addr bs).allocs = s.allocs := rfl
@[simp] theorem wr_dcache (addr : Nat) (bs : Bytes) : (s.wr addr bs).dcache = s.dcache := rfl
@[simp] theorem wr_tensors (addr : Nat) (bs : Bytes) : (s.wr addr bs).tensors = s.tensors := rfl
@[simp] theorem wr_bindCount (addr : Nat) (bs : Bytes) : (s.wr addr bs).bindCount = s.bindCount := rfl
@[simp] theorem wr_reuse (addr : Nat) (bs : Bytes) : (s.wr addr bs).reuse = s.reuse := rfl
@[simp] theorem wr_progs (addr : Nat) (bs : Bytes) : (s.wr addr bs).progs = s.progs := rfl
@[simp] theorem wr_models (addr : Nat) (bs : Bytes) : (s.wr addr bs).models = s.models := rfl
@[simp] theorem wr_accords (addr : Nat) (bs : Bytes) : (s.wr addr bs).accords = s.accords := rfl
@[simp] theorem wr_invocations (addr : Nat) (bs : Bytes) : (s.wr addr bs).invocations = s.invocations := rfl
@[simp] theorem wr_bindings (addr : Nat) (bs : Bytes) : (s.wr addr bs).bindings = s.bindings := rfl
@[simp] theorem wr_runs (addr : Nat) (bs : Bytes) : (s.wr addr bs).runs = s.runs := rfl
@[simp] theorem wr_cores (addr : Nat) (bs : Bytes) : (s.wr addr bs).cores = s.cores := rfl
@[simp] theorem wr_events (addr : Nat) (bs : Bytes) : (s.wr addr bs).events = s.events := rfl
@[simp] theorem wr_tpDirty (addr : Nat) (bs : Bytes) : (s.wr addr bs).tpDirty = s.tpDirty := rfl
@[simp] theorem wr_tpOwner (addr : Nat) (bs : Bytes) : (s.wr addr bs).tpOwner = s.tpOwner := rfl
@[simp] theorem wr_indexes (addr : Nat) (bs : Bytes) : (s.wr addr bs).indexes = s.indexes := rfl
@[simp] theorem wr_queries (addr : Nat) (bs : Bytes) : (s.wr addr bs).queries = s.queries := rfl
@[simp] theorem wr_flash (addr : Nat) (bs : Bytes) : (s.wr addr bs).flash = s.flash := rfl
@[simp] theorem wr_fabric (addr : Nat) (bs : Bytes) : (s.wr addr bs).fabric = s.fabric := rfl
@[simp] theorem wr_integ (addr : Nat) (bs : Bytes) : (s.wr addr bs).integ = s.integ := rfl
@[simp] theorem wr_cfl (addr : Nat) (bs : Bytes) : (s.wr addr bs).cfl = s.cfl := rfl
@[simp] theorem wr_sec (addr : Nat) (bs : Bytes) : (s.wr addr bs).sec = s.sec := rfl
@[simp] theorem wr_power (addr : Nat) (bs : Bytes) : (s.wr addr bs).power = s.power := rfl
@[simp] theorem wr_health (addr : Nat) (bs : Bytes) : (s.wr addr bs).health = s.health := rfl
@[simp] theorem wr_mgmt (addr : Nat) (bs : Bytes) : (s.wr addr bs).mgmt = s.mgmt := rfl
@[simp] theorem wr_test (addr : Nat) (bs : Bytes) : (s.wr addr bs).test = s.test := rfl
@[simp] theorem wr_commitSeq (addr : Nat) (bs : Bytes) : (s.wr addr bs).commitSeq = s.commitSeq := rfl
@[simp] theorem wr_now (addr : Nat) (bs : Bytes) : (s.wr addr bs).now = s.now := rfl
@[simp] theorem wr_freeCount (addr : Nat) (bs : Bytes) : (s.wr addr bs).freeCount = s.freeCount := rfl
@[simp] theorem wr_out (addr : Nat) (bs : Bytes) : (s.wr addr bs).out = s.out := rfl

/-! ### free -/

@[simp] theorem free_pending (base : Nat) : (s.free base).pending = s.pending := rfl
@[simp] theorem free_variant (base : Nat) : (s.free base).variant = s.variant := rfl
@[simp] theorem free_cfg (base : Nat) : (s.free base).cfg = s.cfg := rfl
@[simp] theorem free_host (base : Nat) : (s.free base).host = s.host := rfl
@[simp] theorem free_ctxs (base : Nat) : (s.free base).ctxs = s.ctxs := rfl
@[simp] theorem free_parts (base : Nat) : (s.free base).parts = s.parts := rfl
@[simp] theorem free_arbiters (base : Nat) : (s.free base).arbiters = s.arbiters := rfl
@[simp] theorem free_device (base : Nat) : (s.free base).device = s.device := rfl
@[simp] theorem free_sems (base : Nat) : (s.free base).sems = s.sems := rfl
@[simp] theorem free_mem (base : Nat) : (s.free base).mem = s.mem := rfl
@[simp] theorem free_allocs (base : Nat) : (s.free base).allocs = s.allocs.filter (fun a => a.base ≠ base) := rfl
@[simp] theorem free_dcache (base : Nat) : (s.free base).dcache = s.dcache := rfl
@[simp] theorem free_tensors (base : Nat) : (s.free base).tensors = s.tensors := rfl
@[simp] theorem free_bindCount (base : Nat) : (s.free base).bindCount = s.bindCount := rfl
@[simp] theorem free_reuse (base : Nat) : (s.free base).reuse = s.reuse := rfl
@[simp] theorem free_progs (base : Nat) : (s.free base).progs = s.progs := rfl
@[simp] theorem free_models (base : Nat) : (s.free base).models = s.models := rfl
@[simp] theorem free_accords (base : Nat) : (s.free base).accords = s.accords := rfl
@[simp] theorem free_invocations (base : Nat) : (s.free base).invocations = s.invocations := rfl
@[simp] theorem free_bindings (base : Nat) : (s.free base).bindings = s.bindings := rfl
@[simp] theorem free_runs (base : Nat) : (s.free base).runs = s.runs := rfl
@[simp] theorem free_cores (base : Nat) : (s.free base).cores = s.cores := rfl
@[simp] theorem free_events (base : Nat) : (s.free base).events = s.events := rfl
@[simp] theorem free_tpDirty (base : Nat) : (s.free base).tpDirty = s.tpDirty := rfl
@[simp] theorem free_tpOwner (base : Nat) : (s.free base).tpOwner = s.tpOwner := rfl
@[simp] theorem free_indexes (base : Nat) : (s.free base).indexes = s.indexes := rfl
@[simp] theorem free_queries (base : Nat) : (s.free base).queries = s.queries := rfl
@[simp] theorem free_flash (base : Nat) : (s.free base).flash = s.flash := rfl
@[simp] theorem free_fabric (base : Nat) : (s.free base).fabric = s.fabric := rfl
@[simp] theorem free_integ (base : Nat) : (s.free base).integ = s.integ := rfl
@[simp] theorem free_cfl (base : Nat) : (s.free base).cfl = s.cfl := rfl
@[simp] theorem free_sec (base : Nat) : (s.free base).sec = s.sec := rfl
@[simp] theorem free_power (base : Nat) : (s.free base).power = s.power := rfl
@[simp] theorem free_health (base : Nat) : (s.free base).health = s.health := rfl
@[simp] theorem free_mgmt (base : Nat) : (s.free base).mgmt = s.mgmt := rfl
@[simp] theorem free_test (base : Nat) : (s.free base).test = s.test := rfl
@[simp] theorem free_commitSeq (base : Nat) : (s.free base).commitSeq = s.commitSeq := rfl
@[simp] theorem free_now (base : Nat) : (s.free base).now = s.now := rfl
@[simp] theorem free_freeCount (base : Nat) : (s.free base).freeCount = s.freeCount := rfl
@[simp] theorem free_out (base : Nat) : (s.free base).out = s.out := rfl

/-! ### sweep -/

@[simp] theorem sweep_pending : s.sweep.pending = s.pending := rfl
@[simp] theorem sweep_variant : s.sweep.variant = s.variant := rfl
@[simp] theorem sweep_cfg : s.sweep.cfg = s.cfg := rfl
@[simp] theorem sweep_host : s.sweep.host = s.host := rfl
@[simp] theorem sweep_ctxs : s.sweep.ctxs = s.ctxs := rfl
@[simp] theorem sweep_parts : s.sweep.parts = s.parts := rfl
@[simp] theorem sweep_arbiters : s.sweep.arbiters = s.arbiters := rfl
@[simp] theorem sweep_device : s.sweep.device = s.device := rfl
@[simp] theorem sweep_sems : s.sweep.sems = s.sems := rfl
@[simp] theorem sweep_mem : s.sweep.mem = s.mem := rfl
@[simp] theorem sweep_allocs : s.sweep.allocs = s.allocs.filter (fun a => a.base ∈ s.liveBases) := rfl
@[simp] theorem sweep_dcache : s.sweep.dcache = s.dcache := rfl
@[simp] theorem sweep_tensors : s.sweep.tensors = s.tensors := rfl
@[simp] theorem sweep_bindCount : s.sweep.bindCount = s.bindCount := rfl
@[simp] theorem sweep_reuse : s.sweep.reuse = s.reuse := rfl
@[simp] theorem sweep_progs : s.sweep.progs = s.progs := rfl
@[simp] theorem sweep_models : s.sweep.models = s.models := rfl
@[simp] theorem sweep_accords : s.sweep.accords = s.accords := rfl
@[simp] theorem sweep_invocations : s.sweep.invocations = s.invocations := rfl
@[simp] theorem sweep_bindings : s.sweep.bindings = s.bindings := rfl
@[simp] theorem sweep_runs : s.sweep.runs = s.runs := rfl
@[simp] theorem sweep_cores : s.sweep.cores = s.cores := rfl
@[simp] theorem sweep_events : s.sweep.events = s.events := rfl
@[simp] theorem sweep_tpDirty : s.sweep.tpDirty = s.tpDirty := rfl
@[simp] theorem sweep_tpOwner : s.sweep.tpOwner = s.tpOwner := rfl
@[simp] theorem sweep_indexes : s.sweep.indexes = s.indexes := rfl
@[simp] theorem sweep_queries : s.sweep.queries = s.queries := rfl
@[simp] theorem sweep_flash : s.sweep.flash = s.flash := rfl
@[simp] theorem sweep_fabric : s.sweep.fabric = s.fabric := rfl
@[simp] theorem sweep_integ : s.sweep.integ = s.integ := rfl
@[simp] theorem sweep_cfl : s.sweep.cfl = s.cfl := rfl
@[simp] theorem sweep_sec : s.sweep.sec = s.sec := rfl
@[simp] theorem sweep_power : s.sweep.power = s.power := rfl
@[simp] theorem sweep_health : s.sweep.health = s.health := rfl
@[simp] theorem sweep_mgmt : s.sweep.mgmt = s.mgmt := rfl
@[simp] theorem sweep_test : s.sweep.test = s.test := rfl
@[simp] theorem sweep_commitSeq : s.sweep.commitSeq = s.commitSeq := rfl
@[simp] theorem sweep_now : s.sweep.now = s.now := rfl
@[simp] theorem sweep_freeCount : s.sweep.freeCount = s.freeCount := rfl
@[simp] theorem sweep_out : s.sweep.out = s.out := rfl

/-! ### updTensor -/

@[simp] theorem updTensor_pending (h : Nat) (f : Tensor → Tensor) : (s.updTensor h f).pending = s.pending := rfl
@[simp] theorem updTensor_variant (h : Nat) (f : Tensor → Tensor) : (s.updTensor h f).variant = s.variant := rfl
@[simp] theorem updTensor_cfg (h : Nat) (f : Tensor → Tensor) : (s.updTensor h f).cfg = s.cfg := rfl
@[simp] theorem updTensor_host (h : Nat) (f : Tensor → Tensor) : (s.updTensor h f).host = s.host := rfl
@[simp] theorem updTensor_ctxs (h : Nat) (f : Tensor → Tensor) : (s.updTensor h f).ctxs = s.ctxs := rfl
@[simp] theorem updTensor_parts (h : Nat) (f : Tensor → Tensor) : (s.updTensor h f).parts = s.parts := rfl
@[simp] theorem updTensor_arbiters (h : Nat) (f : Tensor → Tensor) : (s.updTensor h f).arbiters = s.arbiters := rfl
@[simp] theorem updTensor_device (h : Nat) (f : Tensor → Tensor) : (s.updTensor h f).device = s.device := rfl
@[simp] theorem updTensor_sems (h : Nat) (f : Tensor → Tensor) : (s.updTensor h f).sems = s.sems := rfl
@[simp] theorem updTensor_mem (h : Nat) (f : Tensor → Tensor) : (s.updTensor h f).mem = s.mem := rfl
@[simp] theorem updTensor_allocs (h : Nat) (f : Tensor → Tensor) : (s.updTensor h f).allocs = s.allocs := rfl
@[simp] theorem updTensor_dcache (h : Nat) (f : Tensor → Tensor) : (s.updTensor h f).dcache = s.dcache := rfl
@[simp] theorem updTensor_tensors (h : Nat) (f : Tensor → Tensor) : (s.updTensor h f).tensors = mapIf (fun t => t.desc.handle = h) f s.tensors := rfl
@[simp] theorem updTensor_bindCount (h : Nat) (f : Tensor → Tensor) : (s.updTensor h f).bindCount = s.bindCount := rfl
@[simp] theorem updTensor_reuse (h : Nat) (f : Tensor → Tensor) : (s.updTensor h f).reuse = s.reuse := rfl
@[simp] theorem updTensor_progs (h : Nat) (f : Tensor → Tensor) : (s.updTensor h f).progs = s.progs := rfl
@[simp] theorem updTensor_models (h : Nat) (f : Tensor → Tensor) : (s.updTensor h f).models = s.models := rfl
@[simp] theorem updTensor_accords (h : Nat) (f : Tensor → Tensor) : (s.updTensor h f).accords = s.accords := rfl
@[simp] theorem updTensor_invocations (h : Nat) (f : Tensor → Tensor) : (s.updTensor h f).invocations = s.invocations := rfl
@[simp] theorem updTensor_bindings (h : Nat) (f : Tensor → Tensor) : (s.updTensor h f).bindings = s.bindings := rfl
@[simp] theorem updTensor_runs (h : Nat) (f : Tensor → Tensor) : (s.updTensor h f).runs = s.runs := rfl
@[simp] theorem updTensor_cores (h : Nat) (f : Tensor → Tensor) : (s.updTensor h f).cores = s.cores := rfl
@[simp] theorem updTensor_events (h : Nat) (f : Tensor → Tensor) : (s.updTensor h f).events = s.events := rfl
@[simp] theorem updTensor_tpDirty (h : Nat) (f : Tensor → Tensor) : (s.updTensor h f).tpDirty = s.tpDirty := rfl
@[simp] theorem updTensor_tpOwner (h : Nat) (f : Tensor → Tensor) : (s.updTensor h f).tpOwner = s.tpOwner := rfl
@[simp] theorem updTensor_indexes (h : Nat) (f : Tensor → Tensor) : (s.updTensor h f).indexes = s.indexes := rfl
@[simp] theorem updTensor_queries (h : Nat) (f : Tensor → Tensor) : (s.updTensor h f).queries = s.queries := rfl
@[simp] theorem updTensor_flash (h : Nat) (f : Tensor → Tensor) : (s.updTensor h f).flash = s.flash := rfl
@[simp] theorem updTensor_fabric (h : Nat) (f : Tensor → Tensor) : (s.updTensor h f).fabric = s.fabric := rfl
@[simp] theorem updTensor_integ (h : Nat) (f : Tensor → Tensor) : (s.updTensor h f).integ = s.integ := rfl
@[simp] theorem updTensor_cfl (h : Nat) (f : Tensor → Tensor) : (s.updTensor h f).cfl = s.cfl := rfl
@[simp] theorem updTensor_sec (h : Nat) (f : Tensor → Tensor) : (s.updTensor h f).sec = s.sec := rfl
@[simp] theorem updTensor_power (h : Nat) (f : Tensor → Tensor) : (s.updTensor h f).power = s.power := rfl
@[simp] theorem updTensor_health (h : Nat) (f : Tensor → Tensor) : (s.updTensor h f).health = s.health := rfl
@[simp] theorem updTensor_mgmt (h : Nat) (f : Tensor → Tensor) : (s.updTensor h f).mgmt = s.mgmt := rfl
@[simp] theorem updTensor_test (h : Nat) (f : Tensor → Tensor) : (s.updTensor h f).test = s.test := rfl
@[simp] theorem updTensor_commitSeq (h : Nat) (f : Tensor → Tensor) : (s.updTensor h f).commitSeq = s.commitSeq := rfl
@[simp] theorem updTensor_now (h : Nat) (f : Tensor → Tensor) : (s.updTensor h f).now = s.now := rfl
@[simp] theorem updTensor_freeCount (h : Nat) (f : Tensor → Tensor) : (s.updTensor h f).freeCount = s.freeCount := rfl
@[simp] theorem updTensor_out (h : Nat) (f : Tensor → Tensor) : (s.updTensor h f).out = s.out := rfl

/-! ### updBinding -/

@[simp] theorem updBinding_pending (id : CmdId) (f : Binding → Binding) : (s.updBinding id f).pending = s.pending := rfl
@[simp] theorem updBinding_variant (id : CmdId) (f : Binding → Binding) : (s.updBinding id f).variant = s.variant := rfl
@[simp] theorem updBinding_cfg (id : CmdId) (f : Binding → Binding) : (s.updBinding id f).cfg = s.cfg := rfl
@[simp] theorem updBinding_host (id : CmdId) (f : Binding → Binding) : (s.updBinding id f).host = s.host := rfl
@[simp] theorem updBinding_ctxs (id : CmdId) (f : Binding → Binding) : (s.updBinding id f).ctxs = s.ctxs := rfl
@[simp] theorem updBinding_parts (id : CmdId) (f : Binding → Binding) : (s.updBinding id f).parts = s.parts := rfl
@[simp] theorem updBinding_arbiters (id : CmdId) (f : Binding → Binding) : (s.updBinding id f).arbiters = s.arbiters := rfl
@[simp] theorem updBinding_device (id : CmdId) (f : Binding → Binding) : (s.updBinding id f).device = s.device := rfl
@[simp] theorem updBinding_sems (id : CmdId) (f : Binding → Binding) : (s.updBinding id f).sems = s.sems := rfl
@[simp] theorem updBinding_mem (id : CmdId) (f : Binding → Binding) : (s.updBinding id f).mem = s.mem := rfl
@[simp] theorem updBinding_allocs (id : CmdId) (f : Binding → Binding) : (s.updBinding id f).allocs = s.allocs := rfl
@[simp] theorem updBinding_dcache (id : CmdId) (f : Binding → Binding) : (s.updBinding id f).dcache = s.dcache := rfl
@[simp] theorem updBinding_tensors (id : CmdId) (f : Binding → Binding) : (s.updBinding id f).tensors = s.tensors := rfl
@[simp] theorem updBinding_bindCount (id : CmdId) (f : Binding → Binding) : (s.updBinding id f).bindCount = s.bindCount := rfl
@[simp] theorem updBinding_reuse (id : CmdId) (f : Binding → Binding) : (s.updBinding id f).reuse = s.reuse := rfl
@[simp] theorem updBinding_progs (id : CmdId) (f : Binding → Binding) : (s.updBinding id f).progs = s.progs := rfl
@[simp] theorem updBinding_models (id : CmdId) (f : Binding → Binding) : (s.updBinding id f).models = s.models := rfl
@[simp] theorem updBinding_accords (id : CmdId) (f : Binding → Binding) : (s.updBinding id f).accords = s.accords := rfl
@[simp] theorem updBinding_invocations (id : CmdId) (f : Binding → Binding) : (s.updBinding id f).invocations = s.invocations := rfl
@[simp] theorem updBinding_bindings (id : CmdId) (f : Binding → Binding) : (s.updBinding id f).bindings = mapIf (fun b => b.id = id) f s.bindings := rfl
@[simp] theorem updBinding_runs (id : CmdId) (f : Binding → Binding) : (s.updBinding id f).runs = s.runs := rfl
@[simp] theorem updBinding_cores (id : CmdId) (f : Binding → Binding) : (s.updBinding id f).cores = s.cores := rfl
@[simp] theorem updBinding_events (id : CmdId) (f : Binding → Binding) : (s.updBinding id f).events = s.events := rfl
@[simp] theorem updBinding_tpDirty (id : CmdId) (f : Binding → Binding) : (s.updBinding id f).tpDirty = s.tpDirty := rfl
@[simp] theorem updBinding_tpOwner (id : CmdId) (f : Binding → Binding) : (s.updBinding id f).tpOwner = s.tpOwner := rfl
@[simp] theorem updBinding_indexes (id : CmdId) (f : Binding → Binding) : (s.updBinding id f).indexes = s.indexes := rfl
@[simp] theorem updBinding_queries (id : CmdId) (f : Binding → Binding) : (s.updBinding id f).queries = s.queries := rfl
@[simp] theorem updBinding_flash (id : CmdId) (f : Binding → Binding) : (s.updBinding id f).flash = s.flash := rfl
@[simp] theorem updBinding_fabric (id : CmdId) (f : Binding → Binding) : (s.updBinding id f).fabric = s.fabric := rfl
@[simp] theorem updBinding_integ (id : CmdId) (f : Binding → Binding) : (s.updBinding id f).integ = s.integ := rfl
@[simp] theorem updBinding_cfl (id : CmdId) (f : Binding → Binding) : (s.updBinding id f).cfl = s.cfl := rfl
@[simp] theorem updBinding_sec (id : CmdId) (f : Binding → Binding) : (s.updBinding id f).sec = s.sec := rfl
@[simp] theorem updBinding_power (id : CmdId) (f : Binding → Binding) : (s.updBinding id f).power = s.power := rfl
@[simp] theorem updBinding_health (id : CmdId) (f : Binding → Binding) : (s.updBinding id f).health = s.health := rfl
@[simp] theorem updBinding_mgmt (id : CmdId) (f : Binding → Binding) : (s.updBinding id f).mgmt = s.mgmt := rfl
@[simp] theorem updBinding_test (id : CmdId) (f : Binding → Binding) : (s.updBinding id f).test = s.test := rfl
@[simp] theorem updBinding_commitSeq (id : CmdId) (f : Binding → Binding) : (s.updBinding id f).commitSeq = s.commitSeq := rfl
@[simp] theorem updBinding_now (id : CmdId) (f : Binding → Binding) : (s.updBinding id f).now = s.now := rfl
@[simp] theorem updBinding_freeCount (id : CmdId) (f : Binding → Binding) : (s.updBinding id f).freeCount = s.freeCount := rfl
@[simp] theorem updBinding_out (id : CmdId) (f : Binding → Binding) : (s.updBinding id f).out = s.out := rfl

/-! ### updRun -/

@[simp] theorem updRun_pending (id : CmdId) (f : Run → Run) : (s.updRun id f).pending = s.pending := rfl
@[simp] theorem updRun_variant (id : CmdId) (f : Run → Run) : (s.updRun id f).variant = s.variant := rfl
@[simp] theorem updRun_cfg (id : CmdId) (f : Run → Run) : (s.updRun id f).cfg = s.cfg := rfl
@[simp] theorem updRun_host (id : CmdId) (f : Run → Run) : (s.updRun id f).host = s.host := rfl
@[simp] theorem updRun_ctxs (id : CmdId) (f : Run → Run) : (s.updRun id f).ctxs = s.ctxs := rfl
@[simp] theorem updRun_parts (id : CmdId) (f : Run → Run) : (s.updRun id f).parts = s.parts := rfl
@[simp] theorem updRun_arbiters (id : CmdId) (f : Run → Run) : (s.updRun id f).arbiters = s.arbiters := rfl
@[simp] theorem updRun_device (id : CmdId) (f : Run → Run) : (s.updRun id f).device = s.device := rfl
@[simp] theorem updRun_sems (id : CmdId) (f : Run → Run) : (s.updRun id f).sems = s.sems := rfl
@[simp] theorem updRun_mem (id : CmdId) (f : Run → Run) : (s.updRun id f).mem = s.mem := rfl
@[simp] theorem updRun_allocs (id : CmdId) (f : Run → Run) : (s.updRun id f).allocs = s.allocs := rfl
@[simp] theorem updRun_dcache (id : CmdId) (f : Run → Run) : (s.updRun id f).dcache = s.dcache := rfl
@[simp] theorem updRun_tensors (id : CmdId) (f : Run → Run) : (s.updRun id f).tensors = s.tensors := rfl
@[simp] theorem updRun_bindCount (id : CmdId) (f : Run → Run) : (s.updRun id f).bindCount = s.bindCount := rfl
@[simp] theorem updRun_reuse (id : CmdId) (f : Run → Run) : (s.updRun id f).reuse = s.reuse := rfl
@[simp] theorem updRun_progs (id : CmdId) (f : Run → Run) : (s.updRun id f).progs = s.progs := rfl
@[simp] theorem updRun_models (id : CmdId) (f : Run → Run) : (s.updRun id f).models = s.models := rfl
@[simp] theorem updRun_accords (id : CmdId) (f : Run → Run) : (s.updRun id f).accords = s.accords := rfl
@[simp] theorem updRun_invocations (id : CmdId) (f : Run → Run) : (s.updRun id f).invocations = s.invocations := rfl
@[simp] theorem updRun_bindings (id : CmdId) (f : Run → Run) : (s.updRun id f).bindings = s.bindings := rfl
@[simp] theorem updRun_runs (id : CmdId) (f : Run → Run) : (s.updRun id f).runs = mapIf (fun r => r.id = id) f s.runs := rfl
@[simp] theorem updRun_cores (id : CmdId) (f : Run → Run) : (s.updRun id f).cores = s.cores := rfl
@[simp] theorem updRun_events (id : CmdId) (f : Run → Run) : (s.updRun id f).events = s.events := rfl
@[simp] theorem updRun_tpDirty (id : CmdId) (f : Run → Run) : (s.updRun id f).tpDirty = s.tpDirty := rfl
@[simp] theorem updRun_tpOwner (id : CmdId) (f : Run → Run) : (s.updRun id f).tpOwner = s.tpOwner := rfl
@[simp] theorem updRun_indexes (id : CmdId) (f : Run → Run) : (s.updRun id f).indexes = s.indexes := rfl
@[simp] theorem updRun_queries (id : CmdId) (f : Run → Run) : (s.updRun id f).queries = s.queries := rfl
@[simp] theorem updRun_flash (id : CmdId) (f : Run → Run) : (s.updRun id f).flash = s.flash := rfl
@[simp] theorem updRun_fabric (id : CmdId) (f : Run → Run) : (s.updRun id f).fabric = s.fabric := rfl
@[simp] theorem updRun_integ (id : CmdId) (f : Run → Run) : (s.updRun id f).integ = s.integ := rfl
@[simp] theorem updRun_cfl (id : CmdId) (f : Run → Run) : (s.updRun id f).cfl = s.cfl := rfl
@[simp] theorem updRun_sec (id : CmdId) (f : Run → Run) : (s.updRun id f).sec = s.sec := rfl
@[simp] theorem updRun_power (id : CmdId) (f : Run → Run) : (s.updRun id f).power = s.power := rfl
@[simp] theorem updRun_health (id : CmdId) (f : Run → Run) : (s.updRun id f).health = s.health := rfl
@[simp] theorem updRun_mgmt (id : CmdId) (f : Run → Run) : (s.updRun id f).mgmt = s.mgmt := rfl
@[simp] theorem updRun_test (id : CmdId) (f : Run → Run) : (s.updRun id f).test = s.test := rfl
@[simp] theorem updRun_commitSeq (id : CmdId) (f : Run → Run) : (s.updRun id f).commitSeq = s.commitSeq := rfl
@[simp] theorem updRun_now (id : CmdId) (f : Run → Run) : (s.updRun id f).now = s.now := rfl
@[simp] theorem updRun_freeCount (id : CmdId) (f : Run → Run) : (s.updRun id f).freeCount = s.freeCount := rfl
@[simp] theorem updRun_out (id : CmdId) (f : Run → Run) : (s.updRun id f).out = s.out := rfl

/-! ### updInv -/

@[simp] theorem updInv_pending (id : CmdId) (f : Invocation → Invocation) : (s.updInv id f).pending = s.pending := rfl
@[simp] theorem updInv_variant (id : CmdId) (f : Invocation → Invocation) : (s.updInv id f).variant = s.variant := rfl
@[simp] theorem updInv_cfg (id : CmdId) (f : Invocation → Invocation) : (s.updInv id f).cfg = s.cfg := rfl
@[simp] theorem updInv_host (id : CmdId) (f : Invocation → Invocation) : (s.updInv id f).host = s.host := rfl
@[simp] theorem updInv_ctxs (id : CmdId) (f : Invocation → Invocation) : (s.updInv id f).ctxs = s.ctxs := rfl
@[simp] theorem updInv_parts (id : CmdId) (f : Invocation → Invocation) : (s.updInv id f).parts = s.parts := rfl
@[simp] theorem updInv_arbiters (id : CmdId) (f : Invocation → Invocation) : (s.updInv id f).arbiters = s.arbiters := rfl
@[simp] theorem updInv_device (id : CmdId) (f : Invocation → Invocation) : (s.updInv id f).device = s.device := rfl
@[simp] theorem updInv_sems (id : CmdId) (f : Invocation → Invocation) : (s.updInv id f).sems = s.sems := rfl
@[simp] theorem updInv_mem (id : CmdId) (f : Invocation → Invocation) : (s.updInv id f).mem = s.mem := rfl
@[simp] theorem updInv_allocs (id : CmdId) (f : Invocation → Invocation) : (s.updInv id f).allocs = s.allocs := rfl
@[simp] theorem updInv_dcache (id : CmdId) (f : Invocation → Invocation) : (s.updInv id f).dcache = s.dcache := rfl
@[simp] theorem updInv_tensors (id : CmdId) (f : Invocation → Invocation) : (s.updInv id f).tensors = s.tensors := rfl
@[simp] theorem updInv_bindCount (id : CmdId) (f : Invocation → Invocation) : (s.updInv id f).bindCount = s.bindCount := rfl
@[simp] theorem updInv_reuse (id : CmdId) (f : Invocation → Invocation) : (s.updInv id f).reuse = s.reuse := rfl
@[simp] theorem updInv_progs (id : CmdId) (f : Invocation → Invocation) : (s.updInv id f).progs = s.progs := rfl
@[simp] theorem updInv_models (id : CmdId) (f : Invocation → Invocation) : (s.updInv id f).models = s.models := rfl
@[simp] theorem updInv_accords (id : CmdId) (f : Invocation → Invocation) : (s.updInv id f).accords = s.accords := rfl
@[simp] theorem updInv_invocations (id : CmdId) (f : Invocation → Invocation) : (s.updInv id f).invocations = mapIf (fun i => i.id = id) f s.invocations := rfl
@[simp] theorem updInv_bindings (id : CmdId) (f : Invocation → Invocation) : (s.updInv id f).bindings = s.bindings := rfl
@[simp] theorem updInv_runs (id : CmdId) (f : Invocation → Invocation) : (s.updInv id f).runs = s.runs := rfl
@[simp] theorem updInv_cores (id : CmdId) (f : Invocation → Invocation) : (s.updInv id f).cores = s.cores := rfl
@[simp] theorem updInv_events (id : CmdId) (f : Invocation → Invocation) : (s.updInv id f).events = s.events := rfl
@[simp] theorem updInv_tpDirty (id : CmdId) (f : Invocation → Invocation) : (s.updInv id f).tpDirty = s.tpDirty := rfl
@[simp] theorem updInv_tpOwner (id : CmdId) (f : Invocation → Invocation) : (s.updInv id f).tpOwner = s.tpOwner := rfl
@[simp] theorem updInv_indexes (id : CmdId) (f : Invocation → Invocation) : (s.updInv id f).indexes = s.indexes := rfl
@[simp] theorem updInv_queries (id : CmdId) (f : Invocation → Invocation) : (s.updInv id f).queries = s.queries := rfl
@[simp] theorem updInv_flash (id : CmdId) (f : Invocation → Invocation) : (s.updInv id f).flash = s.flash := rfl
@[simp] theorem updInv_fabric (id : CmdId) (f : Invocation → Invocation) : (s.updInv id f).fabric = s.fabric := rfl
@[simp] theorem updInv_integ (id : CmdId) (f : Invocation → Invocation) : (s.updInv id f).integ = s.integ := rfl
@[simp] theorem updInv_cfl (id : CmdId) (f : Invocation → Invocation) : (s.updInv id f).cfl = s.cfl := rfl
@[simp] theorem updInv_sec (id : CmdId) (f : Invocation → Invocation) : (s.updInv id f).sec = s.sec := rfl
@[simp] theorem updInv_power (id : CmdId) (f : Invocation → Invocation) : (s.updInv id f).power = s.power := rfl
@[simp] theorem updInv_health (id : CmdId) (f : Invocation → Invocation) : (s.updInv id f).health = s.health := rfl
@[simp] theorem updInv_mgmt (id : CmdId) (f : Invocation → Invocation) : (s.updInv id f).mgmt = s.mgmt := rfl
@[simp] theorem updInv_test (id : CmdId) (f : Invocation → Invocation) : (s.updInv id f).test = s.test := rfl
@[simp] theorem updInv_commitSeq (id : CmdId) (f : Invocation → Invocation) : (s.updInv id f).commitSeq = s.commitSeq := rfl
@[simp] theorem updInv_now (id : CmdId) (f : Invocation → Invocation) : (s.updInv id f).now = s.now := rfl
@[simp] theorem updInv_freeCount (id : CmdId) (f : Invocation → Invocation) : (s.updInv id f).freeCount = s.freeCount := rfl
@[simp] theorem updInv_out (id : CmdId) (f : Invocation → Invocation) : (s.updInv id f).out = s.out := rfl

/-! ### updIndex -/

@[simp] theorem updIndex_pending (ns : Nat) (f : Index → Index) : (s.updIndex ns f).pending = s.pending := rfl
@[simp] theorem updIndex_variant (ns : Nat) (f : Index → Index) : (s.updIndex ns f).variant = s.variant := rfl
@[simp] theorem updIndex_cfg (ns : Nat) (f : Index → Index) : (s.updIndex ns f).cfg = s.cfg := rfl
@[simp] theorem updIndex_host (ns : Nat) (f : Index → Index) : (s.updIndex ns f).host = s.host := rfl
@[simp] theorem updIndex_ctxs (ns : Nat) (f : Index → Index) : (s.updIndex ns f).ctxs = s.ctxs := rfl
@[simp] theorem updIndex_parts (ns : Nat) (f : Index → Index) : (s.updIndex ns f).parts = s.parts := rfl
@[simp] theorem updIndex_arbiters (ns : Nat) (f : Index → Index) : (s.updIndex ns f).arbiters = s.arbiters := rfl
@[simp] theorem updIndex_device (ns : Nat) (f : Index → Index) : (s.updIndex ns f).device = s.device := rfl
@[simp] theorem updIndex_sems (ns : Nat) (f : Index → Index) : (s.updIndex ns f).sems = s.sems := rfl
@[simp] theorem updIndex_mem (ns : Nat) (f : Index → Index) : (s.updIndex ns f).mem = s.mem := rfl
@[simp] theorem updIndex_allocs (ns : Nat) (f : Index → Index) : (s.updIndex ns f).allocs = s.allocs := rfl
@[simp] theorem updIndex_dcache (ns : Nat) (f : Index → Index) : (s.updIndex ns f).dcache = s.dcache := rfl
@[simp] theorem updIndex_tensors (ns : Nat) (f : Index → Index) : (s.updIndex ns f).tensors = s.tensors := rfl
@[simp] theorem updIndex_bindCount (ns : Nat) (f : Index → Index) : (s.updIndex ns f).bindCount = s.bindCount := rfl
@[simp] theorem updIndex_reuse (ns : Nat) (f : Index → Index) : (s.updIndex ns f).reuse = s.reuse := rfl
@[simp] theorem updIndex_progs (ns : Nat) (f : Index → Index) : (s.updIndex ns f).progs = s.progs := rfl
@[simp] theorem updIndex_models (ns : Nat) (f : Index → Index) : (s.updIndex ns f).models = s.models := rfl
@[simp] theorem updIndex_accords (ns : Nat) (f : Index → Index) : (s.updIndex ns f).accords = s.accords := rfl
@[simp] theorem updIndex_invocations (ns : Nat) (f : Index → Index) : (s.updIndex ns f).invocations = s.invocations := rfl
@[simp] theorem updIndex_bindings (ns : Nat) (f : Index → Index) : (s.updIndex ns f).bindings = s.bindings := rfl
@[simp] theorem updIndex_runs (ns : Nat) (f : Index → Index) : (s.updIndex ns f).runs = s.runs := rfl
@[simp] theorem updIndex_cores (ns : Nat) (f : Index → Index) : (s.updIndex ns f).cores = s.cores := rfl
@[simp] theorem updIndex_events (ns : Nat) (f : Index → Index) : (s.updIndex ns f).events = s.events := rfl
@[simp] theorem updIndex_tpDirty (ns : Nat) (f : Index → Index) : (s.updIndex ns f).tpDirty = s.tpDirty := rfl
@[simp] theorem updIndex_tpOwner (ns : Nat) (f : Index → Index) : (s.updIndex ns f).tpOwner = s.tpOwner := rfl
@[simp] theorem updIndex_indexes (ns : Nat) (f : Index → Index) : (s.updIndex ns f).indexes = mapIf (fun x => x.ns = ns) f s.indexes := rfl
@[simp] theorem updIndex_queries (ns : Nat) (f : Index → Index) : (s.updIndex ns f).queries = s.queries := rfl
@[simp] theorem updIndex_flash (ns : Nat) (f : Index → Index) : (s.updIndex ns f).flash = s.flash := rfl
@[simp] theorem updIndex_fabric (ns : Nat) (f : Index → Index) : (s.updIndex ns f).fabric = s.fabric := rfl
@[simp] theorem updIndex_integ (ns : Nat) (f : Index → Index) : (s.updIndex ns f).integ = s.integ := rfl
@[simp] theorem updIndex_cfl (ns : Nat) (f : Index → Index) : (s.updIndex ns f).cfl = s.cfl := rfl
@[simp] theorem updIndex_sec (ns : Nat) (f : Index → Index) : (s.updIndex ns f).sec = s.sec := rfl
@[simp] theorem updIndex_power (ns : Nat) (f : Index → Index) : (s.updIndex ns f).power = s.power := rfl
@[simp] theorem updIndex_health (ns : Nat) (f : Index → Index) : (s.updIndex ns f).health = s.health := rfl
@[simp] theorem updIndex_mgmt (ns : Nat) (f : Index → Index) : (s.updIndex ns f).mgmt = s.mgmt := rfl
@[simp] theorem updIndex_test (ns : Nat) (f : Index → Index) : (s.updIndex ns f).test = s.test := rfl
@[simp] theorem updIndex_commitSeq (ns : Nat) (f : Index → Index) : (s.updIndex ns f).commitSeq = s.commitSeq := rfl
@[simp] theorem updIndex_now (ns : Nat) (f : Index → Index) : (s.updIndex ns f).now = s.now := rfl
@[simp] theorem updIndex_freeCount (ns : Nat) (f : Index → Index) : (s.updIndex ns f).freeCount = s.freeCount := rfl
@[simp] theorem updIndex_out (ns : Nat) (f : Index → Index) : (s.updIndex ns f).out = s.out := rfl

/-! ### updQuery -/

@[simp] theorem updQuery_pending (id : CmdId) (qi : Nat) (f : Query → Query) : (s.updQuery id qi f).pending = s.pending := rfl
@[simp] theorem updQuery_variant (id : CmdId) (qi : Nat) (f : Query → Query) : (s.updQuery id qi f).variant = s.variant := rfl
@[simp] theorem updQuery_cfg (id : CmdId) (qi : Nat) (f : Query → Query) : (s.updQuery id qi f).cfg = s.cfg := rfl
@[simp] theorem updQuery_host (id : CmdId) (qi : Nat) (f : Query → Query) : (s.updQuery id qi f).host = s.host := rfl
@[simp] theorem updQuery_ctxs (id : CmdId) (qi : Nat) (f : Query → Query) : (s.updQuery id qi f).ctxs = s.ctxs := rfl
@[simp] theorem updQuery_parts (id : CmdId) (qi : Nat) (f : Query → Query) : (s.updQuery id qi f).parts = s.parts := rfl
@[simp] theorem updQuery_arbiters (id : CmdId) (qi : Nat) (f : Query → Query) : (s.updQuery id qi f).arbiters = s.arbiters := rfl
@[simp] theorem updQuery_device (id : CmdId) (qi : Nat) (f : Query → Query) : (s.updQuery id qi f).device = s.device := rfl
@[simp] theorem updQuery_sems (id : CmdId) (qi : Nat) (f : Query → Query) : (s.updQuery id qi f).sems = s.sems := rfl
@[simp] theorem updQuery_mem (id : CmdId) (qi : Nat) (f : Query → Query) : (s.updQuery id qi f).mem = s.mem := rfl
@[simp] theorem updQuery_allocs (id : CmdId) (qi : Nat) (f : Query → Query) : (s.updQuery id qi f).allocs = s.allocs := rfl
@[simp] theorem updQuery_dcache (id : CmdId) (qi : Nat) (f : Query → Query) : (s.updQuery id qi f).dcache = s.dcache := rfl
@[simp] theorem updQuery_tensors (id : CmdId) (qi : Nat) (f : Query → Query) : (s.updQuery id qi f).tensors = s.tensors := rfl
@[simp] theorem updQuery_bindCount (id : CmdId) (qi : Nat) (f : Query → Query) : (s.updQuery id qi f).bindCount = s.bindCount := rfl
@[simp] theorem updQuery_reuse (id : CmdId) (qi : Nat) (f : Query → Query) : (s.updQuery id qi f).reuse = s.reuse := rfl
@[simp] theorem updQuery_progs (id : CmdId) (qi : Nat) (f : Query → Query) : (s.updQuery id qi f).progs = s.progs := rfl
@[simp] theorem updQuery_models (id : CmdId) (qi : Nat) (f : Query → Query) : (s.updQuery id qi f).models = s.models := rfl
@[simp] theorem updQuery_accords (id : CmdId) (qi : Nat) (f : Query → Query) : (s.updQuery id qi f).accords = s.accords := rfl
@[simp] theorem updQuery_invocations (id : CmdId) (qi : Nat) (f : Query → Query) : (s.updQuery id qi f).invocations = s.invocations := rfl
@[simp] theorem updQuery_bindings (id : CmdId) (qi : Nat) (f : Query → Query) : (s.updQuery id qi f).bindings = s.bindings := rfl
@[simp] theorem updQuery_runs (id : CmdId) (qi : Nat) (f : Query → Query) : (s.updQuery id qi f).runs = s.runs := rfl
@[simp] theorem updQuery_cores (id : CmdId) (qi : Nat) (f : Query → Query) : (s.updQuery id qi f).cores = s.cores := rfl
@[simp] theorem updQuery_events (id : CmdId) (qi : Nat) (f : Query → Query) : (s.updQuery id qi f).events = s.events := rfl
@[simp] theorem updQuery_tpDirty (id : CmdId) (qi : Nat) (f : Query → Query) : (s.updQuery id qi f).tpDirty = s.tpDirty := rfl
@[simp] theorem updQuery_tpOwner (id : CmdId) (qi : Nat) (f : Query → Query) : (s.updQuery id qi f).tpOwner = s.tpOwner := rfl
@[simp] theorem updQuery_indexes (id : CmdId) (qi : Nat) (f : Query → Query) : (s.updQuery id qi f).indexes = s.indexes := rfl
@[simp] theorem updQuery_queries (id : CmdId) (qi : Nat) (f : Query → Query) : (s.updQuery id qi f).queries = mapIf (fun q => q.id = id && q.qi == qi) f s.queries := rfl
@[simp] theorem updQuery_flash (id : CmdId) (qi : Nat) (f : Query → Query) : (s.updQuery id qi f).flash = s.flash := rfl
@[simp] theorem updQuery_fabric (id : CmdId) (qi : Nat) (f : Query → Query) : (s.updQuery id qi f).fabric = s.fabric := rfl
@[simp] theorem updQuery_integ (id : CmdId) (qi : Nat) (f : Query → Query) : (s.updQuery id qi f).integ = s.integ := rfl
@[simp] theorem updQuery_cfl (id : CmdId) (qi : Nat) (f : Query → Query) : (s.updQuery id qi f).cfl = s.cfl := rfl
@[simp] theorem updQuery_sec (id : CmdId) (qi : Nat) (f : Query → Query) : (s.updQuery id qi f).sec = s.sec := rfl
@[simp] theorem updQuery_power (id : CmdId) (qi : Nat) (f : Query → Query) : (s.updQuery id qi f).power = s.power := rfl
@[simp] theorem updQuery_health (id : CmdId) (qi : Nat) (f : Query → Query) : (s.updQuery id qi f).health = s.health := rfl
@[simp] theorem updQuery_mgmt (id : CmdId) (qi : Nat) (f : Query → Query) : (s.updQuery id qi f).mgmt = s.mgmt := rfl
@[simp] theorem updQuery_test (id : CmdId) (qi : Nat) (f : Query → Query) : (s.updQuery id qi f).test = s.test := rfl
@[simp] theorem updQuery_commitSeq (id : CmdId) (qi : Nat) (f : Query → Query) : (s.updQuery id qi f).commitSeq = s.commitSeq := rfl
@[simp] theorem updQuery_now (id : CmdId) (qi : Nat) (f : Query → Query) : (s.updQuery id qi f).now = s.now := rfl
@[simp] theorem updQuery_freeCount (id : CmdId) (qi : Nat) (f : Query → Query) : (s.updQuery id qi f).freeCount = s.freeCount := rfl
@[simp] theorem updQuery_out (id : CmdId) (qi : Nat) (f : Query → Query) : (s.updQuery id qi f).out = s.out := rfl

/-! ### updRing -/

@[simp] theorem updRing_pending (h : Nat) (f : Ring → Ring) : (s.updRing h f).pending = s.pending := rfl
@[simp] theorem updRing_variant (h : Nat) (f : Ring → Ring) : (s.updRing h f).variant = s.variant := rfl
@[simp] theorem updRing_cfg (h : Nat) (f : Ring → Ring) : (s.updRing h f).cfg = s.cfg := rfl
@[simp] theorem updRing_host (h : Nat) (f : Ring → Ring) : (s.updRing h f).host = s.host := rfl
@[simp] theorem updRing_ctxs (h : Nat) (f : Ring → Ring) : (s.updRing h f).ctxs = s.ctxs := rfl
@[simp] theorem updRing_parts (h : Nat) (f : Ring → Ring) : (s.updRing h f).parts = s.parts := rfl
@[simp] theorem updRing_arbiters (h : Nat) (f : Ring → Ring) : (s.updRing h f).arbiters = s.arbiters := rfl
@[simp] theorem updRing_device (h : Nat) (f : Ring → Ring) : (s.updRing h f).device = s.device := rfl
@[simp] theorem updRing_sems (h : Nat) (f : Ring → Ring) : (s.updRing h f).sems = s.sems := rfl
@[simp] theorem updRing_mem (h : Nat) (f : Ring → Ring) : (s.updRing h f).mem = s.mem := rfl
@[simp] theorem updRing_allocs (h : Nat) (f : Ring → Ring) : (s.updRing h f).allocs = s.allocs := rfl
@[simp] theorem updRing_dcache (h : Nat) (f : Ring → Ring) : (s.updRing h f).dcache = s.dcache := rfl
@[simp] theorem updRing_tensors (h : Nat) (f : Ring → Ring) : (s.updRing h f).tensors = s.tensors := rfl
@[simp] theorem updRing_bindCount (h : Nat) (f : Ring → Ring) : (s.updRing h f).bindCount = s.bindCount := rfl
@[simp] theorem updRing_reuse (h : Nat) (f : Ring → Ring) : (s.updRing h f).reuse = s.reuse := rfl
@[simp] theorem updRing_progs (h : Nat) (f : Ring → Ring) : (s.updRing h f).progs = s.progs := rfl
@[simp] theorem updRing_models (h : Nat) (f : Ring → Ring) : (s.updRing h f).models = s.models := rfl
@[simp] theorem updRing_accords (h : Nat) (f : Ring → Ring) : (s.updRing h f).accords = s.accords := rfl
@[simp] theorem updRing_invocations (h : Nat) (f : Ring → Ring) : (s.updRing h f).invocations = s.invocations := rfl
@[simp] theorem updRing_bindings (h : Nat) (f : Ring → Ring) : (s.updRing h f).bindings = s.bindings := rfl
@[simp] theorem updRing_runs (h : Nat) (f : Ring → Ring) : (s.updRing h f).runs = s.runs := rfl
@[simp] theorem updRing_cores (h : Nat) (f : Ring → Ring) : (s.updRing h f).cores = s.cores := rfl
@[simp] theorem updRing_events (h : Nat) (f : Ring → Ring) : (s.updRing h f).events = s.events := rfl
@[simp] theorem updRing_tpDirty (h : Nat) (f : Ring → Ring) : (s.updRing h f).tpDirty = s.tpDirty := rfl
@[simp] theorem updRing_tpOwner (h : Nat) (f : Ring → Ring) : (s.updRing h f).tpOwner = s.tpOwner := rfl
@[simp] theorem updRing_indexes (h : Nat) (f : Ring → Ring) : (s.updRing h f).indexes = s.indexes := rfl
@[simp] theorem updRing_queries (h : Nat) (f : Ring → Ring) : (s.updRing h f).queries = s.queries := rfl
@[simp] theorem updRing_flash (h : Nat) (f : Ring → Ring) : (s.updRing h f).flash = s.flash := rfl
@[simp] theorem updRing_fabric (h : Nat) (f : Ring → Ring) : (s.updRing h f).fabric = { s.fabric with rings := mapIf (fun r => r.handle = h) f s.fabric.rings } := rfl
@[simp] theorem updRing_integ (h : Nat) (f : Ring → Ring) : (s.updRing h f).integ = s.integ := rfl
@[simp] theorem updRing_cfl (h : Nat) (f : Ring → Ring) : (s.updRing h f).cfl = s.cfl := rfl
@[simp] theorem updRing_sec (h : Nat) (f : Ring → Ring) : (s.updRing h f).sec = s.sec := rfl
@[simp] theorem updRing_power (h : Nat) (f : Ring → Ring) : (s.updRing h f).power = s.power := rfl
@[simp] theorem updRing_health (h : Nat) (f : Ring → Ring) : (s.updRing h f).health = s.health := rfl
@[simp] theorem updRing_mgmt (h : Nat) (f : Ring → Ring) : (s.updRing h f).mgmt = s.mgmt := rfl
@[simp] theorem updRing_test (h : Nat) (f : Ring → Ring) : (s.updRing h f).test = s.test := rfl
@[simp] theorem updRing_commitSeq (h : Nat) (f : Ring → Ring) : (s.updRing h f).commitSeq = s.commitSeq := rfl
@[simp] theorem updRing_now (h : Nat) (f : Ring → Ring) : (s.updRing h f).now = s.now := rfl
@[simp] theorem updRing_freeCount (h : Nat) (f : Ring → Ring) : (s.updRing h f).freeCount = s.freeCount := rfl
@[simp] theorem updRing_out (h : Nat) (f : Ring → Ring) : (s.updRing h f).out = s.out := rfl

/-! ### updLport -/

@[simp] theorem updLport_pending (l : Nat) (f : LPort → LPort) : (s.updLport l f).pending = s.pending := rfl
@[simp] theorem updLport_variant (l : Nat) (f : LPort → LPort) : (s.updLport l f).variant = s.variant := rfl
@[simp] theorem updLport_cfg (l : Nat) (f : LPort → LPort) : (s.updLport l f).cfg = s.cfg := rfl
@[simp] theorem updLport_host (l : Nat) (f : LPort → LPort) : (s.updLport l f).host = s.host := rfl
@[simp] theorem updLport_ctxs (l : Nat) (f : LPort → LPort) : (s.updLport l f).ctxs = s.ctxs := rfl
@[simp] theorem updLport_parts (l : Nat) (f : LPort → LPort) : (s.updLport l f).parts = s.parts := rfl
@[simp] theorem updLport_arbiters (l : Nat) (f : LPort → LPort) : (s.updLport l f).arbiters = s.arbiters := rfl
@[simp] theorem updLport_device (l : Nat) (f : LPort → LPort) : (s.updLport l f).device = s.device := rfl
@[simp] theorem updLport_sems (l : Nat) (f : LPort → LPort) : (s.updLport l f).sems = s.sems := rfl
@[simp] theorem updLport_mem (l : Nat) (f : LPort → LPort) : (s.updLport l f).mem = s.mem := rfl
@[simp] theorem updLport_allocs (l : Nat) (f : LPort → LPort) : (s.updLport l f).allocs = s.allocs := rfl
@[simp] theorem updLport_dcache (l : Nat) (f : LPort → LPort) : (s.updLport l f).dcache = s.dcache := rfl
@[simp] theorem updLport_tensors (l : Nat) (f : LPort → LPort) : (s.updLport l f).tensors = s.tensors := rfl
@[simp] theorem updLport_bindCount (l : Nat) (f : LPort → LPort) : (s.updLport l f).bindCount = s.bindCount := rfl
@[simp] theorem updLport_reuse (l : Nat) (f : LPort → LPort) : (s.updLport l f).reuse = s.reuse := rfl
@[simp] theorem updLport_progs (l : Nat) (f : LPort → LPort) : (s.updLport l f).progs = s.progs := rfl
@[simp] theorem updLport_models (l : Nat) (f : LPort → LPort) : (s.updLport l f).models = s.models := rfl
@[simp] theorem updLport_accords (l : Nat) (f : LPort → LPort) : (s.updLport l f).accords = s.accords := rfl
@[simp] theorem updLport_invocations (l : Nat) (f : LPort → LPort) : (s.updLport l f).invocations = s.invocations := rfl
@[simp] theorem updLport_bindings (l : Nat) (f : LPort → LPort) : (s.updLport l f).bindings = s.bindings := rfl
@[simp] theorem updLport_runs (l : Nat) (f : LPort → LPort) : (s.updLport l f).runs = s.runs := rfl
@[simp] theorem updLport_cores (l : Nat) (f : LPort → LPort) : (s.updLport l f).cores = s.cores := rfl
@[simp] theorem updLport_events (l : Nat) (f : LPort → LPort) : (s.updLport l f).events = s.events := rfl
@[simp] theorem updLport_tpDirty (l : Nat) (f : LPort → LPort) : (s.updLport l f).tpDirty = s.tpDirty := rfl
@[simp] theorem updLport_tpOwner (l : Nat) (f : LPort → LPort) : (s.updLport l f).tpOwner = s.tpOwner := rfl
@[simp] theorem updLport_indexes (l : Nat) (f : LPort → LPort) : (s.updLport l f).indexes = s.indexes := rfl
@[simp] theorem updLport_queries (l : Nat) (f : LPort → LPort) : (s.updLport l f).queries = s.queries := rfl
@[simp] theorem updLport_flash (l : Nat) (f : LPort → LPort) : (s.updLport l f).flash = s.flash := rfl
@[simp] theorem updLport_fabric (l : Nat) (f : LPort → LPort) : (s.updLport l f).fabric = { s.fabric with lports := ainsert l (f (s.lport l)) s.fabric.lports } := rfl
@[simp] theorem updLport_integ (l : Nat) (f : LPort → LPort) : (s.updLport l f).integ = s.integ := rfl
@[simp] theorem updLport_cfl (l : Nat) (f : LPort → LPort) : (s.updLport l f).cfl = s.cfl := rfl
@[simp] theorem updLport_sec (l : Nat) (f : LPort → LPort) : (s.updLport l f).sec = s.sec := rfl
@[simp] theorem updLport_power (l : Nat) (f : LPort → LPort) : (s.updLport l f).power = s.power := rfl
@[simp] theorem updLport_health (l : Nat) (f : LPort → LPort) : (s.updLport l f).health = s.health := rfl
@[simp] theorem updLport_mgmt (l : Nat) (f : LPort → LPort) : (s.updLport l f).mgmt = s.mgmt := rfl
@[simp] theorem updLport_test (l : Nat) (f : LPort → LPort) : (s.updLport l f).test = s.test := rfl
@[simp] theorem updLport_commitSeq (l : Nat) (f : LPort → LPort) : (s.updLport l f).commitSeq = s.commitSeq := rfl
@[simp] theorem updLport_now (l : Nat) (f : LPort → LPort) : (s.updLport l f).now = s.now := rfl
@[simp] theorem updLport_freeCount (l : Nat) (f : LPort → LPort) : (s.updLport l f).freeCount = s.freeCount := rfl
@[simp] theorem updLport_out (l : Nat) (f : LPort → LPort) : (s.updLport l f).out = s.out := rfl

/-! ### takeSeq -/

@[simp] theorem takeSeq_pending : s.takeSeq.1.pending = s.pending := rfl
@[simp] theorem takeSeq_variant : s.takeSeq.1.variant = s.variant := rfl
@[simp] theorem takeSeq_cfg : s.takeSeq.1.cfg = s.cfg := rfl
@[simp] theorem takeSeq_host : s.takeSeq.1.host = s.host := rfl
@[simp] theorem takeSeq_ctxs : s.takeSeq.1.ctxs = s.ctxs := rfl
@[simp] theorem takeSeq_parts : s.takeSeq.1.parts = s.parts := rfl
@[simp] theorem takeSeq_arbiters : s.takeSeq.1.arbiters = s.arbiters := rfl
@[simp] theorem takeSeq_device : s.takeSeq.1.device = s.device := rfl
@[simp] theorem takeSeq_sems : s.takeSeq.1.sems = s.sems := rfl
@[simp] theorem takeSeq_mem : s.takeSeq.1.mem = s.mem := rfl
@[simp] theorem takeSeq_allocs : s.takeSeq.1.allocs = s.allocs := rfl
@[simp] theorem takeSeq_dcache : s.takeSeq.1.dcache = s.dcache := rfl
@[simp] theorem takeSeq_tensors : s.takeSeq.1.tensors = s.tensors := rfl
@[simp] theorem takeSeq_bindCount : s.takeSeq.1.bindCount = s.bindCount := rfl
@[simp] theorem takeSeq_reuse : s.takeSeq.1.reuse = s.reuse := rfl
@[simp] theorem takeSeq_progs : s.takeSeq.1.progs = s.progs := rfl
@[simp] theorem takeSeq_models : s.takeSeq.1.models = s.models := rfl
@[simp] theorem takeSeq_accords : s.takeSeq.1.accords = s.accords := rfl
@[simp] theorem takeSeq_invocations : s.takeSeq.1.invocations = s.invocations := rfl
@[simp] theorem takeSeq_bindings : s.takeSeq.1.bindings = s.bindings := rfl
@[simp] theorem takeSeq_runs : s.takeSeq.1.runs = s.runs := rfl
@[simp] theorem takeSeq_cores : s.takeSeq.1.cores = s.cores := rfl
@[simp] theorem takeSeq_events : s.takeSeq.1.events = s.events := rfl
@[simp] theorem takeSeq_tpDirty : s.takeSeq.1.tpDirty = s.tpDirty := rfl
@[simp] theorem takeSeq_tpOwner : s.takeSeq.1.tpOwner = s.tpOwner := rfl
@[simp] theorem takeSeq_indexes : s.takeSeq.1.indexes = s.indexes := rfl
@[simp] theorem takeSeq_queries : s.takeSeq.1.queries = s.queries := rfl
@[simp] theorem takeSeq_flash : s.takeSeq.1.flash = s.flash := rfl
@[simp] theorem takeSeq_fabric : s.takeSeq.1.fabric = s.fabric := rfl
@[simp] theorem takeSeq_integ : s.takeSeq.1.integ = s.integ := rfl
@[simp] theorem takeSeq_cfl : s.takeSeq.1.cfl = s.cfl := rfl
@[simp] theorem takeSeq_sec : s.takeSeq.1.sec = s.sec := rfl
@[simp] theorem takeSeq_power : s.takeSeq.1.power = s.power := rfl
@[simp] theorem takeSeq_health : s.takeSeq.1.health = s.health := rfl
@[simp] theorem takeSeq_mgmt : s.takeSeq.1.mgmt = s.mgmt := rfl
@[simp] theorem takeSeq_test : s.takeSeq.1.test = s.test := rfl
@[simp] theorem takeSeq_commitSeq : s.takeSeq.1.commitSeq = nextSeq s.commitSeq := rfl
@[simp] theorem takeSeq_now : s.takeSeq.1.now = s.now := rfl
@[simp] theorem takeSeq_freeCount : s.takeSeq.1.freeCount = s.freeCount := rfl
@[simp] theorem takeSeq_out : s.takeSeq.1.out = s.out := rfl

/-! ### freeNat -/

@[simp] theorem freeNat_pending : s.freeNat.1.pending = s.pending := rfl
@[simp] theorem freeNat_variant : s.freeNat.1.variant = s.variant := rfl
@[simp] theorem freeNat_cfg : s.freeNat.1.cfg = s.cfg := rfl
@[simp] theorem freeNat_host : s.freeNat.1.host = s.host := rfl
@[simp] theorem freeNat_ctxs : s.freeNat.1.ctxs = s.ctxs := rfl
@[simp] theorem freeNat_parts : s.freeNat.1.parts = s.parts := rfl
@[simp] theorem freeNat_arbiters : s.freeNat.1.arbiters = s.arbiters := rfl
@[simp] theorem freeNat_device : s.freeNat.1.device = s.device := rfl
@[simp] theorem freeNat_sems : s.freeNat.1.sems = s.sems := rfl
@[simp] theorem freeNat_mem : s.freeNat.1.mem = s.mem := rfl
@[simp] theorem freeNat_allocs : s.freeNat.1.allocs = s.allocs := rfl
@[simp] theorem freeNat_dcache : s.freeNat.1.dcache = s.dcache := rfl
@[simp] theorem freeNat_tensors : s.freeNat.1.tensors = s.tensors := rfl
@[simp] theorem freeNat_bindCount : s.freeNat.1.bindCount = s.bindCount := rfl
@[simp] theorem freeNat_reuse : s.freeNat.1.reuse = s.reuse := rfl
@[simp] theorem freeNat_progs : s.freeNat.1.progs = s.progs := rfl
@[simp] theorem freeNat_models : s.freeNat.1.models = s.models := rfl
@[simp] theorem freeNat_accords : s.freeNat.1.accords = s.accords := rfl
@[simp] theorem freeNat_invocations : s.freeNat.1.invocations = s.invocations := rfl
@[simp] theorem freeNat_bindings : s.freeNat.1.bindings = s.bindings := rfl
@[simp] theorem freeNat_runs : s.freeNat.1.runs = s.runs := rfl
@[simp] theorem freeNat_cores : s.freeNat.1.cores = s.cores := rfl
@[simp] theorem freeNat_events : s.freeNat.1.events = s.events := rfl
@[simp] theorem freeNat_tpDirty : s.freeNat.1.tpDirty = s.tpDirty := rfl
@[simp] theorem freeNat_tpOwner : s.freeNat.1.tpOwner = s.tpOwner := rfl
@[simp] theorem freeNat_indexes : s.freeNat.1.indexes = s.indexes := rfl
@[simp] theorem freeNat_queries : s.freeNat.1.queries = s.queries := rfl
@[simp] theorem freeNat_flash : s.freeNat.1.flash = s.flash := rfl
@[simp] theorem freeNat_fabric : s.freeNat.1.fabric = s.fabric := rfl
@[simp] theorem freeNat_integ : s.freeNat.1.integ = s.integ := rfl
@[simp] theorem freeNat_cfl : s.freeNat.1.cfl = s.cfl := rfl
@[simp] theorem freeNat_sec : s.freeNat.1.sec = s.sec := rfl
@[simp] theorem freeNat_power : s.freeNat.1.power = s.power := rfl
@[simp] theorem freeNat_health : s.freeNat.1.health = s.health := rfl
@[simp] theorem freeNat_mgmt : s.freeNat.1.mgmt = s.mgmt := rfl
@[simp] theorem freeNat_test : s.freeNat.1.test = s.test := rfl
@[simp] theorem freeNat_commitSeq : s.freeNat.1.commitSeq = s.commitSeq := rfl
@[simp] theorem freeNat_now : s.freeNat.1.now = s.now := rfl
@[simp] theorem freeNat_freeCount : s.freeNat.1.freeCount = s.freeCount + 1 := rfl
@[simp] theorem freeNat_out : s.freeNat.1.out = s.out := rfl

/-! ### newHandle -/

@[simp] theorem newHandle_pending (p : Nat) : (s.newHandle p).1.pending = s.pending := rfl
@[simp] theorem newHandle_variant (p : Nat) : (s.newHandle p).1.variant = s.variant := rfl
@[simp] theorem newHandle_cfg (p : Nat) : (s.newHandle p).1.cfg = s.cfg := rfl
@[simp] theorem newHandle_host (p : Nat) : (s.newHandle p).1.host = s.host := rfl
@[simp] theorem newHandle_ctxs (p : Nat) : (s.newHandle p).1.ctxs = s.ctxs := rfl
@[simp] theorem newHandle_parts (p : Nat) : (s.newHandle p).1.parts = s.parts := rfl
@[simp] theorem newHandle_arbiters (p : Nat) : (s.newHandle p).1.arbiters = s.arbiters := rfl
@[simp] theorem newHandle_device (p : Nat) : (s.newHandle p).1.device = s.device := rfl
@[simp] theorem newHandle_sems (p : Nat) : (s.newHandle p).1.sems = s.sems := rfl
@[simp] theorem newHandle_mem (p : Nat) : (s.newHandle p).1.mem = s.mem := rfl
@[simp] theorem newHandle_allocs (p : Nat) : (s.newHandle p).1.allocs = s.allocs := rfl
@[simp] theorem newHandle_dcache (p : Nat) : (s.newHandle p).1.dcache = s.dcache := rfl
@[simp] theorem newHandle_tensors (p : Nat) : (s.newHandle p).1.tensors = s.tensors := rfl
@[simp] theorem newHandle_bindCount (p : Nat) : (s.newHandle p).1.bindCount = s.bindCount := rfl
@[simp] theorem newHandle_progs (p : Nat) : (s.newHandle p).1.progs = s.progs := rfl
@[simp] theorem newHandle_models (p : Nat) : (s.newHandle p).1.models = s.models := rfl
@[simp] theorem newHandle_accords (p : Nat) : (s.newHandle p).1.accords = s.accords := rfl
@[simp] theorem newHandle_invocations (p : Nat) : (s.newHandle p).1.invocations = s.invocations := rfl
@[simp] theorem newHandle_bindings (p : Nat) : (s.newHandle p).1.bindings = s.bindings := rfl
@[simp] theorem newHandle_runs (p : Nat) : (s.newHandle p).1.runs = s.runs := rfl
@[simp] theorem newHandle_cores (p : Nat) : (s.newHandle p).1.cores = s.cores := rfl
@[simp] theorem newHandle_events (p : Nat) : (s.newHandle p).1.events = s.events := rfl
@[simp] theorem newHandle_tpDirty (p : Nat) : (s.newHandle p).1.tpDirty = s.tpDirty := rfl
@[simp] theorem newHandle_tpOwner (p : Nat) : (s.newHandle p).1.tpOwner = s.tpOwner := rfl
@[simp] theorem newHandle_indexes (p : Nat) : (s.newHandle p).1.indexes = s.indexes := rfl
@[simp] theorem newHandle_queries (p : Nat) : (s.newHandle p).1.queries = s.queries := rfl
@[simp] theorem newHandle_flash (p : Nat) : (s.newHandle p).1.flash = s.flash := rfl
@[simp] theorem newHandle_fabric (p : Nat) : (s.newHandle p).1.fabric = s.fabric := rfl
@[simp] theorem newHandle_integ (p : Nat) : (s.newHandle p).1.integ = s.integ := rfl
@[simp] theorem newHandle_cfl (p : Nat) : (s.newHandle p).1.cfl = s.cfl := rfl
@[simp] theorem newHandle_sec (p : Nat) : (s.newHandle p).1.sec = s.sec := rfl
@[simp] theorem newHandle_power (p : Nat) : (s.newHandle p).1.power = s.power := rfl
@[simp] theorem newHandle_health (p : Nat) : (s.newHandle p).1.health = s.health := rfl
@[simp] theorem newHandle_mgmt (p : Nat) : (s.newHandle p).1.mgmt = s.mgmt := rfl
@[simp] theorem newHandle_test (p : Nat) : (s.newHandle p).1.test = s.test := rfl
@[simp] theorem newHandle_commitSeq (p : Nat) : (s.newHandle p).1.commitSeq = s.commitSeq := rfl
@[simp] theorem newHandle_now (p : Nat) : (s.newHandle p).1.now = s.now := rfl
@[simp] theorem newHandle_freeCount (p : Nat) : (s.newHandle p).1.freeCount = s.freeCount := rfl
@[simp] theorem newHandle_out (p : Nat) : (s.newHandle p).1.out = s.out := rfl

end Sys2Proof.Machine
end

