-- ==== Sys2Proof/Laws/Keep.lean ====
section
/-!
SUPPORT. What the shared operations of the host interface leave alone (`State.Keeps`): interrupts, completion entries, events, accounts, held
results and freed allocations.
-/
namespace Sys2Proof.Machine

open Sys2Proof

/-- Closes the fields of `State.Keeps` that an update does not touch. -/
theorem keeps_armed {s t : State} (hi : t.integ = s.integ) (hh : t.health = s.health) :
    s.integ.armed = [] → t.integ.armed = [] ∧ t.health = s.health := fun h => ⟨hi ▸ h, hh⟩

theorem State.Keeps.refl (s : State) : s.Keeps s := by constructor <;> first | rfl | exact List.Sublist.refl _ | exact keeps_armed rfl rfl

theorem State.Keeps.trans {s t u : State} (h : s.Keeps t) (g : t.Keeps u) : s.Keeps u := by
  constructor
  · exact g.pending.trans h.pending
  · exact g.variant.trans h.variant
  · exact g.cfg.trans h.cfg
  · exact g.arbiters.trans h.arbiters
  · exact g.sems.trans h.sems
  · exact g.dcache.trans h.dcache
  · exact g.bindCount.trans h.bindCount
  · exact g.tensors.trans h.tensors
  · exact g.progs.trans h.progs
  · exact g.models.trans h.models
  · exact g.accords.trans h.accords
  · exact g.invocations.trans h.invocations
  · exact g.runs.trans h.runs
  · exact g.cores.trans h.cores
  · exact g.events.trans h.events
  · exact g.tpDirty.trans h.tpDirty
  · exact g.tpOwner.trans h.tpOwner
  · exact g.indexes.trans h.indexes
  · exact g.queries.trans h.queries
  · exact g.flash.trans h.flash
  · exact g.fabric.trans h.fabric
  · exact g.cfl.trans h.cfl
  · exact g.sec.trans h.sec
  · exact g.power.trans h.power
  · exact fun a => ⟨(g.armed (h.armed a).1).1, (g.armed (h.armed a).1).2.trans (h.armed a).2⟩
  · exact g.test.trans h.test
  · exact g.commitSeq.trans h.commitSeq
  · exact g.now.trans h.now
  · exact g.freeCount.trans h.freeCount

/-- A fold of operations that keep the rest keeps it. -/
theorem State.Keeps.foldl {α : Type} (f : State → α → State) (hf : ∀ (s : State) x, s.Keeps (f s x)) (l : List α) (s : State) : s.Keeps (l.foldl f s) := by
  induction l generalizing s with
  | nil => exact .refl s
  | cons x l ih => exact (hf s x).trans (ih (f s x))

theorem setQueue_keeps (s : State) (q : QId) (v : Queue) : s.Keeps (s.setQueue q v) := by constructor <;> first | rfl | exact List.Sublist.refl _ | exact keeps_armed rfl rfl

theorem updQueue_keeps (s : State) (q : QId) (f : Queue → Queue) : s.Keeps (s.updQueue q f) := setQueue_keeps s q _

theorem updOutst_keeps (s : State) (id : CmdId) (f : Outst → Outst) : s.Keeps (s.updOutst id f) := by constructor <;> first | rfl | exact List.Sublist.refl _ | exact keeps_armed rfl rfl

theorem markRunning_keeps (s : State) (id : CmdId) : s.Keeps (s.markRunning id) := updOutst_keeps s id _

theorem updCtx_keeps (s : State) (p c : Nat) (f : Ctx → Ctx) : s.Keeps (s.updCtx p c f) := by constructor <;> first | rfl | exact List.Sublist.refl _ | exact keeps_armed rfl rfl

theorem updPart_keeps (s : State) (p : Nat) (f : PartRt → PartRt) : s.Keeps (s.updPart p f) := by constructor <;> first | rfl | exact List.Sublist.refl _ | exact keeps_armed rfl rfl

theorem hostWr_keeps (s : State) (addr : Nat) (bs : Bytes) : s.Keeps (s.hostWr addr bs) := by constructor <;> first | rfl | exact List.Sublist.refl _ | exact keeps_armed rfl rfl

theorem sweep_keeps (s : State) : s.Keeps s.sweep := by constructor <;> first | rfl | exact List.Sublist.refl _ | exact keeps_armed rfl rfl

theorem newHandle_keeps (s : State) (p : Nat) : s.Keeps (s.newHandle p).1 := by constructor <;> first | rfl | exact List.Sublist.refl _ | exact keeps_armed rfl rfl

theorem chargeCmd_keeps (s : State) (id : CmdId) (i n : Nat) : s.Keeps (s.chargeCmd id i n) := updOutst_keeps s id _

theorem chargeBytes_keeps (s : State) (id : CmdId) (i n : Nat) : s.Keeps (s.chargeBytes id i n) :=
  (updOutst_keeps s id _).trans (chargeCmd_keeps _ id i n)

theorem mgmtPush_keeps (s : State) (w d : Nat) : s.Keeps (s.mgmtPush w d) := by
  unfold State.mgmtPush; split <;> constructor <;> first | rfl | exact List.Sublist.refl _ | exact keeps_armed rfl rfl

theorem fireVector_keeps (s : State) (f : Fn) (v : Nat) : s.Keeps (s.fireVector f v) := by
  unfold State.fireVector; split
  · exact .refl s
  · split <;> constructor <;> first | rfl | exact List.Sublist.refl _ | exact keeps_armed rfl rfl

theorem sendIrq_keeps (s : State) (q : QId) : s.Keeps (s.sendIrq q) := by
  unfold State.sendIrq; simp only; split
  · exact .refl s
  · exact (setQueue_keeps s q _).trans (fireVector_keeps _ _ _)

theorem irqCheck_keeps (s : State) (q : QId) : s.Keeps (s.irqCheck q) := by
  unfold State.irqCheck; split
  · exact sendIrq_keeps s q
  · exact .refl s

theorem writeCpl_keeps (s : State) (q : QId) (c : Cpl) : s.Keeps (s.writeCpl q c) := by
  unfold State.writeCpl
  refine State.Keeps.trans ?_ ((setQueue_keeps _ q _).trans (irqCheck_keeps _ q))
  constructor <;> first | rfl | exact List.Sublist.refl _ | exact keeps_armed rfl rfl

theorem post_keeps (s : State) (o : Outst) (c : Cpl) : s.Keeps (s.post o c) := by
  unfold State.post; simp only; split
  · constructor <;> first | rfl | exact List.Sublist.refl _ | exact keeps_armed rfl rfl
  split
  · split
    · exact State.Keeps.trans (by constructor <;> first | rfl | exact List.Sublist.refl _ | exact keeps_armed rfl rfl) (setQueue_keeps _ _ _)
    · constructor <;> first | rfl | exact List.Sublist.refl _ | exact keeps_armed rfl rfl
  · exact State.Keeps.trans (by constructor <;> first | rfl | exact List.Sublist.refl _ | exact keeps_armed rfl rfl) (writeCpl_keeps _ _ _)

theorem deliver_keeps (s : State) (w d : Nat) (q : QId) : s.Keeps (s.deliver w d q) := by
  unfold State.deliver; simp only; split
  · exact .refl s
  · split
    · exact post_keeps s _ _
    · split <;> exact setQueue_keeps s q _

theorem raise_keeps (s : State) (code src detail : Nat) (sc : Scope) : s.Keeps (s.raise code src detail sc) := by
  unfold State.raise; simp only
  refine State.Keeps.trans ?_ (State.Keeps.foldl _ (fun t q => deliver_keeps t _ _ q) _ _)
  split
  · exact mgmtPush_keeps s _ _
  · exact .refl s

/-- Steps that leave alone what `State.Keeps` names beside the health log, one after another. -/
theorem State.Keeps.aside {s t u : State} {e : HealthSt} (h : State.Keeps { s with health := e } t) {e' : HealthSt}
    (g : State.Keeps { t with health := e' } u) : State.Keeps { s with health := e' } u := by
  constructor
  case armed => exact fun a => g.armed (h.armed a).1
  case invocations => exact g.invocations.trans h.invocations
  all_goals first
    | exact g.pending.trans h.pending
    | exact g.variant.trans h.variant
    | exact g.cfg.trans h.cfg
    | exact g.arbiters.trans h.arbiters
    | exact g.sems.trans h.sems
    | exact g.dcache.trans h.dcache
    | exact g.bindCount.trans h.bindCount
    | exact g.tensors.trans h.tensors
    | exact g.progs.trans h.progs
    | exact g.models.trans h.models
    | exact g.accords.trans h.accords
    | exact g.runs.trans h.runs
    | exact g.cores.trans h.cores
    | exact g.events.trans h.events
    | exact g.tpDirty.trans h.tpDirty
    | exact g.tpOwner.trans h.tpOwner
    | exact g.indexes.trans h.indexes
    | exact g.queries.trans h.queries
    | exact g.flash.trans h.flash
    | exact g.fabric.trans h.fabric
    | exact g.cfl.trans h.cfl
    | exact g.sec.trans h.sec
    | exact g.power.trans h.power
    | exact g.test.trans h.test
    | exact g.commitSeq.trans h.commitSeq
    | exact g.now.trans h.now
    | exact g.freeCount.trans h.freeCount

/-- An integrity event is counted in the health log, and leaves the rest alone as an event does (R241). -/
theorem integrity_aside (s : State) (t c : Nat) : ∃ e, State.Keeps { s with health := e } (s.integrity t c) := by
  unfold State.integrity; simp only
  have raised : ∀ (a : State), (∃ e, State.Keeps { s with health := e } a) →
      ∃ e, State.Keeps { s with health := e } (if c = 0 then a else a.raise 1 t c .device) := by
    rintro a ⟨e, h⟩
    exact ⟨e, by split; exacts [h, h.trans (raise_keeps _ _ _ _ _)]⟩
  apply raised
  split
  · exact ⟨_, .refl _⟩
  · split
    · exact ⟨s.health, .refl s⟩
    · exact ⟨_, raise_keeps _ _ _ _ _⟩

/-- Marks that a write leaves are counted, one after another. -/
theorem noteMarks_aside (l : List (Store × Nat)) (s : State) : ∃ e, State.Keeps { s with health := e } (s.noteMarks l) := by
  induction l generalizing s with
  | nil => exact ⟨s.health, .refl s⟩
  | cons k l ih =>
    obtain ⟨e, h⟩ := integrity_aside s (Store.tier k.1) clsPoisoned
    obtain ⟨e', g⟩ := ih (s.integrity (Store.tier k.1) clsPoisoned)
    exact ⟨e', h.aside g⟩

/-- With the health log apart, and no error armed before, a state is kept. -/
theorem State.Keeps.ofAside {s t : State} {e : HealthSt} (h : State.Keeps { s with health := e } t) (ha : s.integ.armed ≠ []) : s.Keeps t := by
  constructor
  case armed => exact fun a => absurd a ha
  case invocations => exact h.invocations
  all_goals first
    | exact h.pending | exact h.variant | exact h.cfg | exact h.arbiters | exact h.sems | exact h.dcache | exact h.bindCount | exact h.tensors | exact h.progs
    | exact h.models | exact h.accords | exact h.runs | exact h.cores | exact h.events | exact h.tpDirty | exact h.tpOwner | exact h.indexes | exact h.queries
    | exact h.flash | exact h.fabric | exact h.cfl | exact h.sec | exact h.power | exact h.test | exact h.commitSeq | exact h.now | exact h.freeCount

theorem fillHeld_keeps (s : State) (n : Nat) (bs : Bytes) : s.Keeps (s.fillHeld n bs) := by
  unfold State.fillHeld; simp only
  refine State.Keeps.trans (t := if ((s.heldOf n).map (·.room)).getD 0 = 0 then s else _) ?_ (by constructor <;> first | rfl | exact List.Sublist.refl _ | exact keeps_armed rfl rfl)
  split
  · exact .refl s
  · by_cases ha : s.integ.armed = []
    · have hm : s.integ.armedMarks (((s.heldOf n).map (·.room)).getD 0) bs.length = [] := by simp [IntegSt.armedMarks, ha]
      simp only [hm, State.noteMarks, List.foldl_nil]
      constructor
      case armed => exact fun _ => ⟨by simp [IntegSt.wrote, IntegSt.inject, ha], rfl⟩
      case invocations => exact List.Sublist.refl _
      all_goals rfl
    · obtain ⟨e, h⟩ := noteMarks_aside (s.integ.armedMarks (((s.heldOf n).map (·.room)).getD 0) bs.length)
        { (s.wr (((s.heldOf n).map (·.room)).getD 0) bs) with integ := s.integ.wrote (((s.heldOf n).map (·.room)).getD 0) bs.length }
      refine State.Keeps.ofAside (e := e) ?_ ha
      refine State.Keeps.trans ?_ h
      constructor
      case armed => exact fun a => absurd a ha
      case invocations => exact List.Sublist.refl _
      all_goals rfl

theorem chargePart_keeps (s : State) (p i n : Nat) : s.Keeps (s.chargePart p i n) := by
  unfold State.chargePart; simp only
  split
  · exact (updPart_keeps s p _).trans (raise_keeps _ _ _ _ _)
  · exact updPart_keeps s p _

theorem chargeDevice_keeps (s : State) (i n : Nat) : s.Keeps (s.chargeDevice i n) := by
  unfold State.chargeDevice; simp only
  split
  · exact State.Keeps.trans (by constructor <;> first | rfl | exact List.Sublist.refl _ | exact keeps_armed rfl rfl) (raise_keeps _ _ _ _ _)
  · constructor <;> first | rfl | exact List.Sublist.refl _ | exact keeps_armed rfl rfl

theorem charge_keeps (s : State) (p c i n : Nat) : s.Keeps (s.charge p c i n) := by
  unfold State.charge; split
  · exact chargeDevice_keeps s i n
  · split
    · exact chargePart_keeps s p i n
    · simp only
      refine State.Keeps.trans ?_ (chargePart_keeps _ p i n)
      split
      · exact (updCtx_keeps s p c _).trans (raise_keeps _ _ _ _ _)
      · exact updCtx_keeps s p c _

theorem chargeQueue_keeps (s : State) (q : QId) (i n : Nat) : s.Keeps (s.chargeQueue q i n) := by
  unfold State.chargeQueue; split
  · exact charge_keeps s _ _ _ _
  · exact .refl s

theorem chargeEntry_keeps (s before : State) (id : CmdId) : s.Keeps (s.chargeEntry before id) := by
  unfold State.chargeEntry; split
  · exact .refl s
  · exact chargeQueue_keeps s _ _ _

theorem flushCharges_keeps (s : State) (id : CmdId) : s.Keeps (s.flushCharges id) := by
  unfold State.flushCharges; split
  · exact State.Keeps.trans (State.Keeps.foldl _ (fun t c => charge_keeps t _ _ _ _) _ _) (updOutst_keeps _ _ _)
  · exact .refl s

theorem alloc_keeps {s t : State} {p home n b : Nat} (h : s.alloc p home n = some (t, b)) : s.Keeps t := by
  unfold State.alloc at h; simp only at h
  split at h
  · cases h
  · split at h
    · cases h
    · cases h; constructor <;> first | rfl | exact List.Sublist.refl _ | exact keeps_armed rfl rfl

theorem reserveRoom_keeps {s t : State} {id : CmdId} {n b : Nat} (h : s.reserveRoom id n = some (t, b)) : s.Keeps t := by
  unfold State.reserveRoom at h
  split at h
  · cases h; exact .refl s
  · split at h
    · cases h; exact .refl s
    · exact alloc_keeps h

theorem addHeld_keeps {s t : State} {o : Outst} {n : Nat} (h : s.addHeld o n = some t) : s.Keeps t := by
  unfold State.addHeld at h
  split at h
  · cases h
  · rename_i u b hr
    cases h
    exact (reserveRoom_keeps hr).trans (by constructor <;> first | rfl | exact List.Sublist.refl _ | exact keeps_armed rfl rfl)

theorem placeResult_keeps (s : State) (o : Outst) (bs : Bytes) : s.Keeps (s.placeResult o bs).1 := by
  unfold State.placeResult; simp only; split
  · constructor <;> first | rfl | exact List.Sublist.refl _ | exact keeps_armed rfl rfl
  · split
    · split
      · exact fillHeld_keeps s _ _
      · split
        · exact .refl s
        · split
          · rename_i h; exact (addHeld_keeps h).trans (fillHeld_keeps _ _ _)
          · exact .refl s
    · exact hostWr_keeps s _ _

theorem endOverrun_keeps (s : State) (o : Outst) : s.Keeps (s.endOverrun o) := by
  unfold State.endOverrun; split
  · exact .refl s
  · simp only; split
    · exact (updCtx_keeps s _ _ _).trans (charge_keeps _ _ _ _ _)
    · exact .refl s

theorem finish1_keeps (s : State) (o : Outst) (st : Status) (det : Nat) (bs : Bytes) : s.Keeps (s.finish1 o st det bs) := by
  unfold State.finish1; simp only
  refine State.Keeps.trans ?_ (sweep_keeps _)
  refine State.Keeps.trans (t := State.chargeEntry (State.post _ o _) _ o.id) ?_ (by constructor <;> first | rfl | exact List.filter_sublist | exact List.Sublist.refl _ | exact keeps_armed rfl rfl)
  refine State.Keeps.trans ?_ (chargeEntry_keeps _ _ _)
  refine State.Keeps.trans ?_ (post_keeps _ _ _)
  refine State.Keeps.trans ?_ (flushCharges_keeps _ _)
  have h := (endOverrun_keeps s ((s.outst? o.id).getD o)).trans (placeResult_keeps _ o bs)
  split
  · exact h.trans (chargeBytes_keeps _ _ _ _)
  · exact h

end Sys2Proof.Machine
end

