-- ==== Sys2Proof/Laws/Mem.lean ====
section
/-!
SUPPORT. Laws of the sparse byte store: reading after writing, and the canonical form that every operation on it keeps.
-/
namespace Sys2Proof.Machine

open Sys2Proof

/-! ### Reading -/

theorem Mem.read_put (d : Byte) (m : Mem) (a b : Nat) (v : Byte) (h : Mem.wfFrom d 0 m = true) :
    Mem.read d (m.put a v) b = if a = b then v else m.read d b := by
  suffices ∀ (m : Mem) (lo : Nat), Mem.wfFrom d lo m = true → Mem.read d (m.put a v) b = if a = b then v else m.read d b from this m 0 h
  intro m
  induction m with
  | nil => intro _ _; simp [Mem.put, Mem.read]
  | cons c r ih =>
    intro lo hw
    obtain ⟨k, x⟩ := c
    simp only [Mem.wfFrom, Bool.and_eq_true, decide_eq_true_eq] at hw
    have hr := ih _ hw.2
    by_cases h1 : a < k
    · simp only [Mem.put, if_pos h1, Mem.read]
    · by_cases h2 : k = a
      · subst h2
        simp only [Mem.put, if_neg h1, Mem.read, if_true]
        split <;> rfl
      · simp only [Mem.put, if_neg h1, if_neg h2, Mem.read, hr]
        by_cases h3 : k = b
        · have h4 : a ≠ b := fun h => h2 (h3.trans h.symm)
          simp [h3, h4]
        · simp [h3]

/-- In a store whose addresses rise from above `a`, address `a` is not listed. -/
theorem Mem.read_below (d : Byte) (m : Mem) (lo a : Nat) (h : Mem.wfFrom d lo m = true) (ha : a < lo) : m.read d a = d := by
  induction m generalizing lo with
  | nil => rfl
  | cons c r ih =>
    obtain ⟨k, x⟩ := c
    simp only [Mem.wfFrom, Bool.and_eq_true, decide_eq_true_eq] at h
    have h1 : k ≠ a := by omega
    simp only [Mem.read, if_neg h1]
    exact ih (k + 1) h.2 (by omega)

theorem Mem.read_drop (d : Byte) (m : Mem) (a b : Nat) (h : Mem.wfFrom d 0 m = true) :
    Mem.read d (m.drop a) b = if a = b then d else m.read d b := by
  suffices ∀ (m : Mem) (lo : Nat), Mem.wfFrom d lo m = true → Mem.read d (m.drop a) b = if a = b then d else m.read d b from this m 0 h
  intro m
  induction m with
  | nil => intro _ _; simp [Mem.drop, Mem.read]
  | cons c r ih =>
    intro lo hw
    obtain ⟨k, x⟩ := c
    simp only [Mem.wfFrom, Bool.and_eq_true, decide_eq_true_eq] at hw
    by_cases h2 : k = a
    · subst h2
      simp only [Mem.drop, if_true, Mem.read]
      by_cases h3 : k = b
      · subst h3; simp [Mem.read_below d r (k + 1) k hw.2 (by omega)]
      · simp [h3]
    · by_cases h1 : a < k
      · simp only [Mem.drop, if_neg h2, if_pos h1, Mem.read]
        by_cases h3 : a = b
        · subst h3
          have := Mem.read_below d r (k + 1) a hw.2 (by omega)
          simp [h2, this]
        · simp [h3]
      · simp only [Mem.drop, if_neg h2, if_neg h1, Mem.read, ih _ hw.2]
        by_cases h3 : k = b
        · have h4 : a ≠ b := fun h => h2 (h3.trans h.symm)
          simp [h3, h4]
        · simp [h3]

/-- Reading after a write: the byte written at its address, and everything else as before. -/
theorem Mem.read_write (d : Byte) (m : Mem) (a b : Nat) (v : Byte) (h : m.wf d = true) :
    Mem.read d (m.write d a v) b = if a = b then v else m.read d b := by
  unfold Mem.write
  split
  · next hv => rw [Mem.read_drop d m a b h, hv]
  · exact Mem.read_put d m a b v h

/-! ### The canonical form -/

theorem Mem.wfFrom_le (d : Byte) (m : Mem) {lo lo' : Nat} (hl : lo ≤ lo') (h : Mem.wfFrom d lo' m = true) : Mem.wfFrom d lo m = true := by
  cases m with
  | nil => rfl
  | cons c r =>
    obtain ⟨k, x⟩ := c
    simp only [Mem.wfFrom, Bool.and_eq_true, decide_eq_true_eq] at h ⊢
    exact ⟨⟨by omega, h.1.2⟩, h.2⟩

theorem Mem.wfFrom_put (d : Byte) (m : Mem) (lo a : Nat) (v : Byte) (hv : v ≠ d) (ha : lo ≤ a) (h : Mem.wfFrom d lo m = true) :
    Mem.wfFrom d lo (m.put a v) = true := by
  induction m generalizing lo with
  | nil => simp [Mem.put, Mem.wfFrom, ha, hv]
  | cons c r ih =>
    obtain ⟨k, x⟩ := c
    simp only [Mem.wfFrom, Bool.and_eq_true, decide_eq_true_eq] at h
    by_cases h1 : a < k
    · simp only [Mem.put, if_pos h1, Mem.wfFrom, Bool.and_eq_true, decide_eq_true_eq]
      exact ⟨⟨ha, hv⟩, ⟨by omega, h.1.2⟩, h.2⟩
    · by_cases h2 : k = a
      · subst h2
        simp only [Mem.put, if_neg h1, if_true, Mem.wfFrom, Bool.and_eq_true, decide_eq_true_eq]
        exact ⟨⟨ha, hv⟩, h.2⟩
      · simp only [Mem.put, if_neg h1, if_neg h2, Mem.wfFrom, Bool.and_eq_true, decide_eq_true_eq]
        exact ⟨h.1, ih (k + 1) (by omega) h.2⟩

theorem Mem.wfFrom_drop (d : Byte) (m : Mem) (lo a : Nat) (h : Mem.wfFrom d lo m = true) : Mem.wfFrom d lo (m.drop a) = true := by
  induction m generalizing lo with
  | nil => rfl
  | cons c r ih =>
    obtain ⟨k, x⟩ := c
    have h' := h
    simp only [Mem.wfFrom, Bool.and_eq_true, decide_eq_true_eq] at h
    by_cases h2 : k = a
    · simp only [Mem.drop, if_pos h2]
      exact Mem.wfFrom_le d r (by omega) h.2
    · by_cases h1 : a < k
      · simp only [Mem.drop, if_neg h2, if_pos h1]; exact h'
      · simp only [Mem.drop, if_neg h2, if_neg h1, Mem.wfFrom, Bool.and_eq_true, decide_eq_true_eq]
        exact ⟨h.1, ih (k + 1) h.2⟩

theorem Mem.wf_write (d : Byte) (m : Mem) (a : Nat) (v : Byte) (h : m.wf d = true) : (m.write d a v).wf d = true := by
  unfold Mem.write
  split
  · exact Mem.wfFrom_drop d m 0 a h
  · next hv => exact Mem.wfFrom_put d m 0 a v hv (by omega) h

theorem Mem.wf_writeN (d : Byte) (bs : Bytes) (m : Mem) (a : Nat) (h : m.wf d = true) : (m.writeN d a bs).wf d = true := by
  induction bs generalizing m a with
  | nil => exact h
  | cons b bs ih => exact ih _ _ (Mem.wf_write d m a b h)

/-- Picking entries keeps the canonical form. -/
theorem Mem.wfFrom_filter (d : Byte) (p : Host.Cell → Bool) (m : Mem) (lo : Nat) (h : Mem.wfFrom d lo m = true) :
    Mem.wfFrom d lo (m.filter p) = true := by
  induction m generalizing lo with
  | nil => rfl
  | cons c r ih =>
    obtain ⟨k, x⟩ := c
    simp only [Mem.wfFrom, Bool.and_eq_true, decide_eq_true_eq] at h
    rw [List.filter_cons]
    split
    · simp only [Mem.wfFrom, Bool.and_eq_true, decide_eq_true_eq]
      exact ⟨h.1, ih (k + 1) h.2⟩
    · exact Mem.wfFrom_le d _ (by omega) (ih (k + 1) h.2)

theorem Mem.wf_clear (d : Byte) (m : Mem) (a n : Nat) (h : m.wf d = true) : (m.clear a n).wf d = true :=
  Mem.wfFrom_filter d _ m 0 h

/-- After a clear the range reads as the default byte, and everything else as before. -/
theorem Mem.read_clear (d : Byte) (m : Mem) (a n b : Nat) :
    Mem.read d (m.clear a n) b = if a ≤ b ∧ b < a + n then d else m.read d b := by
  induction m with
  | nil => simp [Mem.clear, Mem.read]
  | cons c r ih =>
    obtain ⟨k, x⟩ := c
    simp only [Mem.clear, List.filter_cons] at ih ⊢
    by_cases hk : (k < a || a + n ≤ k) = true
    · rw [if_pos hk]
      simp only [Mem.read, ih]
      by_cases h3 : k = b
      · subst h3
        have : ¬(a ≤ k ∧ k < a + n) := by simp only [Bool.or_eq_true, decide_eq_true_eq] at hk; omega
        simp [this]
      · simp [h3]
    · rw [if_neg hk]
      simp only [Mem.read, ih]
      by_cases h3 : k = b
      · subst h3
        have : a ≤ k ∧ k < a + n := by simp only [Bool.or_eq_true, decide_eq_true_eq] at hk; omega
        simp [this]
      · simp [h3]

theorem Mem.readN_length (d : Byte) (m : Mem) (a n : Nat) : (m.readN d a n).length = n := by
  induction n generalizing a with
  | zero => rfl
  | succ n ih => simp [Mem.readN, ih]

/-- A byte after a run has been written: the run's byte inside it, as before outside it. -/
theorem Mem.read_writeN (d : Byte) (bs : Bytes) (m : Mem) (a b : Nat) (h : m.wf d = true) :
    Mem.read d (m.writeN d a bs) b = if a ≤ b ∧ b < a + bs.length then bs.getD (b - a) 0 else m.read d b := by
  induction bs generalizing m a with
  | nil => rw [if_neg (by simp only [List.length_nil]; omega)]; rfl
  | cons x bs ih =>
    simp only [Mem.writeN, List.length_cons]
    rw [ih _ (a + 1) (Mem.wf_write d m a x h), Mem.read_write d m a b x h]
    by_cases h1 : a = b
    · subst h1
      have h2 : ¬(a + 1 ≤ a ∧ a < a + 1 + bs.length) := by omega
      have h3 : a ≤ a ∧ a < a + (bs.length + 1) := by omega
      rw [if_neg h2, if_pos h3]; simp
    · by_cases h2 : a + 1 ≤ b ∧ b < a + 1 + bs.length
      · have h3 : a ≤ b ∧ b < a + (bs.length + 1) := by omega
        obtain ⟨e, he⟩ : ∃ e, b - a = e + 1 := ⟨b - a - 1, by omega⟩
        have h4 : b - (a + 1) = e := by omega
        rw [if_pos h2, if_pos h3, he, h4]; simp
      · have h3 : ¬(a ≤ b ∧ b < a + (bs.length + 1)) := by omega
        rw [if_neg h2, if_neg h1, if_neg h3]

theorem Mem.wfFrom_map_shift (d : Byte) (m : Mem) (lo a b : Nat) (ha : a ≤ lo) (h : Mem.wfFrom d lo m = true) :
    Mem.wfFrom d (lo - a + b) (m.map (fun c => (c.1 - a + b, c.2))) = true := by
  induction m generalizing lo with
  | nil => rfl
  | cons c r ih =>
    obtain ⟨k, x⟩ := c
    simp only [Mem.wfFrom, Bool.and_eq_true, decide_eq_true_eq, List.map_cons] at h ⊢
    refine ⟨⟨by omega, h.1.2⟩, ?_⟩
    have := ih (k + 1) (by omega) h.2
    have e : k + 1 - a + b = k - a + b + 1 := by omega
    rwa [e] at this

theorem Mem.wfFrom_raise (d : Byte) (m : Mem) (lo a : Nat) (h : Mem.wfFrom d lo m = true) (hall : ∀ c ∈ m, a ≤ c.1) :
    Mem.wfFrom d a m = true := by
  cases m with
  | nil => rfl
  | cons c r =>
    obtain ⟨k, x⟩ := c
    simp only [Mem.wfFrom, Bool.and_eq_true, decide_eq_true_eq] at h ⊢
    exact ⟨⟨hall (k, x) (by simp), h.1.2⟩, h.2⟩

/-- A range moved to another address keeps the canonical form. -/
theorem Mem.wf_moved (d : Byte) (m : Mem) (a n b : Nat) (h : m.wf d = true) : (m.moved a n b).wf d = true := by
  have h1 := Mem.wfFrom_filter d (fun c => decide (a ≤ c.1) && decide (c.1 < a + n)) m 0 h
  have h2 := Mem.wfFrom_raise d _ 0 a h1 (fun c hc => by
    simp only [List.mem_filter, Bool.and_eq_true, decide_eq_true_eq] at hc; exact hc.2.1)
  exact Mem.wfFrom_le d _ (Nat.zero_le _) (Mem.wfFrom_map_shift d _ a a b (Nat.le_refl a) h2)

theorem Mem.wfFrom_append (d : Byte) (m n : Mem) (lo hi : Nat) (h1 : Mem.wfFrom d lo m = true) (h2 : Mem.wfFrom d hi n = true)
    (hlt : ∀ c ∈ m, c.1 < hi) (hlo : lo ≤ hi) : Mem.wfFrom d lo (m ++ n) = true := by
  induction m generalizing lo with
  | nil => exact Mem.wfFrom_le d n hlo h2
  | cons c r ih =>
    obtain ⟨k, x⟩ := c
    simp only [Mem.wfFrom, Bool.and_eq_true, decide_eq_true_eq, List.cons_append] at h1 ⊢
    have hk : k < hi := hlt (k, x) (by simp)
    exact ⟨h1.1, ih (k + 1) h1.2 (fun c hc => hlt c (by simp [hc])) (by omega)⟩

/-- A range replaced by entries that lie in it keeps the canonical form. -/
theorem Mem.wf_replace (d : Byte) (m src : Mem) (a n : Nat) (h : m.wf d = true) (hs : Mem.wfFrom d a src = true) (hin : ∀ c ∈ src, c.1 < a + n) :
    (Mem.replace m a n src).wf d = true := by
  have h1 := Mem.wfFrom_filter d (fun c => decide (c.1 < a)) m 0 h
  have h2 := Mem.wfFrom_filter d (fun c => decide (a + n ≤ c.1)) m 0 h
  have h3 := Mem.wfFrom_raise d _ 0 (a + n) h2 (fun c hc => by
    simp only [List.mem_filter, decide_eq_true_eq] at hc; exact hc.2)
  have h4 := Mem.wfFrom_append d _ src 0 a h1 hs (fun c hc => by
    simp only [List.mem_filter, decide_eq_true_eq] at hc; exact hc.2) (Nat.zero_le _)
  exact Mem.wfFrom_append d _ _ 0 (a + n) h4 h3 (fun c hc => by
    rw [List.mem_append] at hc
    rcases hc with hc | hc
    · simp only [List.mem_filter, decide_eq_true_eq] at hc; omega
    · exact hin c hc) (Nat.zero_le _)

/-- The `i`-th byte of a run that is read. -/
theorem Mem.readN_getElem? (d : Byte) (m : Mem) (a n i : Nat) (h : i < n) : (m.readN d a n)[i]? = some (m.read d (a + i)) := by
  induction n generalizing a i with
  | zero => omega
  | succ n ih =>
    cases i with
    | zero => simp [Mem.readN]
    | succ i =>
      simp only [Mem.readN, List.getElem?_cons_succ]
      rw [ih (a + 1) i (by omega)]
      congr 2; omega

/-- A run that has just been written is read back. -/
theorem Mem.readN_writeN (d : Byte) (bs : Bytes) (m : Mem) (a : Nat) (h : m.wf d = true) : (m.writeN d a bs).readN d a bs.length = bs := by
  apply List.ext_getElem?
  intro i
  by_cases hi : i < bs.length
  · rw [Mem.readN_getElem? d _ a _ i hi, Mem.read_writeN d bs m a (a + i) h, if_pos ⟨by omega, by omega⟩]
    simp [hi]
  · rw [List.getElem?_eq_none (by rw [Mem.readN_length]; omega), List.getElem?_eq_none (by omega)]

end Sys2Proof.Machine
end

