-- ==== Sys2Proof/Laws/Start.lean ====
section
/-!
SUPPORT. What starting a command can do, said once: the laws by which a proof about a packet command reads its meaning without unfolding
`State.startCmd`.
-/
namespace Sys2Proof.Machine

open Sys2Proof

/-! ### The checks of R529 -/

@[simp] theorem need_true (st : Status) (d : Nat) : need true st d = .ok () := rfl

theorem need_false (st : Status) (d : Nat) : need false st d = .error { status := st, detail := d } := rfl

theorem need_of {c : Bool} (h : c = true) (st : Status) (d : Nat) : need c st d = .ok () := by subst h; rfl

theorem need_ok_iff (c : Bool) (st : Status) (d : Nat) : need c st d = .ok () ↔ c = true := by
  cases c <;> simp [need, failWith]

theorem noHold_of {o : Outst} (h : o.hold = false) : noHold o = .ok () := by simp [noHold, h]

theorem noHold_held {o : Outst} (h : o.hold = true) : noHold o = .error { status := .paramInvalid, detail := 0x01 } := by
  simp [noHold, h, need, failWith]

theorem needIbuf_of {o : Outst} {n : Nat} (h : n ≤ o.ibufLen) : needIbuf o n = .ok () := by simp [needIbuf, h]

theorem needRbuf_of {o : Outst} {n : Nat} (h : (o.hold || decide (n ≤ o.rbufLen)) = true) : needRbuf o n = .ok () := by
  simp only [needRbuf, h, need_true]

theorem takeIbuf_of {s : State} {o : Outst} {n : Nat} (h : s.hostBad o.ibuf n = false) :
    s.takeIbuf o n = .ok (s.chargeBytes o.id 16 n, s.hostRd o.ibuf n) := by
  simp [State.takeIbuf, State.ibuf, h, bind, Except.bind]

@[simp] theorem bind_ok {α β : Type} (a : α) (f : α → Chk β) : ((Except.ok a : Chk α) >>= f) = f a := rfl

@[simp] theorem bind_error {α β : Type} (e : Fail) (f : α → Chk β) : ((Except.error e : Chk α) >>= f) = .error e := rfl

/-! ### Which command may start -/

theorem startable_spec {s : State} {id : CmdId} {c : Instr} {o : Outst} (h : s.startable id c = some o) :
    s.outst? id = some o ∧ o.cmd = c ∧ o.phase = .waiting ∧ o.ready s.host.outst = true := by
  unfold State.startable at h
  split at h
  · cases h
  · rename_i o' ho
    split at h
    · rename_i hc
      cases h
      simp only [Bool.and_eq_true, decide_eq_true_eq] at hc
      exact ⟨ho, hc.1.1, hc.1.2, hc.2⟩
    · cases h

theorem outst?_id {s : State} {id : CmdId} {o : Outst} (h : s.outst? id = some o) : o.id = id := by
  simpa using List.find?_some h

theorem startable_id {s : State} {id : CmdId} {c : Instr} {o : Outst} (h : s.startable id c = some o) : o.id = id :=
  outst?_id (startable_spec h).1

/-! ### The outcomes of a start -/

variable {s : State} {id : CmdId} {c : Instr} {o : Outst} {body : State → Outst → Chk (State × Done)}

/-- A command that is not waiting to start is left alone. -/
theorem startCmd_none (h : s.startable id c = none) : s.startCmd id c body = s := by
  simp only [State.startCmd, h]

/-- A command whose body completes ends, with its result. -/
theorem startCmd_now {t : State} {st : Status} {det : Nat} {bs : Bytes} (h : s.startable id c = some o)
    (hb : body s o = .ok (t, .now st det bs)) : s.startCmd id c body = s.ends t o st det bs := by
  simp only [State.startCmd, h, hb, State.ends] <;> rfl

/-- A command whose body runs on is marked as running. -/
theorem startCmd_runs {t : State} {room : Nat} (h : s.startable id c = some o) (hb : body s o = .ok (t, .runs room)) :
    s.startCmd id c body = s.goesOn t o room := by
  simp only [State.startCmd, h, hb, State.goesOn, startable_id h] <;> rfl

/-- A command whose body waits is left to try again. -/
theorem startCmd_waits {t : State} (h : s.startable id c = some o) (hb : body s o = .ok (t, .waits)) : s.startCmd id c body = s := by
  simp only [State.startCmd, h, hb]

/-- A failed check completes the command with its status and DETAIL. -/
theorem startCmd_error {f : Fail} (h : s.startable id c = some o) (hb : body s o = .error f) :
    s.startCmd id c body = s.refuses o f := by
  simp only [State.startCmd, h, hb, State.refuses, startable_id h] <;> rfl

/-- Everything that starting a command can do. -/
theorem startCmd_cases : s.startCmd id c body = s ∨ ∃ o, s.startable id c = some o ∧
    ((∃ f, body s o = .error f ∧ s.startCmd id c body = s.refuses o f) ∨
     (∃ t st det bs, body s o = .ok (t, .now st det bs) ∧ s.startCmd id c body = s.ends t o st det bs) ∨
     (∃ t room, body s o = .ok (t, .runs room) ∧ s.startCmd id c body = s.goesOn t o room)) := by
  cases h : s.startable id c with
  | none => exact .inl (startCmd_none h)
  | some o =>
    cases hb : body s o with
    | error f => exact .inr ⟨o, rfl, .inl ⟨f, hb, startCmd_error h hb⟩⟩
    | ok r =>
      obtain ⟨t, d⟩ := r
      cases d with
      | now st det bs => exact .inr ⟨o, rfl, .inr (.inl ⟨t, st, det, bs, hb, startCmd_now h hb⟩)⟩
      | runs room => exact .inr ⟨o, rfl, .inr (.inr ⟨t, room, hb, startCmd_runs h hb⟩)⟩
      | waits => exact .inl (startCmd_waits h hb)

theorem ends_plain {t : State} (h : o.hold = false) (st : Status) (det : Nat) (bs : Bytes) : s.ends t o st det bs = t.complete o st det bs := by
  simp [State.ends, State.holdRoom, h]

theorem goesOn_plain {t : State} (h : o.hold = false) (room : Nat) : s.goesOn t o room = t.markRunning o.id := by
  simp [State.goesOn, State.holdRoom, h]

/-- A configuration-changing command whose turn it is starts as any other (R39). -/
theorem startConfig_turn (h : s.startable id c = some o) (ht : s.configTurn o = true) :
    s.startConfig id c body = s.startCmd id c body := by
  simp only [State.configTurn, Bool.and_eq_true, Bool.not_eq_true'] at ht
  simp [State.startConfig, (startable_spec h).1, ht.1, ht.2]

/-- A command on a namespace that R566 does not hold starts as any other. -/
theorem startNs_free {ns : Nat} (h : s.nsHeld ns = false) : s.startNs id ns c body = s.startCmd id c body := by
  simp [State.startNs, h]

/-- The identifier checks of a namespace, once they pass. -/
theorem nsIdent_of {ns : Nat} {x : Ns} (h : s.nsOpen o ns x = true) : s.nsIdent o ns = .ok x := by
  simp only [State.nsOpen, Bool.and_eq_true, decide_eq_true_eq] at h
  simp only [State.nsIdent, h.1.1.1.2, h.1.1.2, need_true, bind_ok]

/-- The checks of an NSID alone, once they pass. -/
theorem nsNamed_of {ns : Nat} {x : Ns} (h : s.nsOpen o ns x = true) : s.nsNamed o ns = .ok x := by
  have hi := nsIdent_of h
  simp only [State.nsOpen, Bool.and_eq_true] at h
  simp only [State.nsNamed, hi, State.nsUnlocked, need_of h.1.2, bind_ok]

/-- The checks of a namespace of a type, once they pass. -/
theorem nsIs_of {ns : Nat} {x : Ns} (h : s.nsOpen o ns x = true) : s.nsIs x x.type = .ok () := by
  simp only [State.nsOpen, Bool.and_eq_true] at h
  simp only [State.nsIs, State.nsUnlocked, need_of h.1.2, need_of h.2, beq_self_eq_true, need_true, bind_ok]

theorem nsOpen_free {ns : Nat} {x : Ns} (h : s.nsOpen o ns x = true) : s.nsHeld ns = false := by
  simp only [State.nsOpen, Bool.and_eq_true, Bool.not_eq_true'] at h
  exact h.1.1.1.1

/-! ### The issue of a step -/

/-- A step that is its core's next and may issue is issued, and its effect follows (R194, R200). -/
theorem issue_of {s : State} {flat : Nat} {k : StepKind} {r : Run} {c : CoreRun} (h : s.nextStep flat k r c = true)
    (eff : State → Run → CoreRun → State) : s.issue flat k eff = eff (s.issued flat k r c) r c := by
  simp only [State.nextStep, Bool.and_eq_true, decide_eq_true_eq] at h
  obtain ⟨⟨h1, h2⟩, h3⟩ := h
  unfold State.issue
  simp only [h1, h2]
  cases hw : (r.img.steps.getD (r.coreNo flat) [])[c.pc]? with
  | none => rw [hw] at h3; simp at h3
  | some w =>
    rw [hw] at h3
    simp only [Option.map_some, Option.getD_some] at h3
    simp only [h3, if_true]; rfl

end Sys2Proof.Machine
end

