-- ==== Sys2Proof/Tests/Slice0.lean ====
section
/-!
SUPPORT. Checks of the model on small states: ill-formed terms that `Instr.wf` refuses, words and packets written out by hand from the manual's tables, one step
or so of each family with the manual's result, and for each statement a state and operands that meet its hypotheses together.
-/
set_option Elab.async false

namespace Sys2Proof.Tests

open Sys2Proof Sys2Proof.Machine

/-! ### Small states -/

/-- The command of an admin queue, and one of I/O queue 0 (partition 0, context 0). -/
def adm : CmdId := { queue := .admin 0, tag := 3 }
def io : CmdId := { queue := .io 0, tag := 3 }

/-- A fetched command that waits to start, with its buffers at 0x1000 and 0x8000. -/
def waiting (id : CmdId) (c : Instr) : Outst :=
  { id := id, cmd := c, ordered := false, hold := false, noIrq := false, ibuf := 0x1000, ibufLen := 65536, rbuf := 0x8000, rbufLen := 65536
    serial := 5, rung := (0, 31), deps := [], depFailed := none, phase := .waiting, failed := false, cplIndex := 0, sliceKills := 0, faultKills := 0
    poisonKills := [], readyAt := 0, engineNs := 0, energyMj := 0, movedBytes := 0, again := false, charges := [] }

/-- A command that has started. -/
def started (id : CmdId) (c : Instr) : Outst := { waiting id c with phase := .running }

def withOut (s : State) (os : List Outst) : State := { s with host := { s.host with outst := os } }

/-- A state in which just this command waits. -/
def given (s : State) (id : CmdId) (c : Instr) : State := withOut s [waiting id c]

/-- Host memory that holds these bytes at the input buffer. -/
def withBuf (s : State) (bs : Bytes) : State := { s with host := { s.host with mem := Mem.writeN 0 [] 0x1000 bs } }

/-- Whether a check passes. -/
def passes {α : Type} (x : Chk α) : Bool :=
  match x with
  | .ok _ => true
  | .error _ => false

def z : State := State.reset

/-- The package after its start-up and replay: every die in service, every readiness state set. -/
def up : State :=
  { z with power := { z.power with pwrgd := true, powered := true, adminReady := true, storageReady := true, computeReady := true, fabricReady := true
                                   diesInService := List.range 8, opp := 3, wpN := true } }

/-- Whether a command that waits as `waiting` builds it may start. -/
def starts (s : State) (id : CmdId) (c : Instr) : Bool := decide (s.startable id c = some (waiting id c))

/-- A context 0 of partition 0, a data slot that counts as dirty, a namespace of each type. -/
def ctx0 : Ctx := Ctx.fresh 0 0 1 0
def slotOf (ns unit sid : Nat) (seq : Option Nat) : Slot :=
  { sid := sid, ns := ns, unit := unit, owner := io, seq := seq, commitAt := 0, programming := none, mirror := false, verified := false, grp := 0, mask := 15, poison := 0 }
def nsOf (n type objects : Nat) : Ns := { nsid := n, type := type, capacity := 1024, op := 12, encrypt := false, objects := objects, keyGen := 0, keyLost := false }

/-- What stands in the input buffer is read from it. -/
theorem buf_read (s : State) (bs : Bytes) (n : Nat) (h : bs.length = n) : (withBuf s bs).hostRd 0x1000 n = bs := by
  subst h; exact Mem.readN_writeN 0 bs [] 0x1000 rfl

/-- Hold-up energy for the whole dirty ceiling. -/
def holdUp (s : State) : State :=
  { s with cfg := { s.cfg with recA := some { factoryRec .nk8 with holdupEnergy := 100000 }, inForce := { s.cfg.inForce with holdupEnergy := 100000 } } }

/-- Partition 0 with context 0 and its namespaces: 1 of blocks, 2 of objects, 3 an index. -/
def store : State := { holdUp up with ctxs := [ctx0], flash := { up.flash with ns := [nsOf 1 0 0, nsOf 2 1 256, nsOf 3 2 0] } }

/-! ### Witnesses: admin, configuration and context commands -/

theorem test_w_nop : starts (given up adm (.nop adm)) adm (.nop adm) = true := by decide
theorem test_w_cfgRead : starts (given up adm (.cfgRead adm)) adm (.cfgRead adm) = true := by decide
theorem test_w_storeTune : starts (given up adm (.storeTune adm 4 1)) adm (.storeTune adm 4 1) = true ∧ tuneOk 4 1 = true := by decide
theorem test_w_setOpp : let c : Instr := .setOpp adm 3
    let s := given up adm c
    s.configTurn (waiting adm c) = true ∧ starts s adm c = true ∧ minWait 3 ≤ (waiting adm c).rung.2 := by decide

/-- A CFG_WRITE of a record, over some write-buffer slots. -/
def cfgGiven (r : Rec) (slots : List Slot) : State :=
  let s := withBuf (given up adm (.cfgWrite adm)) r.bytes
  { s with flash := { s.flash with slots := slots } }

/-- A sound record with this package cap. -/
def recCap (cap : Nat) : Rec := { factoryRec .nk8 with pkgPowerCap := cap }

def cfgStarts (cap : Nat) (slots : List Slot) : Bool :=
  let s := cfgGiven (recCap cap) slots
  let u := s.chargeBytes adm 16 512
  s.configTurn (waiting adm (.cfgWrite adm)) && starts s adm (.cfgWrite adm) && !s.hostBad 0x1000 512 && passes (u.checkProtected (recCap cap)) && passes (u.checkRecord (recCap cap))

def cfgAdopted (cap : Nat) (slots : List Slot) : State := ((cfgGiven (recCap cap) slots).chargeBytes adm 16 512).adoptRecord (recCap cap)

set_option maxRecDepth 100000 in
theorem test_record_sound : recFault (recCap 0).bytes = none ∧ recOf (recCap 0).bytes = recCap 0 := by decide +kernel
set_option maxRecDepth 100000 in
theorem test_record_cap_sound : recFault (recCap 4000).bytes = none ∧ recOf (recCap 4000).bytes = recCap 4000 := by decide +kernel
set_option maxRecDepth 100000 in
theorem test_w_cfgWrite_now : (cfgGiven (recCap 0) []).hostRd 0x1000 512 = (recCap 0).bytes ∧ cfgStarts 0 [] = true ∧
    (cfgGiven (recCap 0) []).capsNow = (cfgAdopted 0 []).capsNow ∧ (cfgAdopted 0 []).dirtyPieces ≤ (cfgAdopted 0 []).ceilingPieces :=
  ⟨buf_read _ _ _ (by decide +kernel), by decide +kernel⟩
set_option maxRecDepth 100000 in
theorem test_w_cfgWrite_cap : (cfgGiven (recCap 4000) []).hostRd 0x1000 512 = (recCap 4000).bytes ∧ cfgStarts 4000 [] = true ∧
    (cfgGiven (recCap 4000) []).capsNow ≠ (cfgAdopted 4000 []).capsNow ∧ (cfgAdopted 4000 []).dirtyPieces ≤ (cfgAdopted 4000 []).ceilingPieces :=
  ⟨buf_read _ _ _ (by decide +kernel), by decide +kernel⟩
set_option maxRecDepth 100000 in
theorem test_w_cfgWrite_dirty : (cfgGiven (recCap 0) [slotOf 1 0 0 (some 3)]).hostRd 0x1000 512 = (recCap 0).bytes ∧ cfgStarts 0 [slotOf 1 0 0 (some 3)] = true ∧
    (cfgGiven (recCap 0) [slotOf 1 0 0 (some 3)]).capsNow = (cfgAdopted 0 [slotOf 1 0 0 (some 3)]).capsNow ∧
    (cfgAdopted 0 [slotOf 1 0 0 (some 3)]).ceilingPieces < (cfgAdopted 0 [slotOf 1 0 0 (some 3)]).dirtyPieces :=
  ⟨buf_read _ _ _ (by decide +kernel), by decide +kernel⟩

/-- A second partition's entry: one cluster of die 7, whose cluster partition 0 gives up first. -/
def entry1 : PEntry := { clusterMask := 2 ^ 31, nmQuota := 0, tpBankMask := 0xFFFF, nsMask := 0, ctxMax := 16, prioCeil := 3, slice := 200, valid := 1 }
def entry0 : PEntry := { factoryEntry .nk8 with clusterMask := 2 ^ 31 - 1 }
def recTwo : Rec := { factoryRec .nk8 with parts := entry0 :: List.replicate 7 {} }
def shared (s : State) : State :=
  { s with cfg := { s.cfg with recA := some recTwo, inForce := { s.cfg.inForce with parts := recTwo.parts } } }

set_option maxRecDepth 100000 in
theorem test_w_partCreate : let c : Instr := .partCreate adm 7
    let s := withBuf (given (shared up) adm c) entry1.bytes
    let u := s.chargeBytes adm 16 48
    s.configTurn (waiting adm c) = true ∧ starts s adm c = true ∧ s.hostBad 0x1000 48 = false ∧ s.layoutPending = false ∧
      entryFault (s.hostRd 0x1000 48) = none ∧ (pEntryOf (s.hostRd 0x1000 48)).valid = 1 ∧
      s.test.bist = [] ∧ passes (u.checkRecord (s.stored.withEntry 7 (pEntryOf (s.hostRd 0x1000 48)))) = true ∧ s.hasPart 7 = false := by decide +kernel
set_option maxRecDepth 100000 in
theorem test_w_partModify : let c : Instr := .partModify adm 0
    let s := withBuf (given (shared up) adm c) entry0.bytes
    let u := s.chargeBytes adm 16 48
    let r := s.stored.withEntry 0 (pEntryOf (s.hostRd 0x1000 48))
    s.configTurn (waiting adm c) = true ∧ starts s adm c = true ∧ s.hostBad 0x1000 48 = false ∧ s.layoutPending = false ∧
      entryFault (s.hostRd 0x1000 48) = none ∧ (pEntryOf (s.hostRd 0x1000 48)).valid = 1 ∧
      s.test.bist = [] ∧ passes (u.checkRecord r) = true ∧ s.hasPart 0 = true ∧ u.capsNow = (u.adoptRecord r).capsNow ∧
      (u.adoptRecord r).dirtyPieces ≤ (u.adoptRecord r).ceilingPieces := by decide +kernel
set_option maxRecDepth 100000 in
theorem test_w_partDestroy : let c : Instr := .partDestroy adm 0
    let s := given up adm c
    s.configTurn (waiting adm c) = true ∧ starts s adm c = true ∧ s.hasPart 0 = true ∧ s.layoutPending = false ∧
      passes (s.checkRecord (s.stored.withEntry 0 {})) = true := by decide +kernel

/-- Partition 0 with its contexts 0 to 14, so that 15 is the lowest free one. -/
def ctxs15 (s : State) : State := { s with ctxs := (List.range 15).map (fun k => Ctx.fresh 0 k 1 0) }

theorem test_w_ctxCreate_last : let c : Instr := .ctxCreate adm 0 3
    let s := given (ctxs15 up) adm c
    s.hasPart 0 = true ∧ starts s adm c = true ∧ 15 < (s.entry 0).ctxMax ∧ s.ctx? 0 15 = none ∧ (∀ k < 15, s.ctx? 0 k ≠ none) := by decide +kernel
theorem test_w_ctxStatus : let c : Instr := .ctxStatus adm 0 14
    let s := given (ctxs15 up) adm c
    starts s adm c = true ∧ (s.ctx? 0 14).isSome = true := by decide +kernel
theorem test_w_ctxDestroy : let c : Instr := .ctxDestroy adm 0 14
    let s := given (ctxs15 up) adm c
    starts s adm c = true ∧ (s.ctx? 0 14).isSome = true ∧ s.holdsCommand (.io 14) = false := by decide +kernel
theorem test_w_ctxModify : let c : Instr := .ctxModify adm 0 14 3
    let s := given (ctxs15 up) adm c
    starts s adm c = true ∧ (s.ctx? 0 14).isSome = true := by decide +kernel
theorem test_w_ctxFlagsClear : let c : Instr := .ctxFlagsClear adm 0 14 31
    let s := given (ctxs15 up) adm c
    starts s adm c = true ∧ (s.ctx? 0 14).isSome = true := by decide +kernel

/-! ### Witnesses: block commands -/


theorem test_w_blockRead : let c : Instr := .blockRead io 1 1023 1
    let s := given store io c
    starts s io c = true ∧ s.nsOpen (waiting io c) 1 (nsOf 1 0 0) = true ∧ passes (s.readBlocks 1 1023 1) = true := by decide +kernel
theorem test_w_blockWrite : let c : Instr := .blockWrite io 1 1023 1
    let s := given store io c
    starts s io c = true ∧ s.nsOpen (waiting io c) 1 (nsOf 1 0 0) = true ∧ s.flash.readOnly = false ∧ passes (s.dirtyFits (unitsOf 1023 1).length) = true ∧
      s.writesHeld = false ∧ s.roomFor (unitsOf 1023 1) = true ∧ s.hostBad 0x1000 4096 = false := by decide +kernel
theorem test_w_blockTrim : let c : Instr := .blockTrim io 1 1023 1
    let s := given store io c
    starts s io c = true ∧ s.nsOpen (waiting io c) 1 (nsOf 1 0 0) = true ∧ passes (s.dirtyFits (partialUnits 1023 1).length) = true ∧
      s.roomFor (partialUnits 1023 1) = true := by decide +kernel
theorem test_w_storeFlush_none : let c : Instr := .storeFlush io
    let s := given store io c
    starts s io c = true ∧ s.flash.slots.all (fun x => x.seq.isNone) = true := by decide +kernel
theorem test_w_storeFlush_some : let c : Instr := .storeFlush io
    let s := given { store with flash := { store.flash with slots := [slotOf 1 0 0 (some 3)] } } io c
    starts s io c = true ∧ s.flash.slots.any (fun x => x.seq.isSome) = true := by decide +kernel

/-! ### Witnesses: namespaces and objects -/

/-- A fitted, profiled channel group 0. -/
def prof : Profile :=
  { matchId := 1, model := [], cell := 3, planes := 4, spare := 2048, blocks := 128, ppb := 16, peRated := 3000, peRatedSlc := 30000, parity := 0, retryLevels := 4
    softFrom := 3, readRefresh := 1000, mts := 2400, tRead := 60, tProg := 500, tErase := 5000, tSuspend := 20, refreshBits := 40, retryTable := [] }
def nand (s : State) : State :=
  { s with flash := { s.flash with fits := [{ channels := List.replicate 16 [(1, [])] }], profile := [(0, prof)], groupState := [1, 0, 0, 0, 0, 0, 0, 0] }
           power := { s.power with groupsInUse := [0] } }

theorem test_w_nsCreate : let c : Instr := .nsCreate io 5 1 50 1 4 2
    let s := given (nand store) io c
    starts s io c = true ∧ s.nsHeld 5 = false ∧ s.nsOwner 5 = some 0 ∧ s.ns? 5 = none ∧ s.flash.allocated + nsTakes 4 50 ≤ s.flash.dataCapacity := by decide +kernel
theorem test_w_nsDestroy : let c : Instr := .nsDestroy io 1
    let s := given store io c
    starts s io c = true ∧ s.nsHeld 1 = false ∧ passes (s.nsNamed (waiting io c) 1) = true ∧ s.indexBusy 1 = false ∧
      s.host.outst.all (fun y => y.id = io || y.phase == .posted || !s.cmdNames 1 y.cmd) = true := by decide +kernel
theorem test_w_objCreate : let c : Instr := .objCreate io 2 0 255 4096
    let s := given (nand store) io c
    starts s io c = true ∧ s.nsOpen (waiting io c) 2 (nsOf 2 1 256) = true ∧ s.obj? 2 255 = none ∧ s.flash.readOnly = false ∧ s.pendingObjs = [] ∧
      (s.newExtent (nsOf 2 1 256) 255 4096 false).any (fun n =>
        (({ s with commitSeq := nextSeq s.commitSeq, flash := { s.flash with objs := s.flash.objs ++ [n] } } : State).writeThrough s.commitSeq 2 0 1
          (tableBlock 2 0 (s.flash.objs ++ [n]))).isSome) = true := by decide +kernel
theorem test_w_objCreate_waits : let s := given store io (.objCreate io 2 0 255 4096)
    (s.newExtent (nsOf 2 1 256) 255 4096 false).any (fun n =>
      (({ s with commitSeq := nextSeq s.commitSeq, flash := { s.flash with objs := s.flash.objs ++ [n] } } : State).writeThrough s.commitSeq 2 0 1
        (tableBlock 2 0 (s.flash.objs ++ [n]))).isNone) = true := by decide +kernel

/-- Object 7 of namespace 2: 8,192 bytes from block 4. -/
def objects : State := { store with flash := { store.flash with objs := [{ ns := 2, obj := 7, first := 4, length := 8192, redundant := false }] } }
def objWriter (c : Instr) : Outst := { waiting io c with ibufLen := 4096 }

theorem test_w_objWrite : let c : Instr := .objWrite io 2 7 4096
    let s := withOut objects [objWriter c]
    let us := unitsOf (4 + 1) 1
    s.startable io c = some (objWriter c) ∧ s.nsOpen (objWriter c) 2 (nsOf 2 1 256) = true ∧ (s.obj? 2 7).isSome = true ∧ 4096 + 4096 ≤ 8192 ∧
      s.flash.readOnly = false ∧ s.hostBad 0x1000 4096 = false ∧ s.writesHeld = false ∧ passes (s.dirtyFits us.length) = true ∧ s.roomFor us = true := by decide +kernel
theorem test_w_objWrite_whole (o : Obj) (s : State) (bs : Bytes) (h : bs.length = 4096) : s.objBlocks o 4096 bs = .ok (1, bs) := by
  simp [State.objBlocks, h, ceilDiv]
theorem test_w_objRead : let c : Instr := .objRead io 2 7 8191 1
    let s := given objects io c
    starts s io c = true ∧ s.nsOpen (waiting io c) 2 (nsOf 2 1 256) = true ∧ (s.obj? 2 7).isSome = true ∧ passes (s.readNsBytes 2 (4096 * 4 + 8191) 1) = true := by decide +kernel
theorem test_w_objDelete : let c : Instr := .objDelete io 2 7
    let s := given objects io c
    let us := partialUnits 4 2 ++ unitsOf (7 / 256) 1
    starts s io c = true ∧ s.nsOpen (waiting io c) 2 (nsOf 2 1 256) = true ∧ (s.obj? 2 7).isSome = true ∧ passes (s.dirtyFits us.length) = true ∧ s.roomFor us = true := by
  decide +kernel

/-! ### Witnesses: tensors -/

/-- A near-memory tensor of 64 I8 elements with its statistics, and one that is staged on flash. -/
def descAt (h base : Nat) : Desc :=
  { handle := h, state := 1, tier := 1, format := 6, rank := 1, flags := 4, channels := 1, base := base, extent := [64, 1, 1, 1, 1], stride := [0, 0, 0, 0, 0]
    statsBase := base + 65536, bytes := 64 }
def tensAt (h base : Nat) : Tensor := { desc := descAt h base, home := 0, dirty := [], staged := false, lastBound := 0 }
def flashTens (h base : Nat) (staged : Bool) (dirty : List (Nat × Nat × Nat)) : Tensor :=
  { desc := { descAt h base with tier := 3, flags := 0, statsBase := 0, backing := 2 + 256 * 7 }, home := 0, dirty := dirty, staged := staged, lastBound := 0 }

def tensors : State :=
  { store with tensors := [tensAt 0 0x10000000000, tensAt 1 0x10000020000, flashTens 2 0 false [], flashTens 3 0x10000040000 true [(0, 0, 5)], flashTens 4 0x10000050000 true []]
               flash := { store.flash with objs := [{ ns := 2, obj := 7, first := 4, length := 16384, redundant := false }] } }

def newDesc : Desc := { tier := 1, format := 6, rank := 1, extent := [64, 1, 1, 1, 1], stride := [0, 0, 0, 0, 0], backing := 0 }

theorem test_w_tensorCreate : let c : Instr := .tensorCreate io 7
    let s := withBuf (given tensors io c) newDesc.bytesOf
    let b := s.hostRd 0x1000 160
    let d := descOf b
    let v := s.chargeBytes io 16 160
    starts s io c = true ∧ 7 < Variant.dies s.variant ∧ s.hostBad 0x1000 160 = false ∧ descFault b d false = none ∧ passes (v.descChecks (waiting io c) d) = true ∧
      d.tier = 1 ∧ (v.allocTensor 0 7 d.regionBytes).isSome = true := by decide +kernel
theorem test_w_tensorDestroy : let c : Instr := .tensorDestroy io 1
    let s := given tensors io c
    starts s io c = true ∧ passes (s.tensorIdent (waiting io c) 1) = true ∧ s.isBound 1 = false ∧ s.models.all (fun m => decide (1 ∉ m.weights)) = true ∧
      (s.writeBackAll 1).isClean 1 = true := by decide +kernel
theorem test_w_tensorDestroy_waits : let c : Instr := .tensorDestroy io 3
    let s := given tensors io c
    starts s io c = true ∧ passes (s.tensorIdent (waiting io c) 3) = true ∧ s.isBound 3 = false ∧ s.models.all (fun m => decide (3 ∉ m.weights)) = true ∧
      (s.writeBackAll 3).isClean 3 = false := by decide +kernel
theorem test_w_tensorInfo : let c : Instr := .tensorInfo io 1
    let s := given tensors io c
    starts s io c = true ∧ passes (s.tensorIdent (waiting io c) 1) = true := by decide +kernel
def tensWriter (c : Instr) : Outst := { waiting io c with ibufLen := 1 }
theorem test_w_tensorWrite : let c : Instr := .tensorWrite io 1 0 63
    let s := withOut tensors [tensWriter c]
    s.startable io c = some (tensWriter c) ∧ passes (s.tensorIdent (tensWriter c) 1) = true ∧ 63 + 1 ≤ (descAt 1 0x10000020000).partBytes 0 ∧ s.writesHeld = false ∧
      passes (s.bindTarget io 1) = true ∧ s.hostBad 0x1000 1 = false := by decide +kernel
theorem test_w_tensorRead : let c : Instr := .tensorRead io 1 4 0 16
    let s := given tensors io c
    let u := ((s.openBinding io).bindInputs io .dataPoisoned 0 [1]).toOption.getD s
    let base := (u.viewOf io 1).bases.getD 4 0
    starts s io c = true ∧ passes (s.tensorIdent (waiting io c) 1) = true ∧ 16 ≤ (descAt 1 0x10000020000).regionBytes 4 ∧
      passes ((s.openBinding io).bindInputs io .dataPoisoned 0 [1]) = true ∧ inHostWindow base = false ∧
      (((u.probe base 16).askHost 0 base 16).hwinBad 0 base 16 || ((u.probe base 16).askHost 0 base 16).poisoned base 16) = false := by decide +kernel
theorem test_w_qstats : let c : Instr := .qstats io 1 0 1
    let s := given tensors io c
    let u := ((s.openBinding io).bindInputs io .dataPoisoned 0 [1]).toOption.getD s
    let base := (u.viewOf io 1).bases.getD 4 0
    starts s io c = true ∧ passes (s.tensorIdent (waiting io c) 1) = true ∧ (descAt 1 0x10000020000).holds 4 = true ∧ (descAt 1 0x10000020000).chanCount = 1 ∧
      passes ((s.openBinding io).bindInputs io .dataPoisoned 0 [1]) = true ∧ (u.probe base 16).poisoned base 16 = false := by decide +kernel
theorem test_w_tensorCopy : let c : Instr := .tensorCopy io 0 1
    let s := given tensors io c
    let u := (s.bindPair io 0 1 0x08 0x0C).toOption.getD s
    let v := u.sourceView io 0
    starts s io c = true ∧ passes (s.tensorIdent (waiting io c) 0) = true ∧ passes (s.tensorIdent (waiting io c) 1) = true ∧
      copyFault (descAt 0 0x10000000000) (descAt 1 0x10000020000) = none ∧ s.writesHeld = false ∧ passes (s.bindPair io 0 1 0x08 0x0C) = true ∧
      (((u.probeParts { v.desc with handle := 0 }).askTensor 0 v.desc).hostFails 0 v.desc || ((u.probeParts { v.desc with handle := 0 }).askTensor 0 v.desc).partsPoisoned v.desc) = false := by
  decide +kernel
theorem test_w_tensorRepair : let c : Instr := .tensorRepair io 1 nullHandle
    let s := given tensors io c
    starts s io c = true ∧ passes (s.tensorIdent (waiting io c) 1) = true ∧ s.writesHeld = false ∧
      ((descAt 1 0x10000020000).repairLayout.map (fun x => x.2.2)).sum ≤ 65536 ∧ passes (s.bindTarget io 1) = true ∧ s.hostBad 0x1000 65536 = false := by decide +kernel
theorem test_w_tensorRepair_source : let c : Instr := .tensorRepair io 1 0
    let s := given tensors io c
    let u := (s.bindPair io 0 1 0x0C 0x08).toOption.getD s
    let v := u.sourceView io 0
    let w := (u.probeParts v.desc).askTensor 0 v.desc
    0 ≠ nullHandle ∧ starts s io c = true ∧ passes (s.tensorIdent (waiting io c) 0) = true ∧ copyFault (descAt 0 0x10000000000) (descAt 1 0x10000020000) = none ∧
      passes (s.bindPair io 0 1 0x0C 0x08) = true ∧ (w.hostFails 0 v.desc || w.partsPoisoned v.desc) = false := by decide +kernel
theorem test_w_tensorStage_done : let c : Instr := .tensorStage io 3
    let s := given tensors io c
    starts s io c = true ∧ (s.tensorIdent (waiting io c) 3).toOption.any (fun t => t.staged) = true := by decide +kernel
theorem test_w_tensorStage_goes : let c : Instr := .tensorStage io 2
    let s := given tensors io c
    starts s io c = true ∧ (s.tensorIdent (waiting io c) 2).toOption.any (fun t => !t.staged && t.desc.tier == 3) = true ∧ (State.stage io 2 6 s).isSome = true := by decide +kernel
theorem test_w_tensorSync : let c (h : Nat) : Instr := .tensorSync io h
    starts (given tensors io (c 4)) io (c 4) = true ∧ ((given tensors io (c 4)).tensorIdent (waiting io (c 4)) 4).toOption.any (fun t => t.dirty.isEmpty) = true ∧
      starts (given tensors io (c 3)) io (c 3) = true ∧ ((given tensors io (c 3)).tensorIdent (waiting io (c 3)) 3).toOption.any (fun t => !t.dirty.isEmpty) = true := by
  decide +kernel
theorem test_w_tensorEvict : let c (h : Nat) : Instr := .tensorEvict io h
    starts (given tensors io (c 2)) io (c 2) = true ∧ ((given tensors io (c 2)).tensorIdent (waiting io (c 2)) 2).toOption.any (fun t => !t.staged) = true ∧
      starts (given (nand tensors) io (c 3)) io (c 3) = true ∧
      ((given (nand tensors) io (c 3)).tensorIdent (waiting io (c 3)) 3).toOption.any (fun t => t.staged) = true ∧
      tensors.isBound 2 = false ∧ tensors.isBound 3 = false ∧ tensors.models = [] ∧
      ((given (nand tensors) io (c 3)).writeBackAll 3).isClean 3 = true := by decide +kernel
theorem test_w_tensorEvict_waits : let c : Instr := .tensorEvict io 3
    starts (given tensors io c) io c = true ∧ ((given tensors io c).tensorIdent (waiting io c) 3).toOption.any (fun t => t.staged) = true ∧ tensors.isBound 3 = false ∧
      tensors.models = [] ∧ ((given tensors io c).writeBackAll 3).isClean 3 = false := by decide +kernel
theorem test_w_stageTransfer : let s := withOut tensors [started io (.tensorStage io 2)]
    s.stagersOf 2 = [io] ∧ (State.stage io 2 6 s).isSome = true := by decide +kernel
theorem test_w_tensorWriteBack : (nand tensors).flashFree = true ∧ ((nand tensors).writeBackAll 3).isClean 3 = true := by decide +kernel
theorem test_w_tensorWriteBack_stuck : tensors.flashFree = true ∧ (tensors.writeBackAll 3).isClean 3 = false := by decide +kernel

/-! ### Witnesses: programs -/

/-- An image of one core whose list is COMMIT: header, one local tensor of 64 I8 elements, the step directory, the step. -/
def imageBody : Bytes :=
  leBytes 2 1 ++ leBytes 2 0 ++ leBytes 4 4096 ++ leBytes 2 0 ++ [0, 0] ++ leBytes 2 0 ++ leBytes 2 1 ++ leBytes 4 0 ++ leBytes 2 0 ++ leBytes 2 0 ++ leBytes 4 0 ++
    leBytes 2 0 ++ leBytes 2 0 ++ leBytes 4 128 ++ leBytes 4 0 ++ leBytes 4 288 ++ leBytes 4 0 ++ leBytes 4 0 ++ zeros 60 ++
    { newDesc with tier := 0 }.bytesOf ++ leBytes 4 320 ++ leBytes 4 1 ++ zeros 24 ++ stepBytes { kind := .commit, sync := false }
def imageBytes : Bytes := leBytes 4 0x47504B4E ++ leBytes 2 1 ++ leBytes 2 0x80 ++ leBytes 4 352 ++ leBytes 4 (crc32 imageBody) ++ imageBody

set_option maxRecDepth 100000 in
theorem test_image_sound : passes (validateImage imageBytes 256 (2 ^ 20)) = true ∧ imageReads (imageBytes.take 128) = 352 := by decide +kernel
set_option maxRecDepth 100000 in
theorem test_w_progLoad : let c : Instr := .progLoad io
    let s := withBuf (given store io c) imageBytes
    starts s io c = true ∧ s.hostBad 0x1000 352 = false ∧ 1 ≤ ((s.chargeBytes io 16 352).runCores 0).length ∧ 4096 ≤ ((s.chargeBytes io 16 352).entry 0).tpBytes ∧
      ((s.chargeBytes io 16 352).alloc 0 0xFF 352).isSome = true := by decide +kernel

/-- That program, loaded, and run by a context that holds its slice. -/
def prog1 : Prog := { handle := 9, part := 0, alloc := 0x10000060000, len := 352, img := imageOf imageBytes }
def holding (s : State) : State := { s with progs := [prog1], parts := [(0, { PartRt.new with holder := some 0, sliceLen := 2000 })] }

theorem test_w_progUnload : let c : Instr := .progUnload io 9
    let s := given (holding store) io c
    starts s io c = true ∧ passes (s.progIdent 0 9) = true ∧ s.progNamed 9 = false := by decide +kernel
set_option maxRecDepth 100000 in
theorem test_w_progRun : let c : Instr := .progRun io 9 7
    let s := given (holding store) io c
    let w := s.chargeBytes io 16 0
    let u := ((w.openBinding io).bindInputs io .dataPoisoned 0 (prog1.img.inputs [])).toOption.getD s
    starts s io c = true ∧ passes (s.progIdent 0 9) = true ∧ s.sliceAllows io = true ∧ 4 * (prog1.img.slots.length + prog1.img.rings) = 0 ∧ s.hostBad 0x1000 0 = false ∧
      passes (w.bindChecks 0 prog1.img [] []) = true ∧ passes (w.dirtyFits ((prog1.img.outputs []).map w.tensorPieces).sum) = true ∧
      w.outputsHeld (prog1.img.outputs []) = false ∧ passes ((w.openBinding io).bindInputs io .dataPoisoned 0 (prog1.img.inputs [])) = true ∧
      passes (u.bindOutputs io (prog1.img.outputs [])) = true := by decide +kernel

/-! ### Witnesses: semaphores -/

def semAt (h : Nat) (holder : Option Nat) (ws : List Waiter) : Sem := { handle := h, part := 0, holder := holder, abandoned := false, waiters := ws }
def sems : State := { store with sems := [semAt 0 none [], semAt 1 (some 0) [], semAt 2 (some 1) [], semAt 3 (some 1) [{ id := io, ctx := 0, donateMax := 1, donations := 0 }]] }

theorem test_w_semCreate : let c : Instr := .semCreate io
    starts (given sems io c) io c = true ∧ ((given sems io c).sems.filter (fun x => x.part = 0)).length < 64 := by decide +kernel
theorem test_w_semCreate_full : let c : Instr := .semCreate io
    let s := given { store with sems := (List.range 64).map (fun h => semAt h none []) } io c
    starts s io c = true ∧ 64 ≤ (s.sems.filter (fun x => x.part = 0)).length := by decide +kernel
theorem test_w_semAcquire : let c (h : Nat) : Instr := .semAcquire io h 64 10000000
    starts (given sems io (c 0)) io (c 0) = true ∧ ((given sems io (c 0)).semIdent 0 0).toOption.any (fun x => x.holder == none) = true ∧
      (given sems io (c 0)).semTurn (waiting io (c 0)) 0 = true ∧ starts (given sems io (c 2)) io (c 2) = true ∧ ((given sems io (c 2)).semIdent 0 2).toOption.any (fun x => x.holder == some 1) = true ∧
      starts (given sems io (c 1)) io (c 1) = true ∧ ((given sems io (c 1)).semIdent 0 1).toOption.any (fun x => x.holder == some (qCtx io.queue)) = true := by decide +kernel
/-- Another command of the partition that rang first and waits for the same semaphore. -/
def rival : CmdId := { queue := .io 1, tag := 9 }
theorem test_w_semAcquire_turn : let c : Instr := .semAcquire io 0 0 0
    let y : Outst := { waiting rival (.semAcquire rival 0 0 0) with rung := (0, 31), serial := 2 }
    let x : Outst := { waiting io c with rung := (1, 31) }
    let s := withOut sems [x, y]
    s.startable io c = some x ∧ (s.semIdent 0 0).toOption.any (fun x => x.holder == none) = true ∧ s.semTurn x 0 = false := by decide +kernel
theorem test_w_semRelease : let c (h : Nat) : Instr := .semRelease io h
    starts (given sems io (c 1)) io (c 1) = true ∧ ((given sems io (c 1)).semIdent 0 1).toOption.any (fun x => x.holder == some (qCtx io.queue)) = true ∧
      starts (given sems io (c 2)) io (c 2) = true ∧ ((given sems io (c 2)).semIdent 0 2).toOption.any (fun x => x.holder != some (qCtx io.queue)) = true := by decide +kernel
theorem test_w_semDestroy : let c (h : Nat) : Instr := .semDestroy io h
    starts (given sems io (c 0)) io (c 0) = true ∧ ((given sems io (c 0)).semIdent 0 0).toOption.any (fun x => x.holder == none && x.waiters.isEmpty) = true ∧
      starts (given sems io (c 1)) io (c 1) = true ∧ ((given sems io (c 1)).semIdent 0 1).toOption.any (fun x => x.holder.isSome) = true := by decide +kernel
theorem test_w_semTimeout :
    let s : State := { store with sems := [semAt 3 (some 1) [{ id := io, ctx := 0, donateMax := 1, donations := 0, timeout := 10000000 }]] }
    s.sems.any (fun x => x.waiters.any (fun w => w.id = io && w.timeout != 0)) = true ∧
      sems.sems.all (fun x => x.waiters.all (fun w => w.id ≠ io || w.timeout == 0)) = true := by decide +kernel

/-! ### Witnesses: indexes and queries -/

def params (dim : Nat) : IdxParams :=
  { sketchBits := 256, vformat := 4, dim := dim, distance := 0, slots := 1024, idLimit := 1024, degree := 8, entryCount := 1, alpha := 0x3F99999A#32, buildL := 16 }
def indexAt (dim : Nat) (ds : List DEntry) (reclaim : List (Nat × List Nat × List Nat)) (m : Option Merge) : Index :=
  { ns := 3, part := 0, params := params dim, sketches := [], directory := [], tombstones := [], usedSlots := [], entries := [], driftline := ds, epoch := 0, epochBase := 0
    merge := m, reclaim := reclaim, unreadable := [], reads := 0, hops := 0, lost := false, allocs := [], dirty := [], dirPoison := [], scan := [], copies := [] }
def indexed (dim : Nat) : State := { store with indexes := [indexAt dim [] [] none] }

theorem test_w_idxCreate : let c : Instr := .idxCreate io 3
    let b := leBytes 2 256 ++ [4, 0] ++ leBytes 2 1 ++ [8, 1] ++ leBytes 8 1024 ++ leBytes 8 1024 ++ zeros 8
    let s := withBuf (given store io c) b
    starts s io c = true ∧ s.nsOpen (waiting io c) 3 (nsOf 3 2 0) = true ∧ s.index? 3 = none ∧ s.hostBad 0x1000 32 = false ∧
      idxParamFault (s.hostRd 0x1000 32) = none ∧ (idxParamsOf (s.hostRd 0x1000 32)).slots ≤ 1024 ∧
      (idxParamsOf (s.hostRd 0x1000 32)).slots ≤ Variant.maxSlots s.variant 256 ∧ ((s.chargeBytes io 16 32).placeTables 0 (idxParamsOf (s.hostRd 0x1000 32))).isSome = true := by
  decide +kernel
theorem test_w_idxInfo : let c : Instr := .idxInfo io 3
    let s := given (indexed 1) io c
    starts s io c = true ∧ s.nsHeld 3 = false ∧ passes (s.indexIdent (waiting io c) 3) = true ∧ passes (s.theIndex (nsOf 3 2 0)) = true := by decide +kernel
set_option maxRecDepth 100000 in
theorem test_w_idxInsert : let c : Instr := .idxInsert io 3
    let s := withBuf (given (indexed 3584) io c) (zeros 5 ++ [4] ++ zeros 34 ++ leBytes 2 3584)
    let u := s.chargeBytes io 16 4096
    let x := indexAt 3584 [] [] none
    starts s io c = true ∧ s.nsHeld 3 = false ∧ passes (s.indexIdent (waiting io c) 3) = true ∧ s.hostBad 0x1000 4096 = false ∧
      (u.insertChecks x (s.hostRd 0x1000 4096)).toOption = some 0 ∧ passes (u.dirtyFits (1 + (x.sketchPages 0 ++ Index.dirPages 0).eraseDups.length)) = true ∧
      u.writesHeld = false ∧ u.roomFor (unitsOf 0 1) = true := by decide +kernel
theorem test_w_idxDestroy : let c : Instr := .idxDestroy io 3
    let s := given (indexed 1) io c
    starts s io c = true ∧ passes (s.theIndex (nsOf 3 2 0)) = true ∧ s.indexBusy 3 = false := by decide +kernel
theorem test_w_idxDelete : let c : Instr := .idxDelete io 3 1023
    let s := given (indexed 1) io c
    starts s io c = true ∧ passes (s.theIndex (nsOf 3 2 0)) = true ∧ (indexAt 1 [] [] none).dirBad 1023 = false ∧ s.poolFull = false ∧ s.flash.driftFull = false := by decide +kernel
theorem test_w_idxMerge : let c : Instr := .idxMerge io 3 1
    let s := given (indexed 1) io c
    starts s io c = true ∧ passes (s.theIndex (nsOf 3 2 0)) = true ∧ (indexAt 1 [] [] none).merge = none := by decide +kernel
set_option maxRecDepth 100000 in
theorem test_w_idxQuery : let c : Instr := .idxQuery io 3 1 1 16 16 1 16
    let s := given (indexed 1) io c
    starts s io c = true ∧ s.nsHeld 3 = false ∧ queryParamFault 1 1 16 16 1 16 = none ∧ passes (s.indexIdent (waiting io c) 3) = true ∧
      s.index? 3 = some (indexAt 1 [] [] none) ∧ queryBlockLen 1 = 192 ∧ s.hostBad 0x1000 192 = false ∧
      queryBlockFault (params 1) (slice (s.hostRd 0x1000 192) 0 192) = none := by decide +kernel

/-- A query of that index: waiting for a walker, or on walker 0 with a record outstanding or an entry to pass. -/
def query (walker : Option Nat) (outstanding : List Nat) (lap : List DEntry) : Query :=
  { Query.new io 0 3 { eqMask := 0, eqValue := 0, anyMask := 0, a0Lo := 0, a0Hi := 0, a1Lo := 0, a1Hi := 0, sketch := zeros 64, vector := [0] } 16 1 16 0 false 5 0 with
    walker := walker, outstanding := outstanding, lapLeft := lap }
def entryAt (seq : Nat) : DEntry :=
  { seq := seq, node := 1, slot := 1, isInsert := true, filter := 0, sketch := zeros 64, owner := none, folded := false, poisoned := false }
def asking (ds : List DEntry) (q : Query) : State := { store with indexes := [indexAt 1 ds [] none], queries := [q] }

theorem test_w_querySlotStart : let s := asking [] (query none [] [])
    s.firstWaiting 0 = some (query none [] []) ∧ (s.freeWalker 0).isSome = true ∧ (s.index? 3).isSome = true := by decide +kernel
set_option maxRecDepth 100000 in
theorem test_w_recordArrival : let q := query (some 0) [1023] []
    let s := asking [] q
    s.queries.find? (fun y => y.id = io && y.qi == 0) = some q ∧ q.outstanding.contains 1023 = true ∧ s.index? 3 = some (indexAt 1 [] [] none) ∧
      (s.walkerRead q (indexAt 1 [] [] none) 1023).2.isSome = true := by decide +kernel
theorem test_w_recordArrival_lost : let q := query (some 0) [1023] []
    let s : State := { asking [] q with flash := { store.flash with map := [((3, 1023 / 4), { poison := 8, mirror := false, buf := false, loc := unmappedLoc })] } }
    s.queries.find? (fun y => y.id = io && y.qi == 0) = some q ∧ s.index? 3 = some (indexAt 1 [] [] none) ∧ (s.walkerRead q (indexAt 1 [] [] none) 1023).2 = none := by
  decide +kernel
theorem test_w_driftlineEntryScan : let q := query (some 0) [] [entryAt 3]
    let s := asking [entryAt 3] q
    let x := indexAt 1 [entryAt 3] [] none
    s.index? 3 = some x ∧ x.driftline[0]? = some (entryAt 3) ∧ (alookup 0 x.scan).getD 0 = 0 ∧ (entryAt 3).poisoned = false := by decide +kernel
theorem test_w_driftlineEntryScan_poisoned : let e := { entryAt 3 with poisoned := true }
    let x := indexAt 1 [entryAt 2, e] [] none
    let y : Index := { x with scan := [(31, 1)] }
    let s : State := { store with indexes := [y] }
    s.index? 3 = some y ∧ y.driftline[1]? = some e ∧ (alookup 31 y.scan).getD 1 = 1 ∧ e.poisoned = true := by decide +kernel

/-! ### Witnesses: merges and accords -/

def mergeNow (todo : List DEntry) : Merge := { id := some io, bound := 3, sweep := true, all := todo, todo := todo, built := [], sweptTo := 0 }
def merging : State := { store with indexes := [indexAt 1 [entryAt 3] [] (some (mergeNow [entryAt 3]))] }

/-- The round of that merge over an index, with its write buffer room and its dirty units. -/
def roundFits (s : State) (x : Index) (m : Merge) : Bool × Nat × Nat :=
  let r := s.roundWork x m
  let last := r.2.1.isEmpty && r.2.2.isNone
  let u := (r.1.readUnits.foldl (fun (t : State) k => t.readPage x.ns k) s).roundStore x io r.1 (x.roundPages r.1 (s.roundDir x m r.1 last))
  (s.roomFor r.1.units, u.1.dirtyPieces + u.2, u.1.ceilingPieces)

set_option maxRecDepth 100000 in
theorem test_w_mergeRound : let x := indexAt 1 [entryAt 3] [] (some (mergeNow [entryAt 3]))
    let f := roundFits merging x (mergeNow [entryAt 3])
    merging.index? 3 = some x ∧ merging.flashFree = true ∧ merging.writesHeld = false ∧ f.1 = true ∧ f.2.1 ≤ f.2.2 := by decide +kernel
set_option maxRecDepth 100000 in
theorem test_w_mergeRound_waits : let s : State := { merging with cfg := { merging.cfg with inForce := { merging.cfg.inForce with holdupEnergy := 0 } } }
    let x := indexAt 1 [entryAt 3] [] (some (mergeNow [entryAt 3]))
    let f := roundFits s x (mergeNow [entryAt 3])
    s.index? 3 = some x ∧ s.flashFree = true ∧ s.writesHeld = false ∧ f.1 = true ∧ f.2.2 < f.2.1 := by decide +kernel
theorem test_w_driftlineReclaim_waits : let x := indexAt 1 [] [(2, [1], [9])] none
    let s : State := { store with indexes := [x], cfg := { store.cfg with inForce := { store.cfg.inForce with holdupEnergy := 0 } } }
    let u := s.reclaimStore x (mergeOwner 3) [9]
    s.index? 3 = some x ∧ s.flashFree = true ∧ s.reclaimDue 3 2 = true ∧ s.roomFor [(9 / 4, 2 ^ (9 % 4))] = true ∧
      (u.2 ≠ 0 ∧ u.1.ceilingPieces < u.1.dirtyPieces + u.2) := by decide +kernel
theorem test_w_driftlineReclaim : let x := indexAt 1 [] [(2, [1], [9])] none
    let s : State := { store with indexes := [x] }
    let u := s.reclaimStore x (mergeOwner 3) [9]
    s.index? 3 = some x ∧ s.flashFree = true ∧ s.reclaimDue 3 2 = true ∧ s.roomFor [(9 / 4, 2 ^ (9 % 4))] = true ∧
      (u.2 = 0 ∨ u.1.dirtyPieces + u.2 ≤ u.1.ceilingPieces) := by decide +kernel

/-- A TRAIN definition of two stages, LOADER from namespace 2 and COLLECTIVE on ring slot 0, with one tensor. -/
def defBytes : Bytes :=
  leBytes 4 0x43414B4E ++ leBytes 2 1 ++ [2, 2] ++ leBytes 2 1 ++ leBytes 2 1 ++ leBytes 4 0 ++ leBytes 2 1 ++ [1, 0] ++ leBytes 4 0 ++ leBytes 4 0 ++ zeros 36 ++
    ([0xA, 0, 0, 0] ++ leBytes 4 nullHandle ++ [2] ++ zeros 39) ++
    ([0xC, 0, 0, 0] ++ leBytes 4 nullHandle ++ [0] ++ zeros 39)

set_option maxRecDepth 100000 in
theorem test_w_accordLoad : let c : Instr := .accordLoad io 0 160
    let s := withBuf (given tensors io c) (defBytes ++ leBytes 4 1)
    let u := s.chargeBytes io 16 164
    let a := accordOf defBytes 0 0 0 [1]
    starts s io c = true ∧ (s.ctx? 0 0).isSome = true ∧ s.hostBad 0x1000 160 = false ∧ s.hostRd 0x1000 160 = defBytes ∧
      handlesOf (s.hostRd 0x1000 164) 160 1 = [1] ∧ a.namespaces.any s.nsHeld = false ∧ passes (accordCheck1 defBytes) = true ∧ s.hostBad 0x1000 164 = false ∧
      a.tensors.all (fun h => ((u.tensor? h).map (fun t => t.desc.part == 0)).getD false) = true ∧
      passes (checkStages (fun i st => acNeed (u.stageFits a (u.workTensors a) st) 2 (0x40 + 48 * i)) 0 a.stages) = true ∧
      passes (checkStages (u.stageResources a) 0 a.stages) = true ∧ u.embedFits a = true ∧ (u.allocWork 0 (u.workTensors a)).isSome = true := by decide +kernel

/-- An accord of one stage; its working tensors stand in near memory. -/
def work1 : List (Nat × Desc) := [(0xFF0, descAt 0 0x10000080000), (0xFF1, descAt 0 0x10000081000), (0xFF2, descAt 0 0x10000082000), (0xFF3, descAt 0 0x10000083000)]
def stg (kind target : Nat) (param : Bytes) : Stage := { kind := kind, model := 4, target := target, binds := [], param := param }
def accordAt (kind : Nat) (sts : List Stage) : Accord :=
  { handle := 5, part := 0, ctx := 0, kind := kind, batch := 1, seq := 1, textMax := 64, rings := 0, padToken := 0, stages := sts, terms := [], tensors := [1], working := work1
    poisoned := false }
/-- An item: one token, no text, node 9, object 7, its filter word. -/
def item1 : Bytes := leBytes 4 1 ++ leBytes 4 0 ++ leBytes 5 9 ++ zeros 20 ++ leBytes 6 7 ++ zeros 25 ++ leBytes 4 77 ++ zeros 64
def accords (kind : Nat) (sts : List Stage) : State := { indexed 1 with tensors := tensors.tensors, accords := [accordAt kind sts] }
/-- The model of the program of `prog1`. -/
def bound (s : State) : State := { holding s with models := [{ handle := 4, part := 0, prog := 9, weights := [] }] }

theorem test_w_accordUnload : let c : Instr := .accordUnload io 5
    let s := given (accords 2 [stg 0xA 2 (zeros 20)]) io c
    starts s io c = true ∧ passes (s.accordIdent (waiting io c) 5) = true ∧ s.accordInUse 5 = false := by decide +kernel
set_option maxRecDepth 100000 in
theorem test_w_accordRun : let c : Instr := .accordRun io 5 0 7
    let s := given { holding (accords 2 [stg 0xA 2 (zeros 20)]) with host := { store.host with mem := [] } } io c
    starts s io c = true ∧ s.sliceAllows io = true ∧ s.commandHeld c = false ∧ s.invocations = [] ∧ passes (s.accordOpen (accordAt 2 [stg 0xA 2 (zeros 20)])) = true ∧ (accordAt 2 []).batch * (accordAt 2 []).itemLen = 16 ∧
      s.sec.debugOpened = false ∧ (accordAt 2 []).outLen ≤ 65536 ∧
      ((s.startInvocation io (waiting io c) (accordAt 2 [stg 0xA 2 (zeros 20)]) 0 7).toOption.any (fun x => match x.2 with
        | .runs n => n == 8
        | _ => false)) = true := by decide +kernel
/-- A killed invocation whose command waits again. -/
theorem test_w_accordRun_again : let c : Instr := .accordRun io 5 0 7
    let s := given { holding (accords 2 [stg 0xA 2 (zeros 20)]) with invocations := [Invocation.new io 5 0 7 []] } io c
    starts s io c = true ∧ s.sliceAllows io = true ∧ s.commandHeld c = false ∧ (s.invocations.find? (fun x => x.id = io)).isSome = true ∧
      passes (s.accordOpen (accordAt 2 [stg 0xA 2 (zeros 20)])) = true ∧ passes (s.dirtyFits (s.invPieces io (accordAt 2 [stg 0xA 2 (zeros 20)]) [])) = true := by decide +kernel
set_option maxRecDepth 100000 in
theorem test_w_modelBind : let g := { prog1.img with slots := [(0, 0)], tensors := [(descAt 1 0x10000020000)] }
    let c : Instr := .modelBind io 9 1
    let s := withBuf (given { tensors with progs := [{ prog1 with img := g }] } io c) (leBytes 4 1)
    let u := s.chargeBytes io 16 4
    let z := u.newHandle 0
    let v : State := { z.1 with models := z.1.models ++ [{ handle := z.2, part := 0, prog := 9, weights := [1] }] }
    starts s io c = true ∧ passes (s.progIdent 0 9) = true ∧ s.hostBad 0x1000 4 = false ∧ handlesOf (s.hostRd 0x1000 4) 0 1 = [1] ∧
      passes (checkAll (fun j => u.weightCheck 0 g j 1) (List.range 1)) = true ∧
      ((State.stageAll io [1] v).map (fun w => ((w.tensor? 1).map (fun t => t.desc.state == 3)).getD true)) = some false := by decide +kernel
theorem test_w_modelUnbind : let c : Instr := .modelUnbind io 4
    let s := given (bound (accords 2 [stg 0xA 2 (zeros 20)])) io c
    starts s io c = true ∧ (s.model? 0 4).isSome = true ∧ s.accords.all (fun a => !(a.part == 0 && a.stages.any (fun st => st.runsModel && st.model == 4))) = true := by
  decide +kernel

/-! ### Witnesses: stages -/

/-- An accord of a kind whose first stage is `st`, at that stage with one item. -/
def invAt (item : Bytes) : Invocation := { Invocation.new io 5 0 7 [item] with cands := [[]] }
def atStage1 (kind : Nat) (st : Stage) (item : Bytes) : State :=
  { bound (accords kind [st]) with host := { store.host with outst := [started io (.accordRun io 5 0 7)] }, invocations := [invAt item] }
def stands (kind k : Nat) (st : Stage) (item : Bytes) : Bool := (atStage1 kind st item).atStage io (invAt item) (accordAt kind [st]) st k

theorem test_w_tokensIn : stands 0 1 (stg 1 0 (zeros 20)) item1 = true := by decide +kernel
theorem test_w_embed : stands 0 2 (stg 2 0 (zeros 20)) item1 = true := by decide +kernel
theorem test_w_search : stands 0 3 (stg 3 3 (leBytes 2 16 ++ [1, 1] ++ leBytes 2 1 ++ leBytes 2 16 ++ zeros 12)) item1 = true ∧
    (atStage1 0 (stg 3 3 (zeros 20)) item1).index? 3 = some (indexAt 1 [] [] none) ∧ (isPad item1 || field item1 0x10 8 &&& field item1 8 8 == field item1 0x10 8) = true := by
  decide +kernel
theorem test_w_filter : stands 0 4 (stg 4 0 (zeros 20)) item1 = true := by decide +kernel
theorem test_w_rerank : stands 0 5 (stg 5 0 (zeros 20)) item1 = true := by decide +kernel
theorem test_w_gather : stands 0 6 (stg 6 0 (zeros 20)) item1 = true ∧
    passes ((atStage1 0 (stg 6 0 (zeros 20)) item1).snippetsAll (accordAt 0 [stg 6 0 (zeros 20)]) 0 [[]]) = true := by decide +kernel
theorem test_w_out : stands 0 7 (stg 7 0 (zeros 20)) item1 = true := by decide +kernel
theorem test_w_store : let s := atStage1 1 (stg 8 2 (zeros 20)) item1
    let n := nsOf 2 1 256
    stands 1 8 (stg 8 2 (zeros 20)) item1 = true ∧ s.ns? 2 = some n ∧ s.flash.readOnly = false ∧
      ((State.storeItems io n [(accordAt 1 []).textItem item1] s).toOption.any (fun t => (List.range 8).all (fun d => t.1.slotRoom d 0))) = true := by decide +kernel
set_option maxRecDepth 100000 in
theorem test_w_insert : let s : State := { atStage1 1 (stg 9 3 (zeros 20)) item1 with indexes := [indexAt 3584 [] [] none] }
    s.atStage io (invAt item1) (accordAt 1 [stg 9 3 (zeros 20)]) (stg 9 3 (zeros 20)) 9 = true ∧
      ((State.insertItems io (accordAt 1 [stg 9 3 (zeros 20)]) 3 0 [(item1, 0)] s).toOption.any (fun t => (List.range 8).all (fun d => t.slotRoom d 0))) = true := by decide +kernel
theorem test_w_loader : let b : Bytes := leBytes 6 7 ++ zeros 2 ++ leBytes 4 4 ++ leBytes 4 1
    let s : State := { atStage1 2 (stg 0xA 2 (zeros 20)) b with flash := objects.flash }
    s.atStage io (invAt b) (accordAt 2 [stg 0xA 2 (zeros 20)]) (stg 0xA 2 (zeros 20)) 0xA = true ∧
      passes (State.loadRows (accordAt 2 [stg 0xA 2 (zeros 20)]) 2 [(b, 0)] s) = true := by decide +kernel
theorem test_w_model : stands 2 0xB (stg 0xB 0 (zeros 20)) item1 = true := by decide +kernel
theorem test_w_optimiser : stands 2 0xD (stg 0xD 0 (zeros 20)) item1 = true := by decide +kernel

/-! ### Witnesses: commits -/

def committing (c : Instr) : State := { holding (indexed 1) with host := { store.host with outst := [started io c] } }
def ready (s : State) : Bool := (s.prepareCommit io).toOption.any (fun x => x.2)

theorem test_w_commit_plain : ready (committing (.blockWrite io 1 0 1)) = true := by decide +kernel
def runOf (pc : Nat) (c : Bool) : Run :=
  { id := io, part := 0, ctx := 0, img := prog1.img, slotT := [], rings := [], seed := 7, started := 0
    cores := [{ flat := 0, pc := pc, inflight := [], layer := 0, pfIssued := [], pfDone := [], atCommit := c, pendingSwap := [false, false] }]
    flags := 0, saturations := 0, nanConv := 0, rescales := 0, emptySteps := 0, carryWritten := [], localFlags := [], failed := none }
set_option maxRecDepth 100000 in
theorem test_w_commit_run : let s : State := { committing (.progRun io 9 7) with runs := [runOf 1 true] }
    ready s = true ∧ (s.run? io).any (fun r => r.ended) = true := by decide +kernel
def uncommitted (ins : Bool) : DEntry := { entryAt 0 with owner := some io, isInsert := ins, node := 5 }
theorem test_w_commit_index : let s (c : Instr) (ins : Bool) : State := { committing c with indexes := [{ indexAt 1 [uncommitted ins] [] none with directory := [(5, 1)].filter (fun _ => !ins) }] }
    let good (u : State) (ins : Bool) : Bool := ready u && u.openEntries io == [(3, uncommitted ins)] &&
      ((u.index? 3).map (fun x => x.judge (uncommitted ins))).getD .notFound == .ok
    good (s (.idxInsert io 3) true) true = true ∧ good (s (.idxDelete io 3 5) false) false = true := by decide +kernel
/-- An ingest invocation past its last stage. -/
def atEnd : State :=
  let st := stg 8 2 (zeros 20)
  { atStage1 1 st item1 with invocations := [{ invAt item1 with stage := 1 }] }
theorem test_w_commit_accord : let v := (atEnd.endStage io).readDirectory io
    ((atEnd.endStage io).inv? io).any (fun i => decide (i.id = io) && !i.busy && decide (i.stage = 1)) = true ∧ ((atEnd.endStage io).accordOf? 5).any (fun a => decide (a.kind = 1)) = true ∧
      v.directoryBad io = false ∧ ready v = true ∧
      ((v.prepareCommit io).toOption.any (fun x => (x.1.invCommitPoint io []).2.isEmpty)) = true := by decide +kernel

/-! ### Witnesses: fabric ports and rings -/

def port0 : LPort := { LPort.reset with set := true, state := 3, plane := 0, mac := 77, ipv6 := 0xFE80 }
def ring0 : Ring := { newRing 8 77 1 3 0 1 0 io [(0, 2)] [(0, 1)] with forming := none }
def forming0 : Ring := newRing 8 77 1 3 0 1 0 io [(0, 2)] [(0, 1)]
/-- Die 0's engine lit, logical port 0 up on plane 0, and these rings. -/
def fabric (rs : List Ring) : State :=
  { tensors with fabric := { tensors.fabric with lports := [(0, port0)], rings := rs, fibre := setAt 0 true tensors.fabric.fibre, laserEn := setAt 0 true tensors.fabric.laserEn } }

theorem test_w_fabPortSet : let c : Instr := .fabPortSet io 2
    let s := withBuf (given (fabric []) io c) ([31, 0, 0, 0] ++ zeros 44)
    let u := s.chargeBytes io 16 48
    passes (s.lportIdent (waiting io c) 2) = true ∧ starts s io c = true ∧ s.hostBad 0x1000 48 = false ∧ field (s.hostRd 0x1000 48) 0 1 = 31 ∧
      (List.range 32).all (fun k => k == 2 || !(u.lport k).set || (u.lport k).plane != 31) = true ∧ u.fabric.rings = [] := by decide +kernel
theorem test_w_fabPortInfo : let c : Instr := .fabPortInfo io 31
    let s := given (fabric []) io c
    passes (s.lportIdent (waiting io c) 31) = true ∧ starts s io c = true := by decide +kernel
theorem test_w_fibre : 7 < Variant.dies (fabric []).variant := by decide
theorem test_w_laserPowerLow : ((fabric []).lportEnabled 0 || (fabric []).lportEnabled 1) = true ∧ (1599 : Int) < laserMin ∧ ((fabric []).lport 0).laserOk = true := by
  decide +kernel
theorem test_w_laserPowerRestored : let s : State := { fabric [] with fabric := { (fabric []).fabric with lports := [(4, { port0 with laserOk := false })] } }
    (s.lportEnabled 4 || s.lportEnabled 5) = true ∧ laserMin ≤ 2100 ∧ (2100 : Int) ≤ laserMax ∧ (s.lport 4).laserOk = false ∧ s.fabric.laserEn.getD 1 false = false := by
  decide +kernel
theorem test_w_fabricPortStateChange : (fabric []).lportEnabled 0 = true ∧ (fabric []).fabric.laserEn.getD (0 / 4) false = true ∧ ((fabric []).lport 0).laserOk = true ∧
    (fabric []).portTested (0 / 2) = false := by decide +kernel

theorem test_w_ringForm : let c : Instr := .ringForm io 77 2 3 2 1 60000
    let s := given (fabric []) io c
    starts s io c = true ∧ maskList 32 1 = [0] ∧ (s.lportOf 0).any (fun l => bitAt (s.entry 0).fabMask (l / 2)) = true ∧ s.fabric.rings = [] ∧ s.hostBad 0x1000 32 = false ∧
      (alookup 77 s.fabric.lastEpoch).all (fun e => lsLt e 2) = true := by decide +kernel
theorem test_w_formTimeout : ((fabric [forming0]).fabric.rings.find? (fun x => x.forming = some io)).isSome = true := by decide
theorem test_w_ringDissolve : let c : Instr := .ringDissolve io 8
    let s := given (fabric [ring0]) io c
    passes (s.ringIdent (waiting io c) 8) = true ∧ starts s io c = true ∧ s.ringNamed io 8 = false := by decide +kernel
theorem test_w_ringInfo : let c : Instr := .ringInfo io 8
    let s := given (fabric [ring0]) io c
    passes (s.ringIdent (waiting io c) 8) = true ∧ starts s io c = true := by decide +kernel

/-- A packet of that ring from a member. -/
def packet (type src : Nat) (c : Option Ctl) : LsPkt :=
  { type := type, retransmit := false, ceSeen := false, ring := 77, epoch := 1, src := src, dst := 0, stripe := 0, plane := 0, seq := 1, ackSeq := 0, credit := 0
    chunk := 0, block := 0, blocks := [], sack := 0, ctl := c }
def waitingAcks (n : Nat) : Ring := { ring0 with recv := [(0, { RecvStripe.fresh with sinceAck := n })] }

def dataArrives (r : Ring) (n : Nat) : Bool :=
  let s := fabric [r]
  let p := packet 1 2 none
  let u := (s.counted 0 p r).updRing 8 (fun x => x.setRecv 0 ((x.recvOf 0).take p))
  s.ringArrival 0 p r && r.hasStripe 0 && r.forming.isNone && r.fromPred p && !r.isBroken && !r.two && (u.ring? 8).any (fun x => (x.recvOf 0).sinceAck == n)
theorem test_w_dataReceived : dataArrives (waitingAcks 14) 15 = true ∧ dataArrives (waitingAcks 15) 16 = true := by decide +kernel
theorem test_w_ackReceived : (fabric [ring0]).ringArrival 0 (packet 2 1 none) ring0 = true ∧ ring0.hasStripe 0 = true ∧ ring0.fromSucc (packet 2 1 none) = true := by
  decide +kernel
def op0 : RingOp :=
  { id := io, flat := 0, stepIdx := 0, op := 0, cop := 1, headroom := 0, units := 1, src := 0, dst := 1, startSeen := true, first := [], second := [] }
theorem test_w_linkAdderHop : let r : Ring := { ring0 with current := some op0, recv := [(0, { RecvStripe.fresh with staged := [packet 1 2 none] })] }
    (fabric [r]).ring? 8 = some r ∧ (r.recvOf 0).staged.find? (fun q => q.seq = 1) = some (packet 1 2 none) ∧ r.adds op0 (packet 1 2 none) = true := by decide +kernel
theorem test_w_ackTimer : (fabric [waitingAcks 1]).ring? 8 = some (waitingAcks 1) ∧ (waitingAcks 1).hasStripe 0 = true ∧ 0 < ((waitingAcks 1).recvOf 0).sinceAck := by
  decide +kernel
theorem test_w_planeFailTimeout_probe : let r : Ring := { ring0 with probing := [(0, true)] }
    (fabric [r]).ring? 8 = some r ∧ (0, true) ∈ r.probing := by decide +kernel
theorem test_w_planeFailTimeout_data : let r : Ring := { ring0 with send := [(0, { SendStripe.fresh 0 with unacked := [packet 1 0 none] })] }
    (fabric [r]).ring? 8 = some r ∧ r.send.any (fun x => x.2.plane == 0 && !x.2.unacked.isEmpty) = true := by decide +kernel
theorem test_w_probeTimer : (fabric [ring0]).ring? 8 = some ring0 ∧ 0 ∈ ring0.planeList ∧ ring0.probing = [] := by decide +kernel
theorem test_w_probeReceived : let r : Ring := { ring0 with probing := [(0, false)] }
    ∀ t ∈ [2, 3], (fabric [r]).ringArrival 0 (packet t 2 none) r = true ∧ r.fromPred (packet t 2 none) = true ∧ r.fromSucc (packet t 2 none) = false := by decide +kernel
theorem test_w_hello : let p := packet 4 2 (some (forming0.ctl 1 0 0 0))
    (fabric [forming0]).ringArrival 0 p forming0 = true := by decide +kernel
theorem test_w_ring_control : ∀ k ∈ [2, 3, 4], let p := packet 4 2 (some (ring0.ctl k 0 0 0))
    (fabric [ring0]).ringArrival 0 p ring0 = true ∧ ring0.isBroken = false ∧ (ring0.fromPred p || ring0.fromSucc p) = true := by decide +kernel
theorem test_w_port_frames : (fabric []).lportState 0 = 3 ∧ ((fabric []).lport 0).set = true ∧ ((fabric []).lport 0).ipv6 = 0xFE80 := by decide +kernel
theorem test_w_echo_length : 48 + (List.replicate 4048 (0 : Byte)).length ≤ 4096 ∧ 4096 < 48 + (List.replicate 4049 (0 : Byte)).length := by
  rw [List.length_replicate, List.length_replicate]; decide

/-- A reduction of one block on that ring: SRC of 32 F32 elements, DST of one chunk. -/
def collDesc (h base fmt n : Nat) : Desc := { descAt h base with format := fmt, flags := 0, statsBase := 0, extent := [n, 1, 1, 1, 1] }
def collTens : List Tensor := [{ tensAt 0 0x10000000000 with desc := collDesc 0 0x10000000000 0 32 }, { tensAt 1 0x10000020000 with desc := collDesc 1 0x10000020000 7 2 }]
theorem test_w_collectiveStage : let st := stg 0xC 0 (zeros 4 ++ leBytes 2 0 ++ leBytes 2 1 ++ zeros 12)
    let a : Accord := { accordAt 2 [st] with tensors := [0, 1], rings := 1 }
    let s : State := { atStage1 2 st item1 with fabric := (fabric [ring0]).fabric, tensors := collTens, accords := [a] }
    let g := collectiveImage (collDesc 0 0x10000000000 0 32) (collDesc 1 0x10000020000 7 2) st
    s.atStage io (invAt item1) a st 0xC = true ∧ s.accordRings 0 1 = [8] ∧ [a.bindHandle (st.prm 0x20 2), a.bindHandle (st.prm 0x22 2)] = [0, 1] ∧
      g.collectives.findSome? (s.collFault g [0, 1] [8]) = none := by decide +kernel

/-! ### Witnesses: configuration flash, security, SPDM -/

def cflOp (isErase susp : Bool) : CflOp := { id := some io, isErase := isErase, addr := 0x08000000, data := [], suspended := susp }
def flashing (o : Option CflOp) (level : Nat) : State := { up with cfl := { up.cfl with op := o, protLevel := level } }

theorem test_w_cflRead : let c : Instr := .cflRead adm 0x0FFFFFFF 1
    let s := given up adm c
    starts s adm c = true ∧ 0x0FFFFFFF + 1 ≤ cflSize ∧ s.cfl.protLevel = 0 ∧ s.cfl.bankBusy (cflBank 0x0FFFFFFF) = false := by decide
theorem test_w_cflRead_level : let c : Instr := .cflRead adm 0x02020000 16
    let s := given (flashing (some (cflOp true false)) 2) adm c
    starts s adm c = true ∧ 0x02020000 + 16 ≤ cflCustomer := by decide
theorem test_w_cflProgram : let c : Instr := .cflProgram adm 0x080000FF
    let o : Outst := { waiting adm c with ibufLen := 1 }
    let s := withOut up [o]
    s.startable adm c = some o ∧ 0x080000FF < cflSize ∧ 0x080000FF % 256 + 1 ≤ 256 ∧ cflCustomer ≤ 0x080000FF ∧ s.cfl.protLevel ≠ 2 ∧ s.cfl.op = none ∧
      s.hostBad 0x1000 1 = false := by decide
theorem test_w_cflErase : let c : Instr := .cflErase adm 4095
    let s := given (flashing none 1) adm c
    starts s adm c = true ∧ cflCustomer ≤ 4095 * 0x10000 ∧ s.cfl.protLevel ≠ 2 ∧ s.cfl.op = none := by decide
theorem test_w_cflSuspend : let c : Instr := .cflSuspend adm
    starts (given (flashing (some (cflOp true false)) 0) adm c) adm c = true ∧ (cflOp true false).suspended = false := by decide
theorem test_w_cflResume : let c : Instr := .cflResume adm
    starts (given (flashing (some (cflOp true true)) 0) adm c) adm c = true ∧ (cflOp true true).suspended = true := by decide
theorem test_w_cflProtect_up : let c : Instr := .cflProtect adm 2
    let s := given (flashing none 1) adm c
    starts s adm c = true ∧ s.configTurn (waiting adm c) = true ∧ s.cfl.protLevel < 2 := by decide
theorem test_w_cflProtect_down : let c : Instr := .cflProtect adm 0
    let s := given (flashing none 1) adm c
    starts s adm c = true ∧ s.configTurn (waiting adm c) = true ∧ s.cfl.lowerCmd ≠ some adm ∧ s.cfl.protLevel = 1 := by decide
/-- A lowering from level 1 to 0 before and after its storage reset, and a release from level 2 (whatever the release's bytes are). -/
def lowered (level : Nat) (l : Option Nat) : State := { up with cfl := { up.cfl with protLevel := level, lowerCmd := some adm, lowering := l } }
theorem test_w_cflProtect_stages : (lowered 1 none).cfl.lowering = none ∧ 0 < (lowered 1 none).cfl.protLevel ∧ (lowered 1 none).encryptedRunning = false ∧ (lowered 1 none).startable adm (.cflProtect adm 0) = none ∧
    (lowered 1 (some 0)).cfl.lowering.isSome = true ∧ (lowered 1 (some 0)).power.storageReady = true := by decide
theorem test_w_cflProtect_release : let c : Instr := .cflProtect adm 1
    let s := given (flashing none 2) adm c
    starts s adm c = true ∧ s.configTurn (waiting adm c) = true ∧ s.cfl.lowerCmd ≠ some adm ∧ s.cfl.protLevel = 2 ∧ 16256 ≤ (waiting adm c).ibufLen ∧
      s.hostBad 0x1000 16256 = false := by decide
theorem test_w_cflProtect_same : let c : Instr := .cflProtect adm 1
    let s := given (flashing none 1) adm c
    starts s adm c = true ∧ s.configTurn (waiting adm c) = true ∧ s.cfl.protLevel = 1 := by decide
theorem test_w_cflOperationDone : (flashing (some (cflOp true false)) 0).cfl.op = some (cflOp true false) ∧ (cflOp true false).id = some io := by decide
theorem test_w_bar2WindowRead : up.power.powered = true ∧ up.fnAlive (.pf 0) = true ∧ Fn.pf 0 ∉ up.host.fnD3 ∧ 0x0FFFFE00 + 512 ≤ cflSize ∧ 0x0FFFFE00 % 4096 + 512 ≤ 4096 := by
  decide

theorem test_w_attest : let c : Instr := .attest adm 0
    let s := given up adm c
    starts s adm c = true ∧ s.configTurn (waiting adm c) = true ∧ 16480 ≤ (waiting adm c).rbufLen := by decide
/-- The certificate chain's length is free, so the witness holds its result. -/
theorem test_w_identityRead : let c : Instr := .identityRead adm
    let o : Outst := { waiting adm c with hold := true }
    (withOut up [o]).startable adm c = some o ∧ o.hold = true := by decide
theorem test_w_romxUpdate : let c : Instr := .romxUpdate adm
    let s := given up adm c
    starts s adm c = true ∧ s.configTurn (waiting adm c) = true ∧ s.cfl.protLevel ≠ 2 ∧ s.hostBad 0x1000 65536 = false ∧ s.sec.updating = none := by decide
/-- An update whose program time runs. -/
theorem test_w_romxUpdate_ends : ({ up with sec := { up.sec with updating := some (adm, [1]) } } : State).sec.updating = some (adm, [1]) ∧ up.startable adm (.romxUpdate adm) = none := by decide
theorem test_w_debugChainOpen : up.cfl.protLevel = 0 := by decide

/-- A requester on a path, as far as these flags say. -/
def spdmAt (p : SpdmPath) (v c a h e : Bool) : State :=
  { up with sec := { up.sec with spdm := [{ path := p, version := v, caps := c, algs := a, handshake := h, session := e, keyGen := 0 }] } }

theorem test_w_spdm_live : up.spdmLive .mctp = true ∧ up.spdmLive (.doe 0) = true ∧ { up with host := { up.host with splitSampled := true } }.spdmLive (.doe 1) = true := by decide
theorem test_w_spdm_state : (∀ p ∈ [SpdmPath.mctp, .doe 0], ((spdmAt p true false false false false).spdmOf p).version = true ∧
    ((spdmAt p true true false false false).spdmOf p).caps = true ∧ ((spdmAt p true true true false false).spdmOf p).algs = true ∧
    ((spdmAt p true true true true false).spdmOf p).handshake = true ∧ ((spdmAt p true true true false true).spdmOf p).session = true ∧
    (spdmAt p true true true true true).spdmLive p = true) ∧ (spdmAt (.doe 0) true true true false true).fnAlive (.pf 0) = true := by decide
theorem test_w_ideIntegrityFailure : alookup (Fn.pf 0) ({ up with sec := { up.sec with ide := [(.pf 0, true)] } } : State).sec.ide = some true := by decide

/-! ### Witnesses: telemetry, management, test -/

theorem test_w_healthLog : let c : Instr := .healthLog adm
    starts (given up adm c) adm c = true ∧ 0xC20 ≤ (waiting adm c).rbufLen := by decide
theorem test_w_memInfo : let c : Instr := .memInfo adm
    starts (given up adm c) adm c = true ∧ 32 * Variant.dies up.variant ≤ (waiting adm c).rbufLen := by decide
theorem test_w_storeInfo : let c : Instr := .storeInfo adm
    starts (given up adm c) adm c = true := by decide
theorem test_w_acctRead : let c : Instr := .acctRead adm 0 0 15
    let s := given { up with ctxs := [Ctx.fresh 0 15 1 0] } adm c
    passes (acctFields 0 0 15) = true ∧ passes (s.acctIdent (waiting adm c) 0 0 15) = true ∧ starts s adm c = true := by decide +kernel
theorem test_w_acctClear : let c : Instr := .acctClear io 1 0 0 (2 ^ 27 - 1)
    let s := given store io c
    passes (acctFields 1 0 0) = true ∧ passes (s.acctIdent (waiting io c) 1 0 0) = true ∧ starts s io c = true := by decide +kernel

/-- A result of four bytes held under handle 6. -/
def held1 : Held := { handle := 6, id := { queue := .io 0, tag := 31 }, serial := 2, bytes := [1, 2, 3, 4], isDone := true, readBefore := false, part := 0, room := 4 }
def holds1 (s : State) : State := { s with host := { s.host with held := [held1] } }
theorem test_w_resultRead : let byHandle : Instr := .resultRead io 6 0 0 4
    let byTag : Instr := .resultRead io 0 1 31 0
    (starts (holds1 (given store io byHandle)) io byHandle = true ∧ (holds1 (given store io byHandle)).named (waiting io byHandle) 6 0 0 = .result held1 ∧
        (holds1 (given store io byHandle)).resultTurn (waiting io byHandle) held1 = true) ∧
      (starts (holds1 (given store io byTag)) io byTag = true ∧ (holds1 (given store io byTag)).named (waiting io byTag) 0 1 31 = .result held1 ∧
        (holds1 (given store io byTag)).resultTurn (waiting io byTag) held1 = true) := by decide +kernel
theorem test_w_resultRelease : let c : Instr := .resultRelease io 6 0 0
    starts (holds1 (given store io c)) io c = true ∧ (holds1 (given store io c)).named (waiting io c) 6 0 0 = .result held1 ∧
      (holds1 (given store io c)).resultTurn (waiting io c) held1 = true := by decide +kernel
theorem test_w_eventWait : let c : Instr := .eventWait io
    starts (given store io c) io c = true ∧ (((given store io c).chargeQueue io.queue 17 32).queue io.queue).events = [] := by decide +kernel
theorem test_w_healthLogSave : up.power.powered = true ∧ up.power.flushing = false ∧ up.power.flushed = false := by decide
theorem test_w_resultTimeout : (holds1 store).host.held.find? (fun y => y.handle = 6) = some held1 ∧ held1.isDone = true ∧
    ((holds1 store).queue held1.id.queue).heldCpls.any (fun k => k.held && k.handle == 6) = false := by
  decide +kernel

theorem test_w_management : up.power.powered = true ∧ 0xC1F + 1 ≤ 0xC20 ∧ 0xC20 < 0xC1F + 2 ∧ up.mgmt.events = [] ∧ up.mgmt.smbOnly = false ∧ up.mgmt.i3c = false ∧
    { up with mgmt := { up.mgmt with events := [(5, 1)] } }.mgmt.events = [(5, 1)] := by decide

theorem test_w_linkTest_mission : let c : Instr := .linkTest adm 6 0 127 0 7 511 0
    let s := given up adm c
    s.lanesOk 6 511 = true ∧ passes (s.linkIdent (waiting adm c) 6 127 511) = true ∧ s.linkTested 6 127 = false ∧ starts s adm c = true ∧ s.modeAllowed 6 127 0 = true := by decide +kernel
theorem test_w_linkTest_runs : let c : Instr := .linkTest adm 1 4 15 2 0 255 60000
    let s := given up adm c
    s.lanesOk 1 255 = true ∧ passes (s.linkIdent (waiting adm c) 1 15 255) = true ∧ s.linkTested 1 15 = false ∧ starts s adm c = true ∧ patternOk 1 4 = true ∧ s.modeAllowed 1 15 2 = true := by
  decide +kernel
theorem test_w_linkMargin : let c : Instr := .linkMargin adm 6 0 511 15
    let s := given (nand up) adm c
    s.lanesOk 6 511 = true ∧ passes (s.linkIdent (waiting adm c) 6 0 511) = true ∧ s.linkTested 6 0 = false ∧ starts s adm c = true ∧ s.channelFree 0 = true := by decide +kernel
theorem test_w_testDurationEnd : let t : LinkTest := { id := adm, kind := 1, index := 15, pattern := 4, mode := 2, lun := 0, laneMask := 255, isMargin := false, target := 0, locked := [] }
    ({ up with test := { up.test with links := [t] } } : State).test.links.find? (fun x => x.kind = 1 && x.index = 15) = some t := by decide
theorem test_w_memBist : let c (target algorithm index : Nat) : Instr := .memBist adm target algorithm index
    (∀ x ∈ [(0, 1, 31), (1, 0, 23)], starts (given up adm (c x.1 x.2.1 x.2.2)) adm (c x.1 x.2.1 x.2.2) = true ∧
      (if x.1 = 0 then x.2.1 ≤ 1 else x.2.1 = 0) ∧ x.2.2 < (if x.1 = 0 then Variant.clusters up.variant else Variant.stacks up.variant)) ∧
      bistRoom ≤ 65536 ∧ up.cfl.protLevel ≠ 2 ∧ up.test.bist = [] ∧ up.ctxs = [] := by decide +kernel
theorem test_w_errInject : let c : Instr := .errInject adm 0 2 (8 * 0x800000)
    let s := given up adm c
    starts s adm c = true ∧ s.hasPart 0 = true ∧ s.cfl.protLevel ≠ 2 ∧ s.injectable 0 (8 * 0x800000) = true := by decide +kernel
theorem test_w_memBistDone : let b : Bist := { id := adm, target := 1, algorithm := 0, index := 0 }
    ({ up with test := { up.test with bist := [b] } } : State).test.bist = [b] ∧ b.target = 1 := by decide
theorem test_w_jtag : State.reset.cfl.protLevel ≠ 2 ∧ State.reset.heldInReset = true ∧ { State.reset with cfl := { State.reset.cfl with protLevel := 2 } }.cfl.protLevel = 2 := by decide

/-! ### Witnesses: steps -/

def local0 (k : Nat) : Desc := { newDesc with tier := 0, base := 65536 * k, channels := 1, bytes := 64 }
/-- A program of one core with these steps and prefetch entries, over two tensors in tidepool; a core before its first step, or with steps in flight. -/
def imgOf (steps : List StepKind) (pf : List Prefetch) : Image :=
  { prog1.img with events := 4, tensors := [local0 0, local0 1], slots := [], steps := [steps.map (fun k => { kind := k, sync := true })], prefetch := pf }
def coreAt (pc : Nat) (fl : List Nat) (sw : Bool) : CoreRun :=
  { flat := 0, pc := pc, inflight := fl, layer := 0, pfIssued := [], pfDone := [], atCommit := false, pendingSwap := [sw, false] }
def runWith (steps : List StepKind) (pf : List Prefetch) (c : CoreRun) : Run := { runOf 0 false with img := imgOf steps pf, cores := [c], rings := [8] }
def stepping (r : Run) : State := { fabric [ring0] with host := { store.host with outst := [started io (.progRun io 9 7)] }, runs := [r] }
/-- A core whose next and only step is `k`, and whether that step may issue. -/
def before (k : StepKind) : State := stepping (runWith [k] [] (coreAt 0 [] false))
def mayIssue (k : StepKind) : Bool := (before k).nextStep 0 k (runWith [k] [] (coreAt 0 [] false)) (coreAt 0 [] false)
def sees (k : StepKind) (idx : Nat) : Bool := (((before k).issued 0 k (runWith [k] [] (coreAt 0 [] false)) (coreAt 0 [] false)).operand (runWith [k] [] (coreAt 0 [] false)) 0 idx).isSome

def load0 : LoadArgs := { shape := 0, halfB := false, w := 0, tileK := 0, tileN := 0 }
def mat0 (m n k : Nat) : MatArgs :=
  { engine := 0, shape := 0, accumulate := false, final := true, halfB := false, round := 0, act := 0, ieeeOvf := false, a := 0, w := 0, out := 1, bias := 0xFFF, m := m, n := n, k := k
    accBase := 0, accLog2W := 0, outFormat := 6, sregBase := 0, kOff := 0, nOff := 0, mOff := 0 }
def vec0 : VecArgs :=
  { vop := 0, round := 0, conforming := false, dequant := false, ieeeOvf := false, ascending := false, mode := 0, a := 0, b := 0, bUse := 0, c := 0, cUse := 0, out := 1
    outFormat := 6, pred := 0, topkK := 0, param := 0, rowOff := 0, rows := 1 }
def quant0 : QuantArgs := { asym := false, merge := false, axis := 0, src := 0, group := 0, target := 6, seg := 0, round := 0, out := 1 }
def coll0 : CollArgs := { cop := 0, ring := 0, src := 0, dst := 1, headroom := 0 }

theorem test_w_wait : mayIssue (.wait 3 0) = true := by decide +kernel
theorem test_w_signal : mayIssue (.signal 3 0 1) = true ∧ (runWith [.signal 3 0 1] [] (coreAt 0 [] false)).cores[8 * 0]? = some (coreAt 0 [] false) := by decide +kernel
theorem test_w_layerMark : mayIssue (.layerMark 65535) = true := by decide +kernel
theorem test_w_commit : mayIssue .commit = true := by decide +kernel
theorem test_w_fill : mayIssue (.fill 8 0 16 7) = true := by decide +kernel
theorem test_w_tpCopy : let k : StepKind := .tpCopy 0 64 64
    let r := runWith [k] [] (coreAt 0 [] false)
    mayIssue k = true ∧ ((((before k).issued 0 k r (coreAt 0 [] false)).probe (tpBase 0) 64).run? io).isSome = true := by decide +kernel
theorem test_w_swap : mayIssue (.swap false) = true ∧ mayIssue (.swap true) = true := by decide +kernel
theorem test_w_swapTakesEffect : let c := coreAt 1 [0] true
    let r := runWith [.swap false] [] c
    (stepping r).runOn 0 = some r ∧ r.cores.find? (fun x => x.flat = 0) = some c ∧ r.swapIdx c 0 = some 0 ∧ c.pendingSwap.getD 0 false = true ∧
      r.busyHalves c (((stepping r).core 0).swapHalves 0) = false := by decide +kernel
theorem test_w_loadWeights : mayIssue (.loadWeights load0) = true ∧ sees (.loadWeights load0) 0 = true := by decide +kernel
theorem test_w_streamMm : mayIssue (.streamMm (mat0 1 1 1)) = true := by decide +kernel
theorem test_w_mv : mayIssue (.mv (mat0 1 1 1)) = true := by decide +kernel
theorem test_w_vec : mayIssue (.vec vec0) = true := by decide +kernel
theorem test_w_qscan : mayIssue (.qscan quant0) = true ∧ sees (.qscan quant0) 0 = true := by decide +kernel
theorem test_w_qconvert : mayIssue (.qconvert quant0) = true ∧ sees (.qconvert quant0) 0 = true ∧ sees (.qconvert quant0) 1 = true := by decide +kernel
theorem test_w_copy : mayIssue (.copy true 0 1) = true ∧ sees (.copy true 0 1) 0 = true ∧ sees (.copy true 0 1) 1 = true := by decide +kernel
theorem test_w_collective : mayIssue (.collective coll0) = true ∧ sees (.collective coll0) 0 = true := by decide +kernel
def pf0 (dstTier : Nat) : Prefetch := { layer := 0, core := 0, src := 0, dst := 1, srcTier := 1, dstTier := dstTier, after := none }
theorem test_w_prefetchIssue : ∀ tier ∈ [0, 1], let p := pf0 tier
    let c := coreAt 0 [] false
    let r := runWith [.commit] [p] c
    let s := stepping r
    let t := (s.keepOld r 0 pfKey (if p.dstTier = 0 then r.whole p.dst else [])).updCore io 0 (fun x => { x with pfIssued := x.pfIssued ++ [0], inflight := x.inflight ++ [pfKey] })
    s.runOn 0 = some r ∧ r.cores.find? (fun x => x.flat = 0) = some c ∧ r.img.prefetch[0]? = some p ∧ s.stalled = false ∧ r.pfDue c 0 p = true ∧ r.pfClear c p = true ∧
      (r.copyQueue c).length < 16 ∧ (t.operand r 0 0).isSome = true ∧ (t.operand r 0 1).isSome = true := by decide +kernel
theorem test_w_prefetchDone : let c := coreAt 0 [pfKey] false
    let r := runWith [.commit] [pf0 0] c
    (stepping r).runOn 0 = some r ∧ r.cores.find? (fun x => x.flat = 0) = some c ∧ pfKey ∈ c.inflight ∧ r.mayEnd c pfKey = true ∧
      (r.img.steps.getD (r.coreNo 0) [])[pfKey]? = none := by decide +kernel
theorem test_w_engineStepComplete : let c := coreAt 1 [0] false
    let r := runWith [.streamMm (mat0 1 1 1)] [] c
    (stepping r).runOn 0 = some r ∧ (r.img.steps.getD (r.coreNo 0) [])[0]? = some { kind := .streamMm (mat0 1 1 1), sync := true } ∧
      r.cores.find? (fun x => x.flat = 0) = some c ∧ 0 ∈ c.inflight ∧ r.mayEnd c 0 = true := by decide +kernel

/-! ### Witnesses: the flash store at work -/

def media (slots : List Slot) (map : List ((Nat × Nat) × MapEntry)) (sbs : List Superblock) : State :=
  let s := nand store
  { s with flash := { s.flash with slots := slots, map := map, sbs := sbs } }
def done (sid loc : Nat) (v : Bool) : Slot := { slotOf 1 sid sid (some 3) with programming := some loc, verified := v }

theorem test_w_slotProgram : let s := media [slotOf 1 0 0 (some 3)] [] []
    s.flash.slots.find? (fun y => y.sid = 0) = some (slotOf 1 0 0 (some 3)) ∧ s.flashFree = true ∧ s.isNextSlot (slotOf 1 0 0 (some 3)) = true ∧
      (s.placeFor 1 0).2.isSome = true := by decide +kernel
theorem test_w_nandProgramDone : let s := media [done 0 0 false] [] []
    (s.power.flushing || s.power.draining) = false ∧ s.flashFree = true ∧ s.flash.slots.find? (fun y => y.sid = 0) = some (done 0 0 false) := by decide +kernel
def copy0 : Copy := { key := 9, src := 5, loc := 16, mirror := false, ns := 1, unit := 0, seq := 3 }
theorem test_w_copyDone : let s := media [] [] []
    let t : State := { s with flash := { s.flash with copies := [copy0] } }
    t.flashFree = true ∧ t.flash.slots.find? (fun y => y.sid = 9) = none ∧ t.flash.copies.find? (fun x => x.key = 9) = some copy0 := by decide +kernel
/-- Two pieces of a flush, the first one written, and a segment of spare space. -/
def piece (key : Nat) : FPiece := { key := key, what := .slot 1 key 0, seq := 3, grp := 0 }
theorem test_w_flushPiece : let a : FlushArea := { up.flash.area with todo := [piece 1], written := [piece 0], tailsSaved := true, spare := 2 }
    let s : State := { store with flash := { store.flash with area := a }, power := { store.power with flushing := true } }
    (s.power.flushing || s.power.draining) = true ∧ s.flash.area.todo = [piece 1] ∧ s.flash.area.tailsSaved = true ∧
      (a.written.filter (fun q => q.sameSegment (piece 1))).length < a.spare := by decide

/-- Unit 0 of namespace 1 on NAND at page 5, alone or with its copy on group 1. -/
def onNand (mirror good : Bool) : State :=
  let s := media [] [((1, 0), { poison := 0, mirror := mirror, buf := false, loc := 5 })] []
  { s with flash := { s.flash with nand := (if good then [{ loc := 5, ns := 1, unit := 0, seq := 3 }] else []) ++
      (if mirror then [{ loc := s.mirrorOf 5, ns := 1, unit := 0, seq := 3 }] else []) } }
def lent (s : State) : State :=
  { s with test := { s.test with links := [{ id := adm, kind := 6, index := 0, pattern := 0, mode := 2, lun := 0, laneMask := 511, isMargin := false, target := 0, locked := [] }] } }
theorem test_w_readCodeword : ((onNand false true).mapAt 1 0).onNand = true ∧ (onNand false true).copyGood 5 1 0 = true ∧ (onNand false true).memberAway 5 = false ∧
    (lent (onNand false true)).copyGood 5 1 0 = true ∧ (lent (onNand false true)).memberAway 5 = true ∧
    ((onNand false true).flash.profileOf 0).map (·.softFrom) = some 3 := by decide +kernel
theorem test_w_readCodeword_mirror : ((onNand true false).mapAt 1 0).mirror = true ∧ (onNand true false).copyGood ((onNand true false).mirrorOf 5) 1 0 = true ∧
    (onNand false false).copyGood 5 1 0 = false ∧ ((onNand false false).mapAt 1 0).mirror = false ∧ ((onNand false false).mapAt 1 0).onNand = true := by decide +kernel

/-- A unit whose page is gone with its row while another member's channel is lent to a test. -/
theorem test_w_readCodeword_waits : let s := lent (onNand false true)
    let e := s.mapAt 1 0
    let both : State := { s with test := { s.test with links := s.test.links ++ s.test.links.map (fun l => { l with index := 1 }) },
                                 flash := { s.flash with sbs := [(nand store).flash.freshSb 0 0 .data] } }
    e.onNand = true ∧ s.testWaits e 1 0 = false ∧ both.copyGood 5 1 0 = false ∧ both.testWaits e 1 0 = true ∧ (onNand false false).testWaits ((onNand false false).mapAt 1 0) 1 0 = false := by decide +kernel

def sbAt (n : Nat) (st : SbState) (erases : Nat) : Superblock :=
  { (nand store).flash.freshSb 0 n .data with state := st, erases := List.replicate 16 erases, refresh := true, reads := List.replicate 16 1000 }
theorem test_w_readCountThreshold : let s := media [] [] [sbAt 0 .closed 0]
    s.sb? 0 0 = some (sbAt 0 .closed 0) ∧ s.refreshAt 0 ≤ (sbAt 0 .closed 0).reads.getD 15 0 := by decide +kernel
theorem test_w_superblock : let s := media [] [] [sbAt 0 .closed 0]
    s.sb? 0 0 = some (sbAt 0 .closed 0) ∧ s.flashFree = true ∧ (sbAt 0 .closed 0).refresh = true ∧ (sbAt 0 .closed 0).use = .data ∧ (sbAt 0 .closed 0).state = .closed ∧
      s.busySb (sbAt 0 .closed 0) = false ∧ s.flash.sbs.find? (fun x => x.group = 0 && (x.state = .collecting || x.state = .dissolving)) = none ∧
      s.victim 0 = some (sbAt 0 .closed 0) := by
  decide +kernel
theorem test_w_gcCollect_goes_on : let s := media [] [] [sbAt 0 .collecting 0]
    s.sb? 0 0 = some (sbAt 0 .collecting 0) ∧ (sbAt 0 .collecting 0).refresh = true ∧ s.flashFree = true ∧ s.flash.sbs.find? (fun x => x.group = 0 && (x.state = .collecting || x.state = .dissolving)) = some (sbAt 0 .collecting 0) := by decide +kernel
theorem test_w_nandEraseDone : let s := media [] [] [sbAt 0 .erasing 0]
    s.sb? 0 0 = some (sbAt 0 .erasing 0) ∧ s.flashFree = true ∧ (List.range 16).all (fun m => !s.borrowed (16 * 0 + m)) = true := by decide +kernel
theorem test_w_wearLevel : let s := media [] [] [sbAt 0 .closed 0, sbAt 1 .closed 151]
    let closed := s.flash.sbs.filter (fun x => x.group = 0 && x.use = .data && x.state = .closed && !s.busySb x)
    leastBy (fun a b => decide (a.eraseCount < b.eraseCount)) closed = some (sbAt 0 .closed 0) ∧
      leastBy (fun a b => decide (b.eraseCount < a.eraseCount)) closed = some (sbAt 1 .closed 151) ∧ s.flashFree = true ∧
      s.cfg.tunables.getD 4 5 * ((s.flash.profileOf 0).map (·.peRated)).getD 0 < 100 * ((sbAt 1 .closed 151).eraseCount - (sbAt 0 .closed 0).eraseCount) := by decide +kernel
/-- A journal record of die 0 that waits to be written. -/
def jrec : JRec := { seq := 3, unit := 0, ns := 1, entry := { poison := 0, mirror := false, buf := false, loc := 5 }, kind := 0, die := 0, gid := 1, gsize := 1, loc := 0 }
theorem test_w_journalPieceWrite : let s := media [] [] []
    let t : State := { s with flash := { s.flash with jbuf := [jrec] } }
    let u := t.writeRecs (((t.flash.jbuf.filter (fun r => r.die = 0)).filter (fun r => !t.recWaits r)).take pieceRecs)
    t.flashFree = true ∧ u.2.length = 1 ∧ u.2.all (fun r => r.loc != 0) = true := by decide +kernel
theorem test_w_mapCheckpoint : let s := nand store
    let w := State.programSlc .checkpoint (chunks 16384 (ceilDiv (5 * 256) 16384 + 1) (segBytes [] 0 256)) (s.journalOut (fun r => decide (r.gid ∈ ([] : List Nat))))
    s.ns? 1 = some (nsOf 1 0 0) ∧ s.flashFree = true ∧ (nsOf 1 0 0).segments = 1 ∧ s.flash.jbuf = [] ∧ s.flash.durableMap = [] ∧ ceilDiv 1024 4 = 256 ∧
      0 ∉ w.2 ∧ (s.journalOut (fun r => decide (r.gid ∈ ([] : List Nat)))).flash.durableMap = [] ∧ w.1.flash.jbuf = [] := by decide +kernel
theorem test_w_channelRecalibrate : (nand store).flash.groupState.getD (15 / 16) 0 = 1 := by decide +kernel

/-! ### Witnesses: scrubbing, scheduling, power samples, faults -/

/-- A line of the die cache, and a run that holds core 0. -/
def cached (s : State) : State := { s with dcache := [{ addr := lineOf 0x10000000000, way := 0, dirty := false, pinned := false }] }
theorem test_w_scrubStep : ∀ st ∈ [Store.tidepool, .nearMemory, .dieCache], let a := if st = .tidepool then 0x7FDFFFF8 else 0x10000000000
    let s := cached up
    s.scrubs st a = true ∧ (st = .dieCache → s.dcache.any (fun l => l.addr == lineOf a) = true) ∧
      (st, checkedUnit st a) ∉ s.integ.poison ∧ (st, checkedUnit st a) ∉ s.integ.bad ∧ (st, checkedUnit st a) ∉ s.integ.weak := by decide
theorem test_w_scrubStep_checker : let s := stepping (runWith [] [] (coreAt 0 [] false))
    s.scrubs .accumulator 8 = true ∧ s.scrubs .path 8 = true ∧ s.integ.poison = [] := by decide +kernel
theorem test_w_outOfTurnScrub : let w := (Store.tidepool, checkedUnit .tidepool 15)
    let s (b : List (Store × Nat)) : State := { up with integ := { up.integ with weak := [w], counted := [w], bad := b } }
    (∀ b ∈ [[], [w]], w ∈ (s b).integ.weak ∧ w ∈ (s b).integ.counted ∧ (s b).scrubs .tidepool 15 = true) ∧ w ∉ (s []).integ.bad ∧ w ∈ (s [w]).integ.bad := by decide
theorem test_w_powered : up.power.powered = true ∧ up.power.computeReady = true ∧ up.silent = false := by decide

def io1 : CmdId := { queue := .io 1, tag := 4 }
/-- Contexts 0 and 1 of partition 0: context 0 holds the slice or nobody does, its command runs, and context 1 has one that is ready. -/
def two (holder : Option Nat) (kills : Nat) : State :=
  { store with ctxs := [ctx0, Ctx.fresh 0 1 3 0], progs := [prog1], parts := [(0, { PartRt.new with holder := holder, sliceLen := 2000 })]
               host := { store.host with outst := [{ started io (.progRun io 9 7) with sliceKills := kills }, waiting io1 (.progRun io1 9 7)] } }
theorem test_w_sliceEnd_on : let s := two (some 0) 2
    s.hasPart 0 = true ∧ (s.partRt 0).holder = some 0 ∧ (s.partRt 0).overrun = false ∧ (s.runningSliced 0 0).any (fun o => s.runsOn o) = true := by decide +kernel
theorem test_w_sliceEnd_next : let s := two (some 0) 0
    s.hasPart 0 = true ∧ (s.partRt 0).holder = some 0 ∧ (s.partRt 0).overrun = false ∧ (s.runningSliced 0 0).any (fun o => !s.runsOn o) = true ∧
      (State.chooseNext 0 s.chooseRounds [] s).2 = some 1 := by decide +kernel
theorem test_w_sliceEnd_idle : let s := withOut (two (some 0) 0) [waiting io1 (.progRun io1 9 7)]
    s.hasPart 0 = true ∧ (s.partRt 0).holder = some 0 ∧ (s.partRt 0).overrun = false ∧ s.runningSliced 0 0 = none := by decide +kernel
theorem test_w_handover : let s := withOut (two none 0) [waiting io1 (.progRun io1 9 7)]
    let r := State.chooseNext 0 s.chooseRounds [] s
    s.hasPart 0 = true ∧ (s.partRt 0).holder = none ∧ r.2 = some 1 ∧ (r.1.partRt 0).holder ≠ some 1 := by decide +kernel
theorem test_w_handover_idle : let s := withOut (two (some 0) 0) [waiting io1 (.progRun io1 9 7)]
    (s.partRt 0).holder = some 0 ∧ s.runningSliced 0 0 = none ∧ s.readySliced 0 0 = [] := by decide +kernel
theorem test_w_runBoundExpiry : let s : State := { two (some 0) 2 with runs := [runOf 0 false] }
    s.hasPart 0 = true ∧ (s.outst? io).any (fun o => o.phase == .running && s.runsOn o) = true ∧ (s.run? io).isSome = true := by decide +kernel
theorem test_w_regulatorAdmit : let s : State := { up with cfg := { up.cfg with recA := some recTwo, inForce := { up.cfg.inForce with parts := [{ entry0 with rateNm := 8 }] } } }
    let come : State := { s with arbiters := ainsert (.nm, 0) { (s.arbiter .nm 0) with waiting := [(0, 4096)] } s.arbiters }
    s.hasPart 0 = true ∧ s.hasPlace 0 .nm 0 = true ∧ s.servedNext .nm 0 = none ∧ (s.arbiter .nm 0).waiting = [] ∧ come.servedNext .nm 0 = some 0 ∧
      (come.arbiter .nm 0).waiting.find? (fun x => x.1 = 0) = some (0, 4096) := by decide +kernel
def capped (w : Nat) : State :=
  let u : State := { up with power := { up.power with otherLast := [w] } }
  ((u.capPoints w).foldl (fun x y => x.updPart y.1 (fun r => { r with clockPoint := y.2.2 })) u).setSupplies
theorem test_w_capStep : (capped 1).stored.pkgCap (capped 1).variant < 5000 ∧ 100 ≤ (capped 1).stored.pkgCap (capped 1).variant := by decide +kernel
theorem test_w_tempSample : let hot : State := { up with health := { up.health with hotSince := [(0, 7)] } }
    let fit (l : List (Nat × Int)) := l.filter (fun x => up.slotFitted x.1)
    (fit [(0, (114 : Int)), (21, 200), (22, 300)]).length = 2 ∧
      (fit [(0, (114 : Int)), (21, 200)]).all (fun x => decide (x.2 < 115) || (alookup x.1 up.health.hotSince).isNone) = true ∧
      (fit [(0, (115 : Int))]).find? (fun x => decide (115 ≤ x.2) && (alookup x.1 hot.health.hotSince).isSome) = some (0, 115) := by decide +kernel
theorem test_w_capStep_off : up.power.powered = true ∧ ({ up with power := { up.power with computeReady := false } } : State).power.computeReady = false := by decide
theorem test_w_unitFault : (∀ u ∈ [0x5000 + 31, 0x7000 + (8 * 127 + 7), 0x8000 + 127], up.unitExists u = true ∧ u ∉ up.health.log.outOfService ∧
    unitKind u ∉ [0xA, 0xB, 0xD] ∧ unitKind u ≠ 9 ∧ unitKind u ≠ 0xE ∧ u ≠ 0 ∧ u ≠ 2) := by decide +kernel
/-- A mesh link whose loss leaves every die joined, one that cuts die 0 off, and a processor of eight or of four that are left. -/
def outOf (us : List Nat) : State := { up with health := { up.health with log := { up.health.log with outOfService := us } } }
def meshOut (s : State) (a b : Nat) : Bool :=
  let u := 0x9000 + (8 * a + b)
  let t := ((s.containUnit u).1.recordFault u 1 (s.containUnit u).2).unitEvent u
  s.unitExists u && decide (u ∉ s.health.log.outOfService) && (t.dieCut a || t.dieCut b)
theorem test_w_meshFault : up.unitExists (0x9000 + 1) = true ∧ meshOut up 0 1 = false ∧ meshOut (outOf ((List.range 8).map (fun b => 0x9000 + b) |>.filter (· ≠ 0x9001))) 0 1 = true := by
  decide +kernel
theorem test_w_procFault : let left (s : State) := (List.range 8).countP (fun i => !((((s.containUnit 0xE007).1.recordFault 0xE007 1 (s.containUnit 0xE007).2).unitEvent 0xE007).unitDown 0xE i))
    up.unitExists 0xE007 = true ∧ 4 ≤ left up ∧ left (outOf [0xE000, 0xE001, 0xE002, 0xE003]) < 4 ∧ 0xE007 ∉ (outOf [0xE000, 0xE001, 0xE002, 0xE003]).health.log.outOfService := by
  decide +kernel
theorem test_w_deviceFault : ∀ u ∈ [0xA007, 0xB000, 0xD003, 0, 2], up.unitExists u = true ∧ u ∉ up.health.log.outOfService := by decide +kernel
theorem test_w_watchdogExpiry : let s : State := { up with now := 3600000000, health := { up.health with watchdog := [(7, 1), (7, 2)] } }
    0xE000 + 7 ∉ up.health.log.outOfService ∧ (up.health.watchdog.filter (fun w => w.1 = 7 && decide (up.now < w.2 + 3600000000))).length = 0 ∧
      (s.health.watchdog.filter (fun w => w.1 = 7 && decide (s.now < w.2 + 3600000000))).length = 2 := by
  decide
theorem test_w_clockLoss : ({ up with host := { up.host with splitSampled := true } } : State).host.splitSampled = true := by decide

/-! ### Witnesses: power, reset, functions, queues -/

def powered (f : PowerSt → PowerSt) : State := { up with power := f up.power }

theorem test_w_powerOn : State.reset.power.pwrgd = false ∧ (State.reset.power.flushing || State.reset.power.flushed || State.reset.power.draining) = false := by decide
theorem test_w_lossSignals : (up.power.flushing || up.power.flushed || up.power.draining) = false ∧ up.power.storageReady = true := by decide
theorem test_w_flushLimitReached : (powered (fun p => { p with flushing := true })).power.flushing = true := by decide
theorem test_w_replayStart : let s := powered (fun p => { p with storageReady := false })
    s.power.adminReady = true ∧ s.power.computeReady = true ∧ s.power.storageReady = false ∧ s.power.replaying = false ∧ s.silent = false := by decide
theorem test_w_packageReset : (up.power.flushed || up.power.fault || !up.power.storageReady) = false ∧ (up.power.flushing || up.power.draining) = false ∧
    (let s := powered (fun p => { p with storageReady := false })
     s.power.powered = true ∧ (s.power.flushed || s.power.fault || !s.power.storageReady) = true ∧ (s.power.flushing || s.power.draining) = false) := by decide
theorem test_w_reset_waits : (powered (fun p => { p with draining := true })).power.draining = true ∧
    ((powered (fun p => { p with draining := true })).power.flushing || (powered (fun p => { p with draining := true })).power.flushed) = false ∧
    ((powered (fun p => { p with flushing := true })).power.flushing || (powered (fun p => { p with flushing := true })).power.draining) = true := by decide
theorem test_w_pkgReset : up.fnAlive (.pf 0) = true ∧ isVf (.pf 0) = false ∧ bitAt (0xA501#32).toNat 0 = true ∧ bits (0xA501#32).toNat 8 8 = 0xA5 := by decide
def linked (split : Bool) : State :=
  { up with host := { up.host with splitSampled := split, splitPending := false, ports := [{ Port.reset with linkUp := true, perstN := true }, { Port.reset with linkUp := true, perstN := true }] }
            now := 100000 }
theorem test_w_perstAssert : ((linked true).port 1).perstN = true ∧ (linked true).power.flushed = false ∧ (linked true).host.splitSampled = true ∧
    ((linked false).port 0).perstN = true ∧ (linked false).host.splitSampled = false := by decide
theorem test_w_perstRelease : up.power.powered = true ∧ up.host.splitPending = true := by decide

theorem test_w_pcieStopped : up.pcieStopped = false ∧ (powered (fun p => { p with flushing := true })).pcieStopped = true ∧
    (powered (fun p => { p with flushed := true })).pcieStopped = true := by decide
theorem test_w_vfEnable : up.pcieStopped = false ∧ (up.port 0).vfEnable = false ∧
    (({ up with host := { up.host with ports := [{ Port.reset with vfEnable := true }, Port.reset] } } : State).port 0).vfEnable = true := by decide
theorem test_w_configRequest : (linked false).fnAlive (.pf 0) = true ∧ ((linked false).port 0).linkUp = true ∧ ((linked false).port 0).perstN = true ∧
    ((linked false).port 0).releasedAt + 100000 ≤ (linked false).now ∧ ({ linked false with now := 99999 } : State).now < ((linked false).port 0).releasedAt + 100000 := by decide
theorem test_w_pcieLinkUp : ((linked false).port 0).perstN = true ∧ (linked false).power.adminReady = true ∧ (linked false).fnAlive (.pf 0) = true := by decide
theorem test_w_pcieLinkDown : up.host.queues.all (fun x => !x.2.enabled || x.2.orphaned || (x.2.owner.map fnPort) != some 0) = true := by decide

/-- I/O queue 0 enabled by PF 0, with an entry to report. -/
def queued : State := { store with host := { store.host with queues := [(.io 0, { Queue.reset with enabled := true, owner := some (.pf 0), irqEn := true, unreported := 1 })] } }
theorem test_w_queue_enabled : queued.reaches (.pf 0) (.io 0) = true ∧ (queued.queue (.io 0)).enabled = true ∧ (queued.queue (.io 0)).orphaned = false ∧
    (queued.queue (.io 0)).owner = some (.pf 0) ∧ (queued.queue (.io 0)).irqEn = true ∧ 0 < (queued.queue (.io 0)).unreported ∧ queued.silent = false := by decide
/-- One entry announced: no command, a NOP, or a NOP whose tag is in use; a page that the host reports as bad. -/
def announced (pkt : Bytes) (outst : List Outst) (bad : List Nat) : State :=
  { queued with host := { queued.host with outst := outst, memBad := bad, mem := Mem.writeN 0 [] 0 pkt
                                           queues := [(.io 0, { Queue.reset with enabled := true, owner := some (.pf 0), sqTail := 1, rung := [(0, 31)] })] } }
theorem test_w_commandFetch : let x (s : State) := s.queue (.io 0)
    let s := announced (zeros 64) [] []
    let n := packetBytes 0 0 3 0 [] 0 0 0 0
    s.silent = false ∧ (x queued).sqHead = (x queued).sqTail ∧ (x s).enabled = true ∧ (x s).orphaned = false ∧ (x s).sqHead ≠ (x s).sqTail ∧
      (announced n [] [63]).hostBad 0 64 = true ∧ s.hostBad 0 64 = false ∧ s.outst? { queue := .io 0, tag := 0 } = none ∧
      ((announced n [waiting io (.nop io)] []).outst? io).isSome = true ∧ field (slice n 2 1) 0 1 % 32 = 3 ∧
      passes (up.fetchCheck (.admin 0) n) = true ∧ passes (up.fetchCheck (.admin 0) (List.replicate 64 0xFF)) = false := by decide +kernel
/-- That queue with a command in hand or none, or orphaned. -/
theorem test_w_queueDisable : let o (s : State) : State := s.updQueue (.io 0) (fun x => { x with orphaned := true })
    (announced [] [] []).host.outst.any (fun o => o.id.queue = .io 0) = false ∧ (announced [] [waiting io (.nop io)] []).host.outst.any (fun o => o.id.queue = .io 0) = true ∧
      ((o queued).queue (.io 0)).orphaned = true ∧ ((o queued).queue (.io 0)).owner = some (.pf 0) ∧ (o queued).silent = false ∧ (o queued).reaches (.pf 0) (.io 0) = true := by decide
theorem test_w_queue_config : bits (0x03FF0003#32).toNat 16 10 < fnVectors (.pf 0) ∧ bitAt (0x03FF0003#32).toNat 0 = true := by decide
theorem test_w_queue_disabled : store.reaches (.pf 0) (.io 0) = true ∧ (store.queue (.io 0)).enabled = false ∧ (store.ctx? (0 / 16) (0 % 16)).isSome = true ∧
    store.reaches (.pf 0) (.admin 0) = true := by decide
theorem test_w_registers : up.fnAlive (.pf 0) = true ∧ isVf (.pf 0) = false ∧ Fn.pf 0 ∉ up.host.fnD3 ∧ 0x204 % 4 = 0 ∧ 0x208 % 8 = 0 := by decide

/-! ### Witnesses: the statements about the whole block -/

theorem test_w_step_front : ({ up with pending := [.nop adm, .idcode] } : State).pending = .nop adm :: [.idcode] := by decide
theorem test_w_step_idle : up.pending = [] ∧ up.power.powered = true ∧ State.reset.power.powered = false ∧
    (up.power.flushing || up.power.draining || up.power.replaying) = false ∧ up.cfl.lowering = none := by decide
theorem test_w_notReady : (commandFields (.nop adm)).isSome = true ∧ up.startable adm (.nop adm) = none ∧ up.cfl.lowerCmd ≠ some adm ∧ up.sec.updating.map (·.1) ≠ some adm := by decide
theorem test_w_step_wf : (StepKind.fill 8 0 16 7).wf = true ∧ (StepKind.streamMm (mat0 1 1 1)).wf = true ∧ (StepKind.vec vec0).wf = true := by decide
theorem test_w_packet_wf : (Instr.blockWrite io 1 1023 1).wf = true ∧ (commandFields (.blockWrite io 1 1023 1)).isSome = true := by decide
theorem test_w_completion : let c : Cpl := { tag := 31, repeated := false, held := false, event := false, takenOver := false, noIrq := false, status := .ok, resultLen := 0, handle := 0, detail := 0
                                             engineNs := 0, energyMj := 0, movedMib := 0 }
    up.host.mem.wf 0 = true ∧ c.resultLen < 2 ^ 32 ∧ c.handle < 2 ^ 32 ∧ c.engineNs < 2 ^ 64 ∧ (up.queue (.admin 0)).sqHead < 32 := by decide
/-- Any command that is alone in its queue starts, whatever its packet asks for: a held one among them. -/
theorem test_w_startable (s : State) (id : CmdId) (c : Instr) : (withOut s [{ waiting id c with hold := true }]).startable id c = some { waiting id c with hold := true } := by
  simp [withOut, State.startable, State.outst?, waiting, Outst.ready, Outst.orderOk]
theorem test_w_held_turn : let o : Outst := { waiting adm (.cfgWrite adm) with hold := true }
    (withOut up [o]).configTurn o = true ∧ up.nsHeld 1 = false ∧ o.hold = true := by decide
theorem test_w_fill_whole : up.mem.wf 0 = true ∧ (Instr.fill 0 8 0 16 7).wf = true ∧ mayIssue (.fill 8 0 16 7) = true ∧ (before (.fill 8 0 16 7)).mem = [] := by decide +kernel
theorem test_w_empty_matrix : mayIssue (.streamMm (mat0 0 5 5)) = true ∧ mayIssue (.mv (mat0 5 0 5)) = true := by decide +kernel
/-- Tensor 1 is bound by a running copy. -/
def boundOne (s : State) : State := { s with bindings := [{ id := io1, inputs := [descAt 1 0x10000020000], shadows := [] }] }
theorem test_w_busy : let e : Instr := .tensorEvict io 1
    let d (h : Nat) : Instr := .semDestroy io h
    let r : Instr := .ringDissolve io 8
    let n : State := { given (fabric [ring0]) io r with runs := [runWith [] [] (coreAt 0 [] false)] }
    starts (boundOne (given tensors io e)) io e = true ∧ (boundOne tensors).isBound 1 = true ∧ starts (given sems io (d 1)) io (d 1) = true ∧
      (sems.sems.find? (fun y => y.handle = 1 && y.part = 0)).any (fun x => x.holder.isSome) = true ∧
      (sems.sems.find? (fun y => y.handle = 0 && y.part = 0)).any (fun x => !(x.holder.isSome || !x.waiters.isEmpty)) = true ∧
      starts (given (fabric [ring0]) io r) io r = true ∧ (given (fabric [ring0]) io r).ringNamed io 8 = false ∧ starts n io r = true ∧ n.ringNamed io 8 = true := by
  decide +kernel
theorem test_w_counters : let a : Acct := { Acct.zero with counters := (2 ^ 64 - 1) :: List.replicate 26 0 }
    a.counters.length = 27 ∧ a.counters.getD 0 0 ≤ 2 ^ 64 - 1 ∧ 2 ^ 64 - 1 < a.counters.getD 0 0 + 1 ∧ a.counters.getD 26 0 + 1 ≤ 2 ^ 64 - 1 ∧
      ({ up with device := a } : State).device = a ∧ (up.partRt 0).acct = Acct.zero := by decide

/-! ### The manual's worked examples -/

/-- *F32 values converted to F8A*: code written, and whether it is counted; mode 2 is SR with the generator value shown. -/
def toF8A (w : W32) (mode r : Nat) : Nat × Nat := let x := fltF8A.encode ⟨mode, false, false⟩ (decF32 w) r; (x.1, x.2.sats)
theorem test_f8a : [toF8A 0x43710000#32 0 0, toF8A 0x437A0000#32 0 0, toF8A 0x437A0000#32 1 0, toF8A 0x43710000#32 2 0xF123, toF8A 0x43710000#32 2 0x1234,
    toF8A 0xC47A0000#32 0 0, toF8A 0x3A83126F#32 0 0, toF8A 0x80000000#32 0 0, toF8A 0x7FC00000#32 0 0] =
    [(0x7F, 0), (0x7F, 1), (0x7F, 0), (0x7F, 1), (0x7F, 0), (0xFF, 1), (0x00, 0), (0x00, 0), (0x80, 0)] := by decide +kernel
/-- *One BS16.F4 block*: 44.0, −13.0 and 3.0. -/
theorem test_block_f4 : let x := encodeBlock fltF4 rndRne [decF32 0x42300000#32, decF32 0xC1500000#32, decF32 0x40400000#32] [0, 0, 0]
    (x.1, x.2.1) = (0x82, [0x7, 0xB, 0x0]) := by decide +kernel
/-- *Four addresses on CD1*: stack, stack address, pseudo-channel. -/
theorem test_near_memory : [0x014000001800, 0x014000012345, 0x014000012400, 0x014000012500].map nmLocate =
    [(4, 0x0800, 8), (3, 0x6145, 33), (4, 0x6100, 33), (5, 0x6100, 33)] := by decide
/-- *A board declaring 150 J*, and *Every variant's largest ceiling*. -/
theorem test_ceilings : [largestCovered .nk2 150, largestCovered .nk4 150, largestCovered .nk8 150] = [8192, 14940, 17166] ∧
    covered .nk2 100 8192 = true ∧ covered .nk2 99 8192 = false ∧ covered .nk4 164 16384 = true ∧ covered .nk4 163 16384 = false ∧
    covered .nk8 273 32768 = true ∧ covered .nk8 272 32768 = false ∧ covered .nk4 150 14941 = false := by decide
/-- *Finding logical block 0x1234_5678*: home die and place. -/
theorem test_map_unit : up.unitDie (0x12345678 / 4) = 0 ∧ 0x12D1C0A3F / 2 ^ 27 = 37 ∧ 0x12D1C0A3F / 2 ^ 24 % 8 = 5 := by decide
/-- *A rescale on hop 300 of a 512-member ring*. -/
def hopBlock (a b c : Int) (exp res : Nat) (resc : Bool) : Lb32 :=
  { e := [a, 0, 0, 0, 0, b, 0, 0, 0, c] ++ List.replicate 22 0, exp := exp, rescaled := resc, raw := false, residue := res }
theorem test_link_adder : addHop (hopBlock (-1234567) 8380000 4095 121 11154 false) (hopBlock (-2001) 12000 8 121 4558 false) 300 121 =
    .sum (hopBlock (-618284) 4196000 2052 122 7861 true) true := by decide +kernel
theorem test_link_adder_next : let x := addHop (hopBlock (-618284) 4196000 2052 122 7861 true) (hopBlock (-3) 9001 0 121 (lbResidue (hopBlock (-3) 9001 0 121 0 false).e) false) 301 121
    x = .sum (hopBlock (-618286) 4200500 2052 122 (lbResidue (hopBlock (-618286) 4200500 2052 122 0 true).e) true) false := by decide +kernel
/-- *Caps on NK-4*: P0 has 8 clusters and a cap of 400 W, P1 8 clusters without one. -/
theorem test_caps : fitCap 8 400 3 = 1 ∧ fitCap 8 0 3 = 3 ∧ fitBudget 860 32 [(0, 8, 1), (1, 8, 3)] = [(0, 8, 1), (1, 8, 2)] ∧
    fitBudget 720 32 [(0, 8, 1), (1, 8, 3)] = [(0, 8, 1), (1, 8, 1)] := by decide
/-- *Moving between operating points*: the smallest WAIT of points 0, 1 and 3. -/
theorem test_waits : [0, 1, 3].map minWait = [10, 15, 23] := by decide
/-- *A full DATA frame*: header and forty blocks are 4,048 bytes, the frame 4,114. -/
theorem test_full_frame : let p : LsPkt := { packet 1 0 none with blocks := List.replicate 40 (hopBlock 0 0 0 0 0 false) }
    (lsBytes p).length = 4048 ∧ lsFrameLen LPort.reset p = 4114 := by decide +kernel
/-- R557: 0x3C over 0xA5 leaves 0x24. -/
theorem test_program_ands : let c : CflSt := { up.cfl with arr := [(0x08000000, 0xA5)] }
    (c.apply { cflOp false false with data := [0x3C] }).arr = [(0x08000000, 0x24)] := by decide

/-! ### Packets and step words written out from the manual's tables -/

/-- *Encoding a query batch on queue 53*. -/
def queryPacket : Bytes :=
  [0x61, 0x00, 0x09, 0x00, 0x00, 0x00, 0x00, 0x00, 0x0C, 0x01, 0xC8, 0x00, 0x80, 0x00, 0x0A, 0x00, 0x04, 0x00, 0x00, 0x00, 0, 0, 0, 0, 0, 0, 0, 0, 0, 0, 0, 0,
   0x00, 0x00, 0x00, 0x20, 0x40, 0x00, 0x00, 0x00, 0x00, 0xAC, 0x0D, 0x00, 0, 0, 0, 0, 0x00, 0x00, 0x00, 0x30, 0x40, 0x00, 0x00, 0x00, 0x80, 0x89, 0x00, 0x00, 0, 0, 0, 0]
def io53 : CmdId := { queue := .io 53, tag := 9 }
theorem test_query_packet : buildCommand queryPacket io53 = .idxQuery io53 12 1 200 128 10 4 0 ∧ queryBlockLen 1088 = 4480 ∧
    packetBytes 0x61 0 9 0 [(8, 1, 12), (9, 1, 1), (10, 2, 200), (12, 2, 128), (14, 2, 10), (16, 1, 4)] 0x4020000000 896000 0x4030000000 35200 = queryPacket := by decide +kernel
/-- One packet of each other group: opcode at 0, fields from 8 on. -/
def pkt (op : Nat) (fs : Bytes) : Bytes := [BitVec.ofNat 8 op] ++ zeros 7 ++ fs ++ zeros (56 - fs.length)
theorem test_packets : [buildCommand (pkt 0x04 [2, 0, 0, 0, 4, 3, 2, 1]) adm, buildCommand (pkt 0x15 [7, 15, 3]) adm, buildCommand (pkt 0x22 [63, 0, 0, 0, 5, 4, 3, 2, 1, 0, 0, 0, 9]) adm,
    buildCommand (pkt 0x33 [1, 0, 0, 0x80, 4, 0, 0, 0, 2, 0, 0, 0, 0, 0, 0, 0, 16]) adm, buildCommand (pkt 0x44 [6, 0, 0, 0, 64, 0, 0, 0, 0x80, 0x96, 0x98]) adm,
    buildCommand (pkt 0x50 [1, 0, 0, 0, 2, 0, 0, 0, 3]) adm, buildCommand (pkt 0x73 [9, 0, 0, 0, 0xFF, 0x0F]) adm,
    buildCommand (pkt 0x80 [1, 0, 0, 0, 2, 0, 0, 0, 3, 0, 2, 0, 1, 0, 0, 0, 0x60, 0xEA]) adm, buildCommand (pkt 0x90 [0, 0, 0, 8, 0, 1]) adm,
    buildCommand (pkt 0xC2 [6, 0, 127, 0, 0, 0, 0, 0, 0xFF, 1, 0, 0, 15]) adm, buildCommand (pkt 0xB6 [6, 0, 0, 0, 1, 31, 0, 0, 8]) adm] =
    [.storeTune adm 2 0x01020304, .ctxModify adm 7 15 3, .blockTrim adm 63 0x0102030405 9, .tensorRead adm 0x80000001 4 2 16, .semAcquire adm 6 64 10000000, .qstats adm 1 2 3,
     .modelBind adm 9 4095, .ringForm adm 1 2 3 2 1 60000, .cflRead adm 0x08000000 256, .linkMargin adm 6 127 511 15, .resultRead adm 6 1 31 8] := by decide +kernel

/-- A step word: KIND, COMMON with SYNC, and the bytes from 0x02 on. -/
def word (kind : Nat) (bs : Bytes) : Option StepWord := stepWordOf ([BitVec.ofNat 8 kind, 1] ++ bs ++ zeros (30 - bs.length))
def spells (kind : Nat) (bs : Bytes) (k : StepKind) : Bool := decide (word kind bs = some { kind := k, sync := true })
def mat1s : MatArgs :=
  { engine := 2, shape := 5, accumulate := true, final := true, halfB := true, round := 5, act := 3, ieeeOvf := true, a := 0x123, w := 0x456, out := 0x789, bias := 0xABC, m := 0x1122
    n := 0x3344, k := 0x5566, accBase := 0x7AB, accLog2W := 11, outFormat := 6, sregBase := 0xCDE, kOff := 0x0102, nOff := 0x0304, mOff := 0x05060708 }
def matWord : Bytes :=
  [0xF6, 0x5D, 0x23, 0x01, 0x56, 0x04, 0x89, 0x07, 0xBC, 0x0A, 0x22, 0x11, 0x44, 0x33, 0x66, 0x55, 0xAB, 0x07, 11, 6, 0xDE, 0x0C, 0x02, 0x01, 0x04, 0x03, 0x08, 0x07, 0x06, 0x05]
theorem test_words_matrix : spells 0x01 [0x0D, 0, 0x23, 0x01, 2, 1, 4, 3] (.loadWeights { shape := 5, halfB := true, w := 0x123, tileK := 0x0102, tileN := 0x0304 }) = true ∧
    spells 0x02 [1] (.swap true) = true ∧ spells 0x03 matWord (.streamMm mat1s) = true ∧ spells 0x04 matWord (.mv mat1s) = true := by decide +kernel
theorem test_words_vector : spells 0x05 [0x2A, 0xED, 0x23, 0x01, 0x56, 0x14, 0x89, 0x27, 0xBC, 0x0A, 4, 6, 2, 1, 0, 0, 0x80, 0x3F, 8, 7, 6, 5, 4, 3, 2, 1]
      (.vec { vop := 0x2A, round := 5, conforming := true, dequant := false, ieeeOvf := true, ascending := true, mode := 1, a := 0x123, b := 0x456, bUse := 1, c := 0x789, cUse := 2
              out := 0xABC, outFormat := 4, pred := 6, topkK := 0x0102, param := 0x3F800000, rowOff := 0x05060708, rows := 0x01020304 }) = true ∧
    spells 0x06 [0x0B, 0, 0x23, 0x01, 0, 0, 2, 1, 7] (.qscan { asym := true, merge := true, axis := 2, src := 0x123, group := 0x0102, target := 7, seg := 0, round := 0, out := 0 }) = true ∧
    spells 0x07 [0x34, 5, 0x23, 0x01, 0x56, 0x04, 2, 1, 6]
      (.qconvert { asym := false, merge := false, axis := 1, src := 0x123, group := 0x0102, target := 6, seg := 3, round := 5, out := 0x456 }) = true := by decide +kernel
theorem test_words_other : spells 0x08 [1, 0, 0x23, 0x01, 0x56, 0x04] (.copy true 0x123 0x456) = true ∧
    spells 0x09 [8, 0, 4, 3, 2, 1, 8, 7, 6, 5, 8, 7, 6, 5, 4, 3, 2, 1] (.fill 8 0x01020304 0x05060708 0x0102030405060708) = true ∧
    spells 0x0A [0, 0, 4, 3, 2, 1, 8, 7, 6, 5, 12, 11, 10, 9] (.tpCopy 0x01020304 0x05060708 0x090A0B0C) = true ∧ spells 0x0B [7, 0, 2, 1] (.wait 7 0x0102) = true ∧
    spells 0x0C [7, 3, 2, 1] (.signal 7 3 0x0102) = true ∧ spells 0x0D [0, 0, 2, 1] (.layerMark 0x0102) = true ∧
    spells 0x0E [2, 3, 0x23, 0x01, 0x56, 0x04, 9] (.collective { cop := 2, ring := 3, src := 0x123, dst := 0x456, headroom := 9 }) = true ∧ spells 0x0F [] .commit = true ∧
    word 0x00 [] = none ∧ word 0x10 [] = none := by decide +kernel

/-! ### Well-formed and ill-formed terms -/

def noId : CmdId := { queue := .io 0, tag := 32 }
def board0 : Board := { back := [], failing := [] }
def board1 : Board := { back := [], failing := [2 ^ 16] }
def pkt0 : LsPkt := packet 1 2 none
def pkt1 : LsPkt := { pkt0 with stripe := 32 }
def load1 : LoadArgs := { load0 with shape := 8 }
def mat1 : MatArgs := { mat0 1 1 1 with accBase := 2 ^ 11 }
def vec1 : VecArgs := { vec0 with rows := 2 ^ 32 }
def quant1 : QuantArgs := { quant0 with group := 2 ^ 16 }
def coll1 : CollArgs := { coll0 with dst := 2 ^ 12 }
def ill0 : List Instr :=
  [.nop noId, .cfgRead noId, .cfgWrite noId, .setOpp noId 0, .setOpp io (2 ^ 8), .storeTune noId 0 0, .storeTune io (2 ^ 8) 0, .storeTune io 0 (2 ^ 32),
    .partCreate noId 0, .partCreate io (2 ^ 8), .partModify noId 0, .partModify io (2 ^ 8), .partDestroy noId 0, .partDestroy io (2 ^ 8), .ctxCreate noId 0 0,
    .ctxCreate io (2 ^ 8) 0, .ctxCreate io 0 (2 ^ 8), .ctxDestroy noId 0 0, .ctxDestroy io (2 ^ 8) 0, .ctxDestroy io 0 (2 ^ 8), .ctxModify noId 0 0 0,
    .ctxModify io (2 ^ 8) 0 0, .ctxModify io 0 (2 ^ 8) 0, .ctxModify io 0 0 (2 ^ 8), .ctxStatus noId 0 0, .ctxStatus io (2 ^ 8) 0, .ctxStatus io 0 (2 ^ 8),
    .ctxFlagsClear noId 0 0 0, .ctxFlagsClear io (2 ^ 8) 0 0, .ctxFlagsClear io 0 (2 ^ 8) 0, .ctxFlagsClear io 0 0 (2 ^ 8), .blockRead noId 0 0 0,
    .blockRead io (2 ^ 8) 0 0, .blockRead io 0 (2 ^ 40) 0, .blockRead io 0 0 (2 ^ 32), .blockWrite noId 0 0 0, .blockWrite io (2 ^ 8) 0 0,
    .blockWrite io 0 (2 ^ 40) 0, .blockWrite io 0 0 (2 ^ 32), .blockTrim noId 0 0 0, .blockTrim io (2 ^ 8) 0 0, .blockTrim io 0 (2 ^ 40) 0,
    .blockTrim io 0 0 (2 ^ 32), .storeFlush noId, .nsCreate noId 0 0 0 0 0 0, .nsCreate io (2 ^ 8) 0 0 0 0 0, .nsCreate io 0 (2 ^ 8) 0 0 0 0,
    .nsCreate io 0 0 (2 ^ 8) 0 0 0, .nsCreate io 0 0 0 (2 ^ 8) 0 0, .nsCreate io 0 0 0 0 (2 ^ 64) 0, .nsCreate io 0 0 0 0 0 (2 ^ 64), .nsDestroy noId 0,
    .nsDestroy io (2 ^ 8), .objCreate noId 0 0 0 0, .objCreate io (2 ^ 8) 0 0 0, .objCreate io 0 (2 ^ 8) 0 0, .objCreate io 0 0 (2 ^ 48) 0,
    .objCreate io 0 0 0 (2 ^ 64), .objWrite noId 0 0 0, .objWrite io (2 ^ 8) 0 0, .objWrite io 0 (2 ^ 48) 0, .objWrite io 0 0 (2 ^ 64), .objRead noId 0 0 0 0,
    .objRead io (2 ^ 8) 0 0 0, .objRead io 0 (2 ^ 48) 0 0, .objRead io 0 0 (2 ^ 64) 0, .objRead io 0 0 0 (2 ^ 32), .objDelete noId 0 0, .objDelete io (2 ^ 8) 0,
    .objDelete io 0 (2 ^ 48)]
def ill1 : List Instr :=
  [.tensorCreate noId 0, .tensorCreate io (2 ^ 8), .tensorDestroy noId 0, .tensorDestroy io (2 ^ 32), .tensorWrite noId 0 0 0, .tensorWrite io (2 ^ 32) 0 0,
    .tensorWrite io 0 (2 ^ 8) 0, .tensorWrite io 0 0 (2 ^ 64), .tensorRead noId 0 0 0 0, .tensorRead io (2 ^ 32) 0 0 0, .tensorRead io 0 (2 ^ 8) 0 0,
    .tensorRead io 0 0 (2 ^ 64) 0, .tensorRead io 0 0 0 (2 ^ 32), .tensorCopy noId 0 0, .tensorCopy io (2 ^ 32) 0, .tensorCopy io 0 (2 ^ 32), .tensorStage noId 0,
    .tensorStage io (2 ^ 32), .tensorSync noId 0, .tensorSync io (2 ^ 32), .tensorEvict noId 0, .tensorEvict io (2 ^ 32), .tensorRepair noId 0 0,
    .tensorRepair io (2 ^ 32) 0, .tensorRepair io 0 (2 ^ 32), .tensorInfo noId 0, .tensorInfo io (2 ^ 32), .qstats noId 0 0 0, .qstats io (2 ^ 32) 0 0,
    .qstats io 0 (2 ^ 32) 0, .qstats io 0 0 (2 ^ 32), .progLoad noId, .progRun noId 0 0, .progRun io (2 ^ 32) 0, .progUnload noId 0, .progUnload io (2 ^ 32),
    .semCreate noId, .semAcquire noId 0 0 0, .semAcquire io (2 ^ 32) 0 0, .semAcquire io 0 (2 ^ 8) 0, .semAcquire io 0 0 (2 ^ 32), .semRelease noId 0,
    .semRelease io (2 ^ 32), .semDestroy noId 0, .semDestroy io (2 ^ 32), .idxCreate noId 0, .idxCreate io (2 ^ 8), .idxQuery noId 0 0 0 0 0 0 0,
    .idxQuery io (2 ^ 8) 0 0 0 0 0 0, .idxQuery io 0 (2 ^ 8) 0 0 0 0 0, .idxQuery io 0 0 (2 ^ 16) 0 0 0 0, .idxQuery io 0 0 0 (2 ^ 16) 0 0 0,
    .idxQuery io 0 0 0 0 (2 ^ 16) 0 0, .idxQuery io 0 0 0 0 0 (2 ^ 8) 0, .idxQuery io 0 0 0 0 0 0 (2 ^ 16), .idxInsert noId 0, .idxInsert io (2 ^ 8),
    .idxDelete noId 0 0, .idxDelete io (2 ^ 8) 0, .idxDelete io 0 (2 ^ 64), .idxMerge noId 0 0, .idxMerge io (2 ^ 8) 0, .idxMerge io 0 (2 ^ 8), .idxInfo noId 0,
    .idxInfo io (2 ^ 8), .idxDestroy noId 0, .idxDestroy io (2 ^ 8), .accordLoad noId 0 0, .accordLoad io (2 ^ 8) 0, .accordLoad io 0 (2 ^ 32)]
def ill2 : List Instr :=
  [.accordRun noId 0 0 0, .accordRun io (2 ^ 32) 0 0, .accordRun io 0 (2 ^ 8) 0, .accordUnload noId 0, .accordUnload io (2 ^ 32), .modelBind noId 0 0,
    .modelBind io (2 ^ 32) 0, .modelBind io 0 (2 ^ 16), .modelUnbind noId 0, .modelUnbind io (2 ^ 32), .ringForm noId 0 0 0 0 0 0, .ringForm io (2 ^ 32) 0 0 0 0 0,
    .ringForm io 0 (2 ^ 32) 0 0 0 0, .ringForm io 0 0 (2 ^ 16) 0 0 0, .ringForm io 0 0 0 (2 ^ 16) 0 0, .ringForm io 0 0 0 0 (2 ^ 32) 0,
    .ringForm io 0 0 0 0 0 (2 ^ 32), .ringDissolve noId 0, .ringDissolve io (2 ^ 32), .ringInfo noId 0, .ringInfo io (2 ^ 32), .fabPortSet noId 0,
    .fabPortSet io (2 ^ 8), .fabPortInfo noId 0, .fabPortInfo io (2 ^ 8), .cflRead noId 0 0, .cflRead io (2 ^ 32) 0, .cflRead io 0 (2 ^ 32), .cflProgram noId 0,
    .cflProgram io (2 ^ 32), .cflErase noId 0, .cflErase io (2 ^ 16), .cflSuspend noId, .cflResume noId, .cflProtect noId 0, .cflProtect io (2 ^ 8), .attest noId 0,
    .attest io (2 ^ 128), .identityRead noId, .romxUpdate noId, .errInject noId 0 0 0, .errInject io (2 ^ 8) 0 0, .errInject io 0 (2 ^ 8) 0,
    .errInject io 0 0 (2 ^ 64), .linkTest noId 0 0 0 0 0 0 0, .linkTest io (2 ^ 8) 0 0 0 0 0 0, .linkTest io 0 (2 ^ 8) 0 0 0 0 0, .linkTest io 0 0 (2 ^ 16) 0 0 0 0,
    .linkTest io 0 0 0 (2 ^ 8) 0 0 0, .linkTest io 0 0 0 0 (2 ^ 8) 0 0, .linkTest io 0 0 0 0 0 (2 ^ 32) 0, .linkTest io 0 0 0 0 0 0 (2 ^ 32),
    .linkMargin noId 0 0 0 0, .linkMargin io (2 ^ 8) 0 0 0, .linkMargin io 0 (2 ^ 16) 0 0, .linkMargin io 0 0 (2 ^ 32) 0, .linkMargin io 0 0 0 (2 ^ 8),
    .memBist noId 0 0 0, .memBist io (2 ^ 8) 0 0, .memBist io 0 (2 ^ 8) 0, .memBist io 0 0 (2 ^ 16), .healthLog noId, .eventWait noId, .acctRead noId 0 0 0,
    .acctRead io (2 ^ 8) 0 0, .acctRead io 0 (2 ^ 8) 0, .acctRead io 0 0 (2 ^ 8), .acctClear noId 0 0 0 0, .acctClear io (2 ^ 8) 0 0 0, .acctClear io 0 (2 ^ 8) 0 0]
def ill3 : List Instr :=
  [.acctClear io 0 0 (2 ^ 8) 0, .acctClear io 0 0 0 (2 ^ 32), .memInfo noId, .storeInfo noId, .resultRead noId 0 0 0 0, .resultRead io (2 ^ 32) 0 0 0,
    .resultRead io 0 (2 ^ 8) 0 0, .resultRead io 0 0 (2 ^ 8) 0, .resultRead io 0 0 0 (2 ^ 32), .resultRelease noId 0 0 0, .resultRelease io (2 ^ 32) 0 0,
    .resultRelease io 0 (2 ^ 8) 0, .resultRelease io 0 0 (2 ^ 8), .loadWeights (2 ^ 8) load0, .loadWeights 0 load1, .swap (2 ^ 8) false,
    .swapTakesEffect (2 ^ 8) false, .streamMm (2 ^ 8) (mat0 1 1 1), .streamMm 0 mat1, .mv (2 ^ 8) (mat0 1 1 1), .mv 0 mat1, .vec (2 ^ 8) vec0, .vec 0 vec1,
    .qscan (2 ^ 8) quant0, .qscan 0 quant1, .qconvert (2 ^ 8) quant0, .qconvert 0 quant1, .copy (2 ^ 8) false 0 0, .copy 0 false (2 ^ 12) 0,
    .copy 0 false 0 (2 ^ 12), .fill (2 ^ 8) 0 0 0 0, .fill 0 (2 ^ 8) 0 0 0, .fill 0 0 (2 ^ 32) 0 0, .fill 0 0 0 (2 ^ 32) 0, .fill 0 0 0 0 (2 ^ 64),
    .tpCopy (2 ^ 8) 0 0 0, .tpCopy 0 (2 ^ 32) 0 0, .tpCopy 0 0 (2 ^ 32) 0, .tpCopy 0 0 0 (2 ^ 32), .wait (2 ^ 8) 0 0, .wait 0 (2 ^ 8) 0, .wait 0 0 (2 ^ 16),
    .signal (2 ^ 8) 0 0 0, .signal 0 (2 ^ 8) 0 0, .signal 0 0 (2 ^ 8) 0, .signal 0 0 0 (2 ^ 16), .layerMark (2 ^ 8) 0, .layerMark 0 (2 ^ 16),
    .collective (2 ^ 8) coll0, .collective 0 coll1, .commit (2 ^ 8), .prefetchIssue (2 ^ 8) 0, .prefetchIssue 0 (2 ^ 16), .commandCommit noId, .tokensIn noId,
    .embed noId, .search noId, .filter noId, .rerank noId, .gather noId, .out noId, .store noId, .insert noId, .loader noId, .modelStage noId, .collectiveStage noId,
    .optimiser noId, .querySlotStart noId 0 0, .querySlotStart io (2 ^ 8) 0, .querySlotStart io 0 (2 ^ 8)]
def ill4 : List Instr :=
  [.recordArrival noId 0 0, .recordArrival io (2 ^ 8) 0, .recordArrival io 0 (2 ^ 64), .driftlineEntryScan (2 ^ 8) 0 0, .driftlineEntryScan 0 (2 ^ 8) 0,
    .driftlineEntryScan 0 0 (2 ^ 32), .mergeRound (2 ^ 8), .driftlineReclaim (2 ^ 8), .readCodeword (2 ^ 8) 0 .parity, .nandEraseDone (2 ^ 3) 0, .gcCollect (2 ^ 3),
    .readCountThreshold (2 ^ 3) 0 0, .readCountThreshold 0 0 (2 ^ 4), .retentionScan (2 ^ 3) 0 .parity, .superblockRefresh (2 ^ 3) 0, .wearLevel (2 ^ 3),
    .journalPieceWrite (2 ^ 3), .mapCheckpoint (2 ^ 8) 0, .channelRecalibrate (2 ^ 7), .lunFailure (2 ^ 7) none, .lunFailure 0 (some 256), .tensorWriteBack (2 ^ 32),
    .stageTransfer (2 ^ 32), .sliceEnd (2 ^ 3), .handover (2 ^ 3), .runBoundExpiry noId, .semTimeout noId, .regulatorAdmit (2 ^ 3) .nm 0 0,
    .regulatorAdmit 0 .nm (2 ^ 8) 0, .unitFaultDetected (2 ^ 16), .deviceClassFault (2 ^ 16), .watchdogExpiry (2 ^ 3) [], .watchdogExpiry 0 [noId], .powerOn board1,
    .pkgReset (.vf 0 8) 0 board0, .pkgReset (.pf 0) 0 board1, .packageReset board1, .perstAssert (2 ^ 1) board0, .perstAssert 0 board1, .perstRelease (2 ^ 1),
    .functionLevelReset (.vf 0 8), .d3hotEntry (.vf 0 8), .vfEnable (2 ^ 1) 0 false, .vfEnable 0 (2 ^ 16) false, .configRequest (.vf 0 8) 0,
    .configRequest (.pf 0) (2 ^ 12), .pcieLinkUp (2 ^ 1), .pcieLinkDown (2 ^ 1), .sqTail (.vf 0 8) (.io 0) 0, .sqTail (.pf 0) (.io 128) 0, .commandFetch (.io 128),
    .cqHead (.vf 0 8) (.io 0) 0, .cqHead (.pf 0) (.io 128) 0, .queueEnable (.vf 0 8) (.io 0) 0, .queueEnable (.pf 0) (.io 128) 0, .queueDisable (.vf 0 8) (.io 0) 0,
    .queueDisable (.pf 0) (.io 128) 0, .qConfigUpdate (.vf 0 8) (.io 0) 0, .qConfigUpdate (.pf 0) (.io 128) 0, .cflWait (.vf 0 8) 0, .registerWrite (.vf 0 8) 0 0 0,
    .registerWrite (.pf 0) (2 ^ 64) 0 0, .registerWrite (.pf 0) 0 (2 ^ 8) 0, .bar2WindowRead (2 ^ 1) 0 0, .bar2WindowRead 0 (2 ^ 32) 0, .bar2WindowRead 0 0 (2 ^ 16),
    .irqDelayTimeout (.io 128), .resultTimeout (2 ^ 32), .fibreUnplug (2 ^ 3), .fibrePlug (2 ^ 3)]
def ill5 : List Instr :=
  [.laserPowerLow (2 ^ 4) 0, .laserPowerRestored (2 ^ 4) 0, .fabricPortStateChange (2 ^ 5) false, .dataReceived (2 ^ 5) pkt0 false, .dataReceived 0 pkt1 false,
    .linkAdderHop (2 ^ 32) 0 0, .linkAdderHop 0 (2 ^ 5) 0, .linkAdderHop 0 0 (2 ^ 32), .ackReceived (2 ^ 5) pkt0 false, .ackReceived 0 pkt1 false,
    .ackTimer (2 ^ 32) 0, .ackTimer 0 (2 ^ 5), .retransmitTimeout (2 ^ 32) 0 0, .retransmitTimeout 0 (2 ^ 5) 0, .retransmitTimeout 0 0 (2 ^ 32),
    .planeFailTimeout (2 ^ 32) 0 false, .planeFailTimeout 0 (2 ^ 5) false, .probeTimer (2 ^ 32) 0 false, .probeTimer 0 (2 ^ 5) false,
    .probeReceived (2 ^ 5) pkt0 false, .probeReceived 0 pkt1 false, .controlRepeat (2 ^ 32), .hello (2 ^ 5) pkt0 false, .hello 0 pkt1 false,
    .start (2 ^ 5) pkt0 false, .start 0 pkt1 false, .abort (2 ^ 5) pkt0 false, .abort 0 pkt1 false, .broken (2 ^ 5) pkt0 false, .broken 0 pkt1 false,
    .formTimeout noId, .neighborSolicitation (2 ^ 5) 0, .neighborSolicitation 0 (2 ^ 128), .echoRequest (2 ^ 5) 0 [], .echoRequest 0 (2 ^ 128) [],
    .frameDiscard (2 ^ 5) 0, .frameDiscard 0 (2 ^ 16), .ideIntegrityFailure (.vf 0 8) none, .ideIntegrityFailure (.pf 0) (some noId), .getVersion (.doe 2),
    .getCapabilities (.doe 2), .negotiateAlgorithms (.doe 2) false false, .getDigests (.doe 2), .getCertificate (.doe 2) 0 0 0, .getCertificate .mctp (2 ^ 8) 0 0,
    .getCertificate .mctp 0 (2 ^ 16) 0, .getCertificate .mctp 0 0 (2 ^ 16), .challenge (.doe 2) [], .getMeasurements (.doe 2) 0 0, .getMeasurements .mctp (2 ^ 8) 0,
    .getMeasurements .mctp 0 (2 ^ 256), .keyExchange (.doe 2) [], .finish (.doe 2) [], .keyUpdate (.doe 2), .endSession (.doe 2), .ideKm (.vf 0 8) false [],
    .mctpControl (some 256), .getHealth (2 ^ 16) 0, .getHealth 0 (2 ^ 16), .i3cAddressAssignment (2 ^ 7), .stack1500 (2 ^ 8), .engineStepComplete (2 ^ 8) 0,
    .testDurationEnd (2 ^ 8) 0 [] [], .testDurationEnd 0 (2 ^ 16) [] [], .checkerLock (2 ^ 8) 0 0, .checkerLock 0 (2 ^ 16) 0, .checkerLock 0 0 (2 ^ 8)]
theorem test_wf_refuses : [ill0, ill1, ill2, ill3, ill4, ill5].all (fun l => l.all (fun c => !c.wf)) = true := by decide +kernel
theorem test_wf_fields : ([{ load0 with shape := 2 ^ 3 }, { load0 with w := 2 ^ 12 }, { load0 with tileK := 2 ^ 16 }, { load0 with tileN := 2 ^ 16 }] : List LoadArgs).all (fun a => !a.wf) = true ∧
    ([{ mat0 1 1 1 with engine := 2 ^ 2 }, { mat0 1 1 1 with shape := 2 ^ 3 }, { mat0 1 1 1 with round := 2 ^ 3 }, { mat0 1 1 1 with act := 2 ^ 3 },
      { mat0 1 1 1 with a := 2 ^ 12 }, { mat0 1 1 1 with w := 2 ^ 12 }, { mat0 1 1 1 with out := 2 ^ 12 }, { mat0 1 1 1 with bias := 2 ^ 12 },
      { mat0 1 1 1 with m := 2 ^ 16 }, { mat0 1 1 1 with n := 2 ^ 16 }, { mat0 1 1 1 with k := 2 ^ 16 }, { mat0 1 1 1 with accBase := 2 ^ 11 },
      { mat0 1 1 1 with accLog2W := 2 ^ 8 }, { mat0 1 1 1 with outFormat := 2 ^ 8 }, { mat0 1 1 1 with sregBase := 2 ^ 12 }, { mat0 1 1 1 with kOff := 2 ^ 16 },
      { mat0 1 1 1 with nOff := 2 ^ 16 }, { mat0 1 1 1 with mOff := 2 ^ 32 }] : List MatArgs).all (fun a => !a.wf) = true ∧
    ([{ vec0 with vop := 2 ^ 8 }, { vec0 with round := 2 ^ 3 }, { vec0 with mode := 2 ^ 1 }, { vec0 with a := 2 ^ 12 }, { vec0 with b := 2 ^ 12 },
      { vec0 with bUse := 2 ^ 2 }, { vec0 with c := 2 ^ 12 }, { vec0 with cUse := 2 ^ 2 }, { vec0 with out := 2 ^ 12 }, { vec0 with outFormat := 2 ^ 8 },
      { vec0 with pred := 2 ^ 8 }, { vec0 with topkK := 2 ^ 16 }, { vec0 with rowOff := 2 ^ 32 }, { vec0 with rows := 2 ^ 32 }] : List VecArgs).all (fun a => !a.wf) = true ∧
    ([{ quant0 with axis := 2 ^ 2 }, { quant0 with src := 2 ^ 12 }, { quant0 with group := 2 ^ 16 }, { quant0 with target := 2 ^ 8 }, { quant0 with seg := 2 ^ 2 },
      { quant0 with round := 2 ^ 3 }, { quant0 with out := 2 ^ 12 }] : List QuantArgs).all (fun a => !a.wf true) = true ∧
    ([{ quant0 with seg := 1, out := 0 }, { quant0 with round := 1, out := 0 }, quant0] : List QuantArgs).all (fun a => !a.wf false) = true ∧
    ([{ coll0 with cop := 2 ^ 8 }, { coll0 with ring := 2 ^ 8 }, { coll0 with src := 2 ^ 12 }, { coll0 with dst := 2 ^ 12 }, { coll0 with headroom := 2 ^ 8 }] : List CollArgs).all (fun a => !a.wf) = true ∧
    ([{ pkt0 with type := 2 ^ 8 }, { pkt0 with ring := 2 ^ 32 }, { pkt0 with epoch := 2 ^ 32 }, { pkt0 with src := 2 ^ 16 }, { pkt0 with dst := 2 ^ 16 },
      { pkt0 with stripe := 2 ^ 5 }, { pkt0 with plane := 2 ^ 8 }, { pkt0 with seq := 2 ^ 32 }, { pkt0 with ackSeq := 2 ^ 32 }, { pkt0 with credit := 2 ^ 32 },
      { pkt0 with chunk := 2 ^ 32 }, { pkt0 with block := 2 ^ 32 }] : List LsPkt).all (fun a => !a.wf) = true := by decide +kernel
/-- A unit code, a checker's unit and its answers, the groups, the LUNs and the ID bytes, each outside its range. -/
theorem test_wf_board : [board1, { board0 with checks := [{ store := .tidepool, unit := 2 ^ 12, answers := [(.clean, 0), (.clean, 0), (.clean, 0)] }] },
    { board0 with checks := [{ store := .tidepool, unit := 0, answers := [] }] }, { board0 with nand := List.replicate 9 { channels := [] } },
    { board0 with nand := [{ channels := [[(2 ^ 64, zeros 20)]] }] }, { board0 with nand := [{ channels := [[(0, zeros 19)]] }] }].all (fun b => !b.wf) = true := by decide +kernel
theorem test_wf_names : [QId.admin 2, .io 128].all (fun q => !q.wf) = true ∧ [Fn.pf 2, .vf 2 0, .vf 0 8].all (fun f => !f.wf) = true ∧
    ([{ queue := .io 128, tag := 0 }, noId] : List CmdId).all (fun i => !i.wf) = true ∧ [StepKind.copy false (2 ^ 12) 0, .copy false 0 (2 ^ 12), .fill (2 ^ 8) 0 0 0, .fill 1 (2 ^ 32) 0 0,
      .fill 1 0 (2 ^ 32) 0, .fill 1 0 0 (2 ^ 64), .tpCopy (2 ^ 32) 0 0, .tpCopy 0 (2 ^ 32) 0, .tpCopy 0 0 (2 ^ 32), .wait (2 ^ 8) 0, .wait 0 (2 ^ 16), .signal (2 ^ 8) 0 0,
      .signal 0 (2 ^ 8) 0, .signal 0 0 (2 ^ 16), .layerMark (2 ^ 16), .loadWeights load1, .streamMm mat1, .mv mat1, .vec vec1, .qscan quant1, .qconvert quant1,
      .collective coll1].all (fun k => !k.wf) = true := by decide +kernel
theorem test_wf_accepts : [Instr.idxQuery io 63 1 65535 65535 65535 255 65535, .registerWrite (.vf 1 7) 0xFFC 8 0, .fill 255 8 (2 ^ 32 - 1) 0 (2 ^ 64 - 1), .qconvert 0 quant0,
    .cflWait (.pf 1) 31, .dataReceived 31 pkt0 false, .watchdogExpiry 7 [io], .powerOn board0].all Instr.wf = true := by decide +kernel

/-! ### One step -/

/-- R672: the IDCODE of an NK-8. -/
theorem test_step_idcode : (match step { State.reset with pending := [.idcode] } with
    | .next t => decide (t.out = [.tdo 1 0x14E389AB]) && t.pending.isEmpty
    | _ => false) = true := by decide
/-- R155: a FILL of 16-bit units over three bytes. -/
theorem test_step_fill : (match exec (.fill 0 2 4 3 0xBEEF) (before (.fill 2 4 3 0xBEEF)) with
    | .next t => decide (t.rd (tpBase 0) 8 = [0, 0, 0, 0, 0xEF, 0xBE, 0xEF, 0])
    | _ => false) = true := by decide +kernel
/-- R434, R436: a DATA packet in order advances ACK_SEQ and is staged. -/
theorem test_data_in_order : let x := RecvStripe.take { RecvStripe.fresh with credit := 8 } (packet 1 2 none)
    (x.ackSeq, x.sinceAck, x.staged.length, ({ x with credit := 8 } : RecvStripe).take (packet 1 2 none) |>.staged.length) = (1, 1, 1, 1) := by decide

end Sys2Proof.Tests
end

section
/-!
PROOFS. The configuration family: admin, configuration and context commands, the tiers of tensors, and the queue registers. How a command without
HOLD_RESULT ends or runs on is said once, then one lemma for each case of a command or event, and each statement is assembled from them.
-/
namespace Sys2Proof.Machine

open Sys2Proof

/-! ### Checks and outcomes of a start -/

theorem inRange_of {c : Bool} (h : c = true) (off : Nat) : inRange c off = .ok () := need_of h _ _

section

variable {s : State} {id : CmdId} {c : Instr} {o : Outst} {body : State → Outst → Chk (State × Done)}

/-- A command without HOLD_RESULT whose body completes ends where its body leaves it. -/
theorem startCmd_completes {t : State} {st : Status} {det : Nat} {bs : Bytes} (h : s.startable id c = some o) (hh : o.hold = false)
    (hb : body s o = .ok (t, .now st det bs)) : s.startCmd id c body = t.complete o st det bs :=
  (startCmd_now h hb).trans (ends_plain hh st det bs)

/-- A command without HOLD_RESULT whose body runs on is marked as running where its body leaves it. -/
theorem startCmd_marks {t : State} {room : Nat} (h : s.startable id c = some o) (hh : o.hold = false)
    (hb : body s o = .ok (t, .runs room)) : s.startCmd id c body = t.markRunning id := by
  rw [startCmd_runs h hb, goesOn_plain hh, startable_id h]

/-- A configuration-changing command whose turn it is ends where its body leaves it (R39). -/
theorem startConfig_completes {t : State} {st : Status} {det : Nat} {bs : Bytes} (h : s.startable id c = some o) (ht : s.configTurn o = true)
    (hh : o.hold = false) (hb : body s o = .ok (t, .now st det bs)) : s.startConfig id c body = t.complete o st det bs :=
  (startConfig_turn h ht).trans (startCmd_completes h hh hb)

end

/-! ### Admin commands -/

section

variable {s : State} {id : CmdId} {o : Outst}

/-- NOP ends with OK and nothing else (R522). -/
theorem exec_nop (h : s.startable id (.nop id) = some o) (hh : o.hold = false) : exec (.nop id) s = .next (s.complete o .ok 0 []) :=
  congrArg Host.Outcome.next (startCmd_completes h hh (by simp only [noHold_of hh, bind_ok, okDone]))

/-- CFG_READ ends with the stored record (R25). -/
theorem exec_cfgRead (h : s.startable id (.cfgRead id) = some o) (hr : (o.hold || decide (512 ≤ o.rbufLen)) = true) :
    exec (.cfgRead id) s = .next (s.ends s o .ok 0 s.stored.bytes) :=
  congrArg Host.Outcome.next (startCmd_now h (by simp only [needRbuf_of hr, bind_ok, okResult]))

/-- STORE_TUNE sets the tunable in force and the saved one (R346). -/
theorem exec_storeTune {tunable value : Nat} (h : s.startable id (.storeTune id tunable value) = some o) (hh : o.hold = false) (ht : tunable ≤ 4)
    (hv : tuneOk tunable value = true) :
    exec (.storeTune id tunable value) s =
      .next (({ s with cfg := { s.cfg with
        tunables := setAt tunable value s.cfg.tunables, tunablesSaved := setAt tunable value s.cfg.tunables, tunablesLost := false } } : State).complete o .ok 0 []) :=
  congrArg Host.Outcome.next (startCmd_completes h hh (by
    simp only [noHold_of hh, inRange_of (decide_eq_true ht), inRange_of hv, bind_ok, okDone]))

end

/-- Settles O1: each of the three commands passes its checks and ends. -/
theorem adminCommandsComplete : Obligations.AdminCommandsComplete := fun _ _ _ =>
  ⟨exec_nop, exec_cfgRead, fun _ _ h hh ht hv => exec_storeTune h hh ht hv⟩

/-! ### Configuration commands -/

/-- Whether a change from `u` to `t` is waited for: the caps in force move (R604), or dirty data stands above the ceiling (R33). -/
def State.configWaits (u t : State) : Bool := decide (u.capsNow ≠ t.capsNow) || decide (t.ceilingPieces < t.dirtyPieces)

/-- The state `t`, reached from `u`, with the command on the lists of what it waits for. -/
def State.configAwaits (u t : State) (id : CmdId) : State :=
  { t with cfg := { t.cfg with
    waitingCap := if decide (u.capsNow ≠ t.capsNow) then t.cfg.waitingCap ++ [id] else t.cfg.waitingCap
    waitingCeiling := if decide (t.ceilingPieces < t.dirtyPieces) then t.cfg.waitingCeiling ++ [id] else t.cfg.waitingCeiling } }

/-- How a configuration-changing command that takes `u` to `t` stands afterwards: it waits, or has completed. -/
def State.configEnds (u t : State) (id : CmdId) (o : Outst) : State :=
  if u.configWaits t then (u.configAwaits t id).markRunning id else t.complete o .ok 0 []

theorem awaitConfig_eq (u t : State) (id : CmdId) :
    u.awaitConfig t id = if u.configWaits t then (u.configAwaits t id, .runs 0) else (t, .now .ok 0 []) := by
  simp only [State.awaitConfig, State.configWaits, State.configAwaits, decide_eq_true_eq]

section

variable {s u t : State} {id : CmdId} {c : Instr} {o : Outst} {body : State → Outst → Chk (State × Done)} {p : Nat}

/-- A configuration-changing command whose turn it is and whose body awaits what it has changed. -/
theorem startConfig_awaits (h : s.startable id c = some o) (ht : s.configTurn o = true) (hh : o.hold = false)
    (hb : body s o = .ok (u.awaitConfig t id)) : s.startConfig id c body = u.configEnds t id o := by
  rw [startConfig_turn h ht, State.configEnds]
  rw [awaitConfig_eq] at hb
  cases hw : u.configWaits t with
  | true => exact startCmd_marks h hh (by rw [hb, hw]; rfl)
  | false => exact startCmd_completes h hh (by rw [hb, hw]; rfl)

/-- SET_OPP with enough wait states puts the operating point in force (R35, R40, R550, R599). -/
theorem exec_setOpp {opp : Nat} (h : s.startable id (.setOpp id opp) = some o) (ht : s.configTurn o = true) (hh : o.hold = false) (ho : opp ≤ 3)
    (hw : minWait opp ≤ o.rung.2) :
    exec (.setOpp id opp) s = .next ((({ s with power := { s.power with opp := opp } } : State).holdClocks).complete o .ok 0 []) :=
  congrArg Host.Outcome.next (startConfig_completes h ht hh (by
    simp only [noHold_of hh, inRange_of (decide_eq_true ho), need_of (decide_eq_true hw), bind_ok, okDone]))

/-- CFG_WRITE checks the whole record, then adopts it (R30, R36). -/
theorem exec_cfgWrite (h : s.startable id (.cfgWrite id) = some o) (ht : s.configTurn o = true) (hh : o.hold = false) (hl : 512 ≤ o.ibufLen)
    (hb : s.hostBad o.ibuf 512 = false) (hf : recFault (s.hostRd o.ibuf 512) = none)
    (hp : (s.chargeBytes o.id 16 512).checkProtected (recOf (s.hostRd o.ibuf 512)) = .ok ())
    (hr : (s.chargeBytes o.id 16 512).checkRecord (recOf (s.hostRd o.ibuf 512)) = .ok ()) :
    exec (.cfgWrite id) s = .next ((s.chargeBytes o.id 16 512).configEnds
      ((s.chargeBytes o.id 16 512).adoptRecord (recOf (s.hostRd o.ibuf 512))) id o) :=
  congrArg Host.Outcome.next (startConfig_awaits h ht hh (by simp only [noHold_of hh, needIbuf_of hl, takeIbuf_of hb, bind_ok, hf, hp, hr]))

/-- What PART_CREATE and PART_MODIFY require of the entry that they write to partition `p` (R36, R382, R383, R668). -/
structure State.EntryPasses (s : State) (o : Outst) (p : Nat) : Prop where
  length : 48 ≤ o.ibufLen
  readable : s.hostBad o.ibuf 48 = false
  settled : s.layoutPending = false
  wellFormed : entryFault (s.hostRd o.ibuf 48) = none
  valid : (pEntryOf (s.hostRd o.ibuf 48)).valid = 1
  untested : s.test.bist.all (fun b => !(b.target = 0 && bitAt (pEntryOf (s.hostRd o.ibuf 48)).clusterMask b.index)) = true
  record : (s.chargeBytes o.id 16 48).checkRecord (s.stored.withEntry p (pEntryOf (s.hostRd o.ibuf 48))) = .ok ()

/-- The state in which the entry that a command brings for partition `p` is adopted. -/
def State.withNewEntry (s : State) (o : Outst) (p : Nat) : State :=
  (s.chargeBytes o.id 16 48).adoptRecord (s.stored.withEntry p (pEntryOf (s.hostRd o.ibuf 48)))

/-- An entry that passes is adopted. -/
theorem rewriteEntry_of (h : s.EntryPasses o p) (id : CmdId) (waits : Bool) :
    s.rewriteEntry id o p waits =
      if waits then .ok ((s.chargeBytes o.id 16 48).awaitConfig (s.withNewEntry o p) id) else okDone (s.withNewEntry o p) := by
  have hlayout : (!(s.chargeBytes o.id 16 48).layoutPending) = true := by rw [Bool.not_eq_true']; exact h.settled
  have hbist : (!(s.chargeBytes o.id 16 48).test.bist.any
      (fun b => b.target = 0 && bitAt (pEntryOf (s.hostRd o.ibuf 48)).clusterMask b.index)) = true := by
    rw [List.not_any_eq_all_not]; exact h.untested
  have hrecord : (s.chargeBytes o.id 16 48).checkRecord
      ((s.chargeBytes o.id 16 48).stored.withEntry p (pEntryOf (s.hostRd o.ibuf 48))) = .ok () := h.record
  simp only [State.rewriteEntry, takeIbuf_of h.readable, bind_ok, need_of hlayout, h.wellFormed, h.valid, beq_self_eq_true, need_true,
    hrecord, need_of hbist]
  rfl

/-- PART_CREATE of a partition that there is not adopts its entry and ends (R382). -/
theorem exec_partCreate (h : s.startable id (.partCreate id p) = some o) (ht : s.configTurn o = true) (hh : o.hold = false) (hp : p < 8)
    (he : s.EntryPasses o p) (hn : s.hasPart p = false) : exec (.partCreate id p) s = .next ((s.withNewEntry o p).complete o .ok 0 []) :=
  congrArg Host.Outcome.next (startConfig_completes h ht hh (by
    simp only [noHold_of hh, inRange_of (decide_eq_true hp), hn, Bool.not_false, need_true, needIbuf_of he.length, bind_ok]
    exact rewriteEntry_of he id false))

/-- PART_MODIFY of a partition that there is adopts its entry and may wait (R34, R382, R604). -/
theorem exec_partModify (h : s.startable id (.partModify id p) = some o) (ht : s.configTurn o = true) (hh : o.hold = false) (hp : p < 8)
    (he : s.EntryPasses o p) (hn : s.hasPart p = true) :
    exec (.partModify id p) s = .next ((s.chargeBytes o.id 16 48).configEnds (s.withNewEntry o p) id o) :=
  congrArg Host.Outcome.next (startConfig_awaits h ht hh (by
    simp only [noHold_of hh, inRange_of (decide_eq_true hp), hn, need_true, needIbuf_of he.length, bind_ok]
    exact rewriteEntry_of he id true))

/-- PART_DESTROY adopts the record with the partition's entry cleared (R384, R385). -/
theorem exec_partDestroy (h : s.startable id (.partDestroy id p) = some o) (ht : s.configTurn o = true) (hh : o.hold = false) (hp : p < 8)
    (hn : s.hasPart p = true) (hl : s.layoutPending = false) (hr : s.checkRecord (s.stored.withEntry p {}) = .ok ()) :
    exec (.partDestroy id p) s = .next ((s.adoptRecord (s.stored.withEntry p {})).complete o .ok 0 []) :=
  congrArg Host.Outcome.next (startConfig_completes h ht hh (by
    simp only [noHold_of hh, inRange_of (decide_eq_true hp), hn, hl, Bool.not_false, need_true, hr, bind_ok, okDone]))

end

/-- Settles O2: a record or entry that passes its checks is adopted, and `startConfig_awaits` says what the command then waits for. -/
theorem configCommandsComplete : Obligations.ConfigCommandsComplete := by
  intro s id o ht hh ends
  refine ⟨fun opp h ho hw => exec_setOpp h ht hh ho hw,
    fun h hl hb hf => by intro u r t hp hr; exact exec_cfgWrite h ht hh hl hb hf hp hr, ?_,
    fun p h hp hn hl hr => exec_partDestroy h ht hh hp hn hl hr⟩
  intro p hp hlen hbad hlayout hfault hvalid hbist u r t hrec
  have he : s.EntryPasses o p := ⟨hlen, hbad, hlayout, hfault, hvalid, hbist, hrec⟩
  exact ⟨fun h hn => exec_partCreate h ht hh hp he hn, fun h hn => exec_partModify h ht hh hp he hn⟩

/-! ### Context commands -/

/-- The least number that passes is found. -/
theorem firstBelow_of_least {n c : Nat} {p : Nat → Bool} (hc : c < n) (hp : p c = true) (hl : ∀ k < c, p k = false) : firstBelow n p = some c := by
  rw [firstBelow, List.find?_range_eq_some]
  exact ⟨hp, List.mem_range.2 hc, fun k hk => by rw [hl k hk]; rfl⟩

section

variable {s : State} {id : CmdId} {o : Outst} {p c : Nat} {x : Ctx}

/-- The checks of a context that there is. -/
theorem ctxFields_of (hp : p < 8) (hn : s.hasPart p = true) (hc : c < 16) (hx : s.ctx? p c = some x) : s.ctxFields p c = .ok () := by
  simp only [State.ctxFields, inRange_of (decide_eq_true hp), inRange_of (decide_eq_true hc), hn, hx, Option.isSome_some, need_true, bind_ok]

/-- CTX_CREATE takes the lowest free number and answers its queue (R391, R392). -/
theorem exec_ctxCreate {priority : Nat} (h : s.startable id (.ctxCreate id p priority) = some o) (hp : p < 8) (hn : s.hasPart p = true)
    (hpri : priority ≤ 3) (hr : (o.hold || decide (4 ≤ o.rbufLen)) = true) (hc : c < (s.entry p).ctxMax) (hfree : s.ctx? p c = none)
    (hleast : ∀ k < c, s.ctx? p k ≠ none) :
    exec (.ctxCreate id p priority) s =
      .next (s.ends { s with ctxs := s.ctxs ++ [Ctx.fresh p c priority s.now] } o .ok 0 (leBytes 1 c ++ [0] ++ leBytes 2 (16 * p + c))) := by
  have hfirst : firstBelow (s.entry p).ctxMax (fun c => (s.ctx? p c).isNone) = some c :=
    firstBelow_of_least hc (by rw [hfree]; rfl) (fun k hk => by rw [Option.isNone_eq_false_iff, Option.isSome_iff_ne_none]; exact hleast k hk)
  exact congrArg Host.Outcome.next (startCmd_now h (by
    simp only [inRange_of (decide_eq_true hp), inRange_of (decide_eq_true hpri), hn, need_true, needRbuf_of hr, bind_ok, hfirst, okResult]))

/-- CTX_STATUS ends with the context's 16 bytes (R531). -/
theorem exec_ctxStatus (h : s.startable id (.ctxStatus id p c) = some o) (hf : s.ctxFields p c = .ok ()) (hx : s.ctx? p c = some x)
    (hr : (o.hold || decide (16 ≤ o.rbufLen)) = true) : exec (.ctxStatus id p c) s = .next (s.ends s o .ok 0 (s.ctxStatus p c x)) :=
  congrArg Host.Outcome.next (startCmd_now h (by simp only [hf, needRbuf_of hr, bind_ok, hx, okResult]))

/-- CTX_DESTROY of a context whose queue holds no command drops it (R393). -/
theorem exec_ctxDestroy (h : s.startable id (.ctxDestroy id p c) = some o) (hh : o.hold = false) (hf : s.ctxFields p c = .ok ())
    (hq : s.holdsCommand (.io (16 * p + c)) = false) : exec (.ctxDestroy id p c) s = .next ((s.dropContext p c).complete o .ok 0 []) :=
  congrArg Host.Outcome.next (startCmd_completes h hh (by simp only [noHold_of hh, hf, hq, Bool.not_false, need_true, bind_ok, okDone]))

/-- CTX_MODIFY sets the base priority (R28). -/
theorem exec_ctxModify {priority : Nat} (h : s.startable id (.ctxModify id p c priority) = some o) (hh : o.hold = false) (hp : p < 8) (hc : c < 16)
    (hf : s.ctxFields p c = .ok ()) (hpri : priority ≤ 3) :
    exec (.ctxModify id p c priority) s = .next ((s.updCtx p c (fun y => { y with base := priority })).complete o .ok 0 []) :=
  congrArg Host.Outcome.next (startCmd_completes h hh (by
    simp only [noHold_of hh, inRange_of (decide_eq_true hp), inRange_of (decide_eq_true hc), inRange_of (decide_eq_true hpri), hf, bind_ok, okDone]))

/-- CTX_FLAGS_CLEAR clears the flags of the mask (R123). -/
theorem exec_ctxFlagsClear {mask : Nat} (h : s.startable id (.ctxFlagsClear id p c mask) = some o) (hh : o.hold = false) (hp : p < 8) (hc : c < 16)
    (hf : s.ctxFields p c = .ok ()) (hm : mask < 32) :
    exec (.ctxFlagsClear id p c mask) s = .next ((s.updCtx p c (fun y => { y with flags := y.flags &&& (31 - mask) })).complete o .ok 0 []) :=
  congrArg Host.Outcome.next (startCmd_completes h hh (by
    simp only [noHold_of hh, inRange_of (decide_eq_true hp), inRange_of (decide_eq_true hc), inRange_of (decide_eq_true hm), hf, bind_ok, okDone]))

end

/-- Settles O3: the checks of a context that there is pass once for all commands (`ctxFields_of`); the free number is found by `firstBelow_of_least`. -/
theorem contextCommandsComplete : Obligations.ContextCommandsComplete := by
  intro s id o p hp hn
  refine ⟨fun priority c h hpri hr hc hfree hleast => exec_ctxCreate h hp hn hpri hr hc hfree hleast, fun c x hc hx => ?_⟩
  have hf := ctxFields_of hp hn hc hx
  exact ⟨fun h hr => exec_ctxStatus h hf hx hr, fun hh =>
    ⟨fun h hq => exec_ctxDestroy h hh hf hq, fun _ h hpri => exec_ctxModify h hh hp hc hf hpri, fun _ h hm => exec_ctxFlagsClear h hh hp hc hf hm⟩⟩

/-! ### Staging, write-back and eviction -/

section

variable {s : State} {id : CmdId} {o : Outst} {h : Nat} {t : Tensor}

/-- A tensor in place needs no staging. -/
theorem exec_tensorStage_placed (hs : s.startable id (.tensorStage id h) = some o) (hh : o.hold = false) (hi : s.tensorIdent o h = .ok t)
    (hp : t.staged = true ∨ t.desc.tier ≠ 3) : exec (.tensorStage id h) s = .next (s.complete o .ok 0 []) := by
  have hcond : (t.staged || decide (t.desc.tier ≠ 3)) = true := by simpa using hp
  exact congrArg Host.Outcome.next (startCmd_completes hs hh (by simp only [noHold_of hh, hi, bind_ok, hcond, if_true, okDone]))

/-- R172: staging that fits runs until the transfer is done. -/
theorem exec_tensorStage_runs (hs : s.startable id (.tensorStage id h) = some o) (hh : o.hold = false) (hi : s.tensorIdent o h = .ok t)
    (hu : t.staged = false) (ht : t.desc.tier = 3) (hfits : (State.stage id h (s.tensors.length + 1) s).isSome = true) :
    exec (.tensorStage id h) s = .next (s.markRunning id) := by
  obtain ⟨u, hstage⟩ := Option.isSome_iff_exists.1 hfits
  exact congrArg Host.Outcome.next (startCmd_marks (room := 0) hs hh (by simp [noHold_of hh, hi, hu, ht, hstage]))

/-- TENSOR_SYNC of a clean tensor. -/
theorem exec_tensorSync_clean (hs : s.startable id (.tensorSync id h) = some o) (hh : o.hold = false) (hi : s.tensorIdent o h = .ok t)
    (hd : t.dirty = []) : exec (.tensorSync id h) s = .next ((s.writeBackAll h).complete o .ok 0 []) :=
  congrArg Host.Outcome.next (startCmd_completes hs hh (by simp only [noHold_of hh, hi, bind_ok, hd, List.isEmpty_nil, if_true, okDone]))

/-- TENSOR_SYNC of a dirty tensor runs until the write-back is done (R183). -/
theorem exec_tensorSync_runs (hs : s.startable id (.tensorSync id h) = some o) (hh : o.hold = false) (hi : s.tensorIdent o h = .ok t)
    (hd : t.dirty ≠ []) : exec (.tensorSync id h) s = .next (s.markRunning id) :=
  congrArg Host.Outcome.next (startCmd_marks (room := 0) hs hh (by simp [noHold_of hh, hi, hd]))

/-- R172, R184: the eviction of a tensor that nothing holds, by whether there is a near-memory copy and whether its write-back is done. -/
theorem exec_tensorEvict (hs : s.startable id (.tensorEvict id h) = some o) (hh : o.hold = false) (hi : s.tensorIdent o h = .ok t)
    (hb : s.isBound h = false) (hm : s.models.all (fun m => decide (h ∉ m.weights)) = true) :
    exec (.tensorEvict id h) s = .next (
      if t.staged then
        if (s.writeBackAll h).isClean h then (((s.writeBackAll h).unstage h).settleCeiling).complete o .ok 0 [] else s
      else s.complete o .ok 0 []) := by
  have hfree : (!s.isBound h && !s.models.any (fun m => decide (h ∈ m.weights))) = true := by
    rw [hb, List.not_any_eq_all_not]; simpa using hm
  refine congrArg Host.Outcome.next ?_
  cases hst : t.staged with
  | false =>
    exact startCmd_completes hs hh (by simp only [noHold_of hh, hi, need_of hfree, bind_ok, hst, Bool.not_false, if_true, okDone])
  | true =>
    cases hc : (s.writeBackAll h).isClean h with
    | false =>
      exact startCmd_waits (t := s.writeBackAll h) hs (by simp [noHold_of hh, hi, need_of hfree, hst, hc])
    | true =>
      exact startCmd_completes hs hh (by simp [noHold_of hh, hi, need_of hfree, hst, hc, okDone])

/-- The transfer of a tensor that TENSOR_STAGE waits for completes every command that staged it. -/
theorem exec_stageTransfer {i : CmdId} {is : List CmdId} {u : State} (hw : s.stagersOf h = i :: is)
    (hstage : State.stage i h (s.tensors.length + 1) s = some u) :
    exec (.stageTransfer h) s = .next ((s.stagersOf h).foldl (fun v i => v.completeId i .ok 0 []) u) := by
  show execStageTransfer h s = _
  simp only [execStageTransfer, hw, hstage]

/-- R33, R183: a write-back that is done completes the TENSOR_SYNC commands that wait for it. -/
theorem exec_tensorWriteBack (hf : s.flashFree = true) :
    exec (.tensorWriteBack h) s = .next (
      let u := s.writeBackAll h
      (if u.isClean h then
        ((u.host.outst.filter (fun x => x.cmd = .tensorSync x.id h && x.phase = .running)).map (·.id)).foldl (fun v i => v.completeId i .ok 0 []) u
      else u).settleCeiling) := by
  show execTensorWriteBack h s = _
  simp only [execTensorWriteBack, hf, Bool.not_true, Bool.false_eq_true, if_false]

end

/-- Settles O7, one lemma for each command and event; the eviction that waits leaves the state as it is (log 94). -/
theorem tensorTierCommandsComplete : Obligations.TensorTierCommandsComplete := by
  intro s id o h t
  refine ⟨fun hi hh => ⟨fun hs hp => exec_tensorStage_placed hs hh hi hp, fun hs hu ht hfits => exec_tensorStage_runs hs hh hi hu ht hfits,
      fun hs hd => exec_tensorSync_clean hs hh hi hd, fun hs hd => exec_tensorSync_runs hs hh hi hd, fun hs hb hm => ?_⟩,
    fun i is u hw hstage => exec_stageTransfer hw hstage, fun hf => ?_⟩
  · rw [exec_tensorEvict hs hh hi hb hm]
    refine ⟨fun hst => ?_, fun hst hc => ?_, fun hst hc => ?_⟩
    · simp only [hst, Bool.false_eq_true, if_false]
    · simp only [hst, hc, if_true]
    · simp only [hst, hc, Bool.false_eq_true, if_true, if_false]
  · rw [exec_tensorWriteBack hf]
    exact ⟨fun hc => by simp only [hc, Bool.false_eq_true, if_false], fun hc => by simp only [hc, if_true]⟩

/-! ### Doorbells and Q_CONFIG -/

/-- Setting ENABLE in a value that has it set changes nothing. -/
theorem or_one_of_bitAt {v : Nat} (h : bitAt v 0 = true) : v ||| 1 = v := by
  simp only [bitAt, Nat.testBit_zero, decide_eq_true_eq] at h
  exact Nat.eq_of_testBit_eq fun i => by cases i <;> simp [Nat.testBit_or, Nat.testBit_one_eq_true_iff_self_eq_zero, h]

theorem bitAt_or_one (v : Nat) : bitAt (v ||| 1) 0 = true := by simp [bitAt]

theorem bitAt_half_twice (v : Nat) : bitAt (v / 2 * 2) 0 = false := by simp [bitAt, Nat.testBit_zero]

section

variable {s : State} {f : Fn} {q : QId}

/-- The owner's SQ_TAIL on its enabled queue (R492). -/
theorem exec_sqTail (hr : s.reaches f q = true) (he : (s.queue q).enabled = true) (ho : (s.queue q).orphaned = false)
    (hf : (s.queue q).owner = some f) (v : W32) :
    exec (.sqTail f q v) s = .next (
      let fresh := (v.toNat % 32 + 32 - (s.queue q).sqHead) % 32
      let t := s.setQueue q { s.queue q with
        sqTail := v.toNat % 32, rung := ((s.queue q).rung ++ List.replicate 32 (s.host.doorbells, s.host.cflWait)).take fresh }
      { t with host := { t.host with doorbells := t.host.doorbells + 1 } }) := by
  show execSqTail f q v s = _
  simp [execSqTail, State.ringSqTail, hr, he, ho, hf]

/-- The owner's CQ_HEAD on its enabled queue (R494). -/
theorem exec_cqHead (hr : s.reaches f q = true) (he : (s.queue q).enabled = true) (ho : (s.queue q).orphaned = false)
    (hf : (s.queue q).owner = some f) (v : W32) :
    exec (.cqHead f q v) s = .next (
      let t := s.setQueue q { s.queue q with cqHead := v.toNat % 32 }
      { t with host := { t.host with outst := t.host.outst.filter (fun o =>
        !(o.id.queue = q && o.phase = .posted && passed (s.queue q).cqHead (v.toNat % 32) o.cplIndex)) } }) := by
  show execCqHead f q v s = _
  simp [execCqHead, State.ringCqHead, hr, he, ho, hf]

/-- The owner's write of Q_CONFIG with ENABLE 1 sets VECTOR and IRQ_EN (R678). -/
theorem writeQConfig_updates (hr : s.reaches f q = true) (hs : s.silent = false) (he : (s.queue q).enabled = true) (ho : (s.queue q).orphaned = false)
    (hf : (s.queue q).owner = some f) {v : Nat} (hb : bitAt v 0 = true) (hv : bits v 16 10 < fnVectors f) :
    s.writeQConfig f q v = (s.setQueue q { s.queue q with irqEn := bitAt v 1, vector := bits v 16 10 }).irqCheck q := by
  simp [State.writeQConfig, hr, hs, he, ho, hf, hb, Nat.not_le.2 hv]

/-- The owner's write with ENABLE 0 of a queue that stands enabled or ORPHANED disables it (R491); VECTOR and IRQ_EN stay written where no tag
is in use (log 69). -/
theorem writeQConfig_disables (hr : s.reaches f q = true) (hs : s.silent = false) (hlive : (s.queue q).enabled = true ∨ (s.queue q).orphaned = true)
    (hf : (s.queue q).owner = some f) {v : Nat} (hb : bitAt v 0 = false) :
    s.writeQConfig f q v =
      if s.host.outst.any (fun o => o.id.queue = q) then s.disableQueue q
      else (s.disableQueue q).updQueue q (fun x => { x with vector := bits v 16 10, irqEn := bitAt v 1 }) := by
  have hstands : ((s.queue q).enabled && !(s.queue q).orphaned || (s.queue q).orphaned && (s.queue q).owner == some f) = true := by
    rw [hf]; cases hlive with
    | inl h => cases ho : (s.queue q).orphaned <;> simp [h]
    | inr h => simp [h]
  simp only [State.writeQConfig, hr, hs, hb, hstands]
  simp [hf]

/-- QUEUE_DISABLE by the owner of a queue that stands enabled or ORPHANED, by whether a tag is in use. -/
theorem exec_queueDisable (hr : s.reaches f q = true) (hs : s.silent = false) (hlive : (s.queue q).enabled = true ∨ (s.queue q).orphaned = true)
    (hf : (s.queue q).owner = some f) (v : W32) :
    (s.host.outst.any (fun o => o.id.queue = q) = true → exec (.queueDisable f q v) s = .next (s.disableQueue q)) ∧
    (s.host.outst.any (fun o => o.id.queue = q) = false → exec (.queueDisable f q v) s =
      .next ((s.disableQueue q).updQueue q (fun x => { x with vector := bits (v.toNat / 2 * 2) 16 10, irqEn := bitAt (v.toNat / 2 * 2) 1 }))) := by
  have hw := writeQConfig_disables hr hs hlive hf (bitAt_half_twice v.toNat)
  exact ⟨fun ha => congrArg Host.Outcome.next (hw.trans (if_pos ha)), fun ha => congrArg Host.Outcome.next (hw.trans (if_neg (Bool.eq_false_iff.1 ha)))⟩

/-- A write with ENABLE 1 enables a disabled queue; an I/O queue needs its context (R490). -/
theorem writeQConfig_enables (hr : s.reaches f q = true) (hs : s.silent = false) (he : (s.queue q).enabled = false)
    (hctx : ∀ i, q = .io i → (s.ctx? (i / 16) (i % 16)).isSome = true) {v : Nat} (hb : bitAt v 0 = true) (hv : bits v 16 10 < fnVectors f) :
    s.writeQConfig f q v = s.enableQueue f q (bits v 16 10) (bitAt v 1) := by
  cases q with
  | admin k => simp [State.writeQConfig, hr, hs, he, hb, Nat.not_le.2 hv]
  | io i => simp [State.writeQConfig, hr, hs, he, hb, Nat.not_le.2 hv, hctx i rfl]

end

/-! ### Fetching -/

/-- The state once the next entry of a ring is taken (R492). -/
def State.entryTaken (s : State) (q : QId) : State := s.updQueue q (fun y => { y with sqHead := (y.sqHead + 1) % 32, rung := y.rung.drop 1 })

/-- The state once that entry has been read and its bytes charged (R413). -/
def State.entryRead (s : State) (q : QId) : State := (s.entryTaken q).chargeQueue q 16 64

/-- The host address of the next entry of a ring. -/
def State.entryAddr (s : State) (q : QId) : Nat := (s.queue q).sqBase + 64 * (s.queue q).sqHead

/-- The next entry of a ring. -/
def State.entryBytes (s : State) (q : QId) : Bytes := (s.entryRead q).hostRd (s.entryAddr q) 64

/-- The command that the next entry of a ring names. -/
def State.entryId (s : State) (q : QId) : CmdId := { queue := q, tag := field (s.entryBytes q) 2 1 % 32 }

/-- The command that the next entry of a ring brings, in `g`, the state that has read it (R494 to R498, R503, R520). -/
def State.entryOutst (g : State) (q : QId) (x : Queue) (pkt : Bytes) (id : CmdId) : Outst :=
  let v := g.freeNat.1
  { id := id, cmd := buildCommand pkt id, ordered := bitAt (field pkt 1 1) 0, hold := bitAt (field pkt 1 1) 1, noIrq := bitAt (field pkt 1 1) 2
    ibuf := field pkt 0x20 8, ibufLen := field pkt 0x28 4, rbuf := field pkt 0x30 8, rbufLen := field pkt 0x38 4
    serial := v.host.nextSerial, rung := x.rung.headD (v.host.doorbells, v.host.cflWait)
    deps := (g.host.outst.filter (fun y => y.id.queue = q && bitAt (field pkt 4 4) y.id.tag && y.phase ≠ .posted)).map (fun y => (y.serial, y.id.tag))
    depFailed := (g.host.outst.find? (fun y => y.id.queue = q && bitAt (field pkt 4 4) y.id.tag && y.phase = .posted && y.failed)).map (·.id.tag)
    phase := .waiting, failed := false, cplIndex := 0, sliceKills := 0, faultKills := 0, poisonKills := [], readyAt := v.now
    readySeq := readyNext v.host.outst, engineNs := 0, energyMj := g.freeNat.2, movedBytes := 0, again := false, charges := [] }

/-- The state in which a fetched command is outstanding; a held result of the same name is no longer found by its tag. -/
def State.withFetched (v : State) (o : Outst) : State :=
  let u := if o.hold then { v with host := { v.host with held := mapIf (fun h => h.id = o.id) (fun h => { h with byTag := false }) v.host.held } } else v
  { u with host := { u.host with outst := u.host.outst ++ [o], nextSerial := u.host.nextSerial + 1 } }

theorem withFetched_eq (v : State) (o : Outst) :
    v.withFetched o = { v with host := { v.host with
      held := if o.hold then mapIf (fun h => h.id = o.id) (fun h => { h with byTag := false }) v.host.held else v.host.held
      outst := v.host.outst ++ [o], nextSerial := v.host.nextSerial + 1 } } := by
  unfold State.withFetched
  cases o.hold <;> rfl

/-- The number of a queue among its kind. -/
def queueNumber : QId → Nat
  | .admin k => k
  | .io i => i

/-- The scope of the events about a queue. -/
def queueScope : QId → Scope
  | .admin _ => .device
  | .io i => .ctx (i / 16) (i % 16)

/-- The state in which the command that the next entry of a ring brings is outstanding. -/
def State.entryFetched (s : State) (q : QId) : State :=
  (s.entryRead q).freeNat.1.withFetched ((s.entryRead q).entryOutst q (s.queue q) (s.entryBytes q) (s.entryId q))

section

variable {s : State} {q : QId}

/-- Nothing is fetched from a queue that is not enabled, from an ORPHANED one and from an empty ring. -/
theorem fetchOne_idle (h : (s.queue q).enabled = false ∨ (s.queue q).orphaned = true ∨ (s.queue q).sqHead = (s.queue q).sqTail) :
    s.fetchOne q = s := by
  unfold State.fetchOne
  exact if_pos (by simpa [or_assoc] using h)

/-- Everything that a fetch from a ring with an entry can do: it meets a bad read, it finds the tag in use, or it has the command checked. -/
theorem fetchOne_eq (he : (s.queue q).enabled = true) (ho : (s.queue q).orphaned = false) (hn : (s.queue q).sqHead ≠ (s.queue q).sqTail) :
    s.fetchOne q =
      if s.hostBad (s.entryAddr q) 64 then (s.entryTaken q).updQueue q (fun y => { y with fetchError := true })
      else if ((s.entryRead q).outst? (s.entryId q)).isSome then
        ((s.entryRead q).updQueue q (fun y => { y with tagError := true })).raise 8 (queueNumber q) (s.entryId q).tag (queueScope q)
      else match (s.entryFetched q).fetchCheck q (s.entryBytes q) with
        | .error e => (s.entryFetched q).complete ((s.entryRead q).entryOutst q (s.queue q) (s.entryBytes q) (s.entryId q)) e.status e.detail []
        | .ok () => State.settle 32 (s.entryFetched q) := by
  unfold State.fetchOne
  rw [if_neg (by simp [he, ho, hn])]
  rfl

/-- COMMAND_FETCH takes the next entry, unless the power-loss sequence or a drain runs (R362). -/
theorem exec_commandFetch (hs : s.silent = false) : exec (.commandFetch q) s = .next (s.fetchOne q) :=
  congrArg Host.Outcome.next (if_neg (Bool.eq_false_iff.1 hs))

/-- A fetch that meets a bad read sets FETCH_ERROR. -/
theorem exec_commandFetch_badRead (hs : s.silent = false) (he : (s.queue q).enabled = true) (ho : (s.queue q).orphaned = false)
    (hn : (s.queue q).sqHead ≠ (s.queue q).sqTail) (hb : s.hostBad (s.entryAddr q) 64 = true) :
    exec (.commandFetch q) s = .next ((s.entryTaken q).updQueue q (fun y => { y with fetchError := true })) := by
  rw [exec_commandFetch hs, fetchOne_eq he ho hn, if_pos hb]

/-- A fetch that finds the tag in use sets TAG_ERROR and raises event 8. -/
theorem exec_commandFetch_tagInUse (hs : s.silent = false) (he : (s.queue q).enabled = true) (ho : (s.queue q).orphaned = false)
    (hn : (s.queue q).sqHead ≠ (s.queue q).sqTail) (hb : s.hostBad (s.entryAddr q) 64 = false)
    (ht : ((s.entryRead q).outst? (s.entryId q)).isSome = true) :
    exec (.commandFetch q) s =
      .next (((s.entryRead q).updQueue q (fun y => { y with tagError := true })).raise 8 (queueNumber q) (s.entryId q).tag (queueScope q)) := by
  rw [exec_commandFetch hs, fetchOne_eq he ho hn, if_neg (Bool.eq_false_iff.1 hb), if_pos ht]

/-- A command that passes the checks of fetch waits to start (R529). -/
theorem exec_commandFetch_accepts (hs : s.silent = false) (he : (s.queue q).enabled = true) (ho : (s.queue q).orphaned = false)
    (hn : (s.queue q).sqHead ≠ (s.queue q).sqTail) (hb : s.hostBad (s.entryAddr q) 64 = false) (ht : (s.entryRead q).outst? (s.entryId q) = none)
    (hc : (s.entryFetched q).fetchCheck q (s.entryBytes q) = .ok ()) :
    exec (.commandFetch q) s = .next (State.settle 32 (s.entryFetched q)) := by
  rw [exec_commandFetch hs, fetchOne_eq he ho hn, if_neg (Bool.eq_false_iff.1 hb), if_neg (by simp [ht]), hc]

/-- A command that fails a check of fetch completes with its status (R529). -/
theorem exec_commandFetch_refuses (hs : s.silent = false) (he : (s.queue q).enabled = true) (ho : (s.queue q).orphaned = false)
    (hn : (s.queue q).sqHead ≠ (s.queue q).sqTail) (hb : s.hostBad (s.entryAddr q) 64 = false) (ht : (s.entryRead q).outst? (s.entryId q) = none)
    {e : Fail} (hc : (s.entryFetched q).fetchCheck q (s.entryBytes q) = .error e) :
    exec (.commandFetch q) s = .next ((s.entryFetched q).complete
      ((s.entryRead q).entryOutst q (s.queue q) (s.entryBytes q) (s.entryId q)) e.status e.detail []) := by
  rw [exec_commandFetch hs, fetchOne_eq he ho hn, if_neg (Bool.eq_false_iff.1 hb), if_neg (by simp [ht]), hc]

end

/-! ### Interrupt delay and registers -/

section

variable {s : State} {f : Fn} {q : QId}

/-- A delay that runs out reports what is unreported (R506). -/
theorem exec_irqDelayTimeout (he : (s.queue q).enabled = true) (ho : (s.queue q).orphaned = false) (hi : (s.queue q).irqEn = true)
    (hu : 0 < (s.queue q).unreported) :
    exec (.irqDelayTimeout q) s = .next ((s.sendIrq q).chargeQueue q 17 ((s.sendIrq q).messageBytes s)) :=
  congrArg Host.Outcome.next (if_pos (by simp [he, ho, hi, hu]))

/-- A PF sets CFL_WAIT (R40). -/
theorem exec_cflWait (ha : s.fnAlive f = true) (hd : f ∉ s.host.fnD3) (hv : isVf f = false) (v : W32) :
    exec (.cflWait f v) s = .next { s with host := { s.host with cflWait := v.toNat % 32 } } :=
  congrArg Host.Outcome.next (if_pos (by simp [ha, hd, hv]))

/-- Every register but DEV_CTRL is written as `State.writeReg4` says. -/
theorem writeBar0_of_ne {off : Nat} (h : off ≠ 0x200) (s : State) (f : Fn) (v : Nat) : s.writeBar0 f off v = s.writeReg4 f off v := if_neg h

/-- A write of 4 aligned bytes is one register write (R485). -/
theorem exec_registerWrite4 (ha : s.fnAlive f = true) (hd : f ∉ s.host.fnD3) {off : Nat} (h4 : off % 4 = 0) (hoff : off ≠ 0x200) (v : W64) :
    exec (.registerWrite f off 4 v) s = .next (s.writeReg4 f off (v.toNat % 2 ^ 32)) := by
  show execRegisterWrite f off 4 v s = _
  simp [execRegisterWrite, ha, hd, h4, writeBar0_of_ne hoff]

/-- A write of 8 aligned bytes is two register writes, the low half first (R485). -/
theorem exec_registerWrite8 (ha : s.fnAlive f = true) (hd : f ∉ s.host.fnD3) {off : Nat} (h8 : off % 8 = 0) (hoff : off ≠ 0x200) (v : W64) :
    exec (.registerWrite f off 8 v) s = .next ((s.writeReg4 f off (v.toNat % 2 ^ 32)).writeReg4 f (off + 4) (v.toNat / 2 ^ 32)) := by
  have hhigh : off + 4 ≠ 0x200 := by omega
  show execRegisterWrite f off 8 v s = _
  simp [execRegisterWrite, ha, hd, h8, writeBar0_of_ne hoff, writeBar0_of_ne hhigh]

end

/-- Settles O43, register by register: what a Q_CONFIG write does is said by the `writeQConfig` lemmas, and what a fetch does by `fetchOne_eq`. -/
theorem queueRegistersComplete : Obligations.QueueRegistersComplete := by
  intro s f q hr
  refine ⟨fun he ho hf => ⟨exec_sqTail hr he ho hf, exec_cqHead hr he ho hf, fun v hs hv hb => ?_, fun hs => exec_queueDisable hr hs (.inl he) hf⟩,
    fun hs ho hf => exec_queueDisable hr hs (.inr ho) hf,
    fun hs he hctx v hv => congrArg Host.Outcome.next (writeQConfig_enables hr hs he hctx (bitAt_or_one _) hv),
    fun hs => ?_, exec_irqDelayTimeout,
    fun ha hd => ⟨exec_cflWait ha hd, fun off v => ⟨fun h4 hoff => exec_registerWrite4 ha hd h4 hoff v, fun h8 hoff => exec_registerWrite8 ha hd h8 hoff v⟩⟩⟩
  · have hw := writeQConfig_updates hr hs he ho hf hb hv
    exact congrArg Host.Outcome.next ((congrArg (s.writeQConfig f q) (or_one_of_bitAt hb)).trans hw)
  · intro x addr t g pkt id
    refine ⟨fun hidle => (exec_commandFetch hs).trans (congrArg Host.Outcome.next (fetchOne_idle hidle)), fun he ho hn =>
      ⟨fun hb => exec_commandFetch_badRead hs he ho hn hb, fun hb ht => ?_, fun hb ht => ?_⟩⟩
    · refine (exec_commandFetch_tagInUse hs he ho hn hb ht).trans ?_
      cases q <;> rfl
    · intro mask v o u
      have hu : s.entryFetched q = u := withFetched_eq v o
      rw [← hu]
      exact ⟨fun hc => exec_commandFetch_accepts hs he ho hn hb ht hc, fun e hc => exec_commandFetch_refuses hs he ho hn hb ht hc⟩

end Sys2Proof.Machine
end

section
/-!
PROOFS. The matrix engine's family: the steps of a program, issued by the sequencer. What the issue of a step changes is said once, and so is what a row does
when its core's next step is the one it names; an empty matrix step, the control and copy steps, the engine steps and their ends follow.
-/
namespace Sys2Proof.Machine

open Sys2Proof

/-! ### What the issue of a step leaves unchanged -/

/-- A run without the progress of its cores: everything of it that the issue of a step leaves unchanged. -/
def Run.sansProgress (r : Run) : Run := { r with cores := [] }

/-- `t` differs from `s` at most in how far the cores of its runs have come. -/
structure State.SameButProgress (s t : State) : Prop where
  rest : t = { s with runs := t.runs }
  runs : t.runs.map Run.sansProgress = s.runs.map Run.sansProgress

theorem State.SameButProgress.refl (s : State) : s.SameButProgress s := ⟨rfl, rfl⟩

theorem State.SameButProgress.trans {s t u : State} (h : s.SameButProgress t) (g : t.SameButProgress u) : s.SameButProgress u where
  rest := by rw [g.rest, h.rest]
  runs := g.runs.trans h.runs

section

variable {s t : State} (h : s.SameButProgress t)

include h

theorem State.SameButProgress.mem : t.mem = s.mem := by rw [h.rest]
theorem State.SameButProgress.cores : t.cores = s.cores := by rw [h.rest]
theorem State.SameButProgress.host : t.host = s.host := by rw [h.rest]
theorem State.SameButProgress.tensors : t.tensors = s.tensors := by rw [h.rest]
theorem State.SameButProgress.bindings : t.bindings = s.bindings := by rw [h.rest]

/-- What a run holds beside the progress of its cores is the same in every run. -/
theorem State.SameButProgress.map_runs {α : Type} (f : Run → α) (hf : ∀ x, f x = f x.sansProgress) :
    t.runs.map f = s.runs.map f := by
  have hsplit : f = f ∘ Run.sansProgress := funext hf
  rw [hsplit, ← List.map_map, ← List.map_map, h.runs]

end

theorem updCore_sameButProgress (s : State) (id : CmdId) (flat : Nat) (f : CoreRun → CoreRun) : s.SameButProgress (s.updCore id flat f) where
  rest := rfl
  runs := by
    simp only [State.updCore, updRun_runs, mapIf, List.map_map]
    refine List.map_congr_left fun x _ => ?_
    by_cases hx : x.id = id <;> simp [hx, Run.sansProgress]

theorem keepOld_sameButProgress (s : State) (r : Run) (flat idx : Nat) (spans : List Span) : s.SameButProgress (s.keepOld r flat idx spans) := by
  simp only [State.keepOld]
  split
  · exact .refl s
  · exact updCore_sameButProgress s r.id flat _

/-- The issue of a step changes nothing but the progress of its core: the effect of the step is all that it does besides. -/
theorem issued_sameButProgress (s : State) (flat : Nat) (k : StepKind) (r : Run) (c : CoreRun) : s.SameButProgress (s.issued flat k r c) :=
  (keepOld_sameButProgress s r flat c.pc _).trans (updCore_sameButProgress _ r.id flat _)

/-! ### Empty matrix steps -/

/-- R106: on either path, whatever K is. -/
theorem matStep_empty {a : MatArgs} (he : a.m = 0 ∨ a.n = 0) (s : State) (r : Run) (core : Nat) (isMv : Bool) : s.matStep r core a isMv = s :=
  if_pos (by simpa using he)

/-- Settles O54: the step is issued, and a matrix step with M = 0 or N = 0 adds nothing to its issue. -/
theorem emptyMatrixStepWritesNothing : Obligations.EmptyMatrixStepWritesNothing := by
  intro s core a r c he
  have keeps : ∀ k, let t := s.issued core k r c
      t.mem = s.mem ∧ t.cores = s.cores ∧ t.host = s.host ∧
        t.runs.map (fun x => (x.failed, x.flags, x.saturations, x.emptySteps)) = s.runs.map (fun x => (x.failed, x.flags, x.saturations, x.emptySteps)) ∧
        t.tensors = s.tensors ∧ t.bindings = s.bindings := by
    intro k t
    have hsame : s.SameButProgress t := issued_sameButProgress s core k r c
    exact ⟨hsame.mem, hsame.cores, hsame.host, hsame.map_runs _ fun _ => rfl, hsame.tensors, hsame.bindings⟩
  exact ⟨fun h => ⟨_, congrArg Host.Outcome.next ((issue_of h _).trans (matStep_empty he _ r core false)), keeps (.streamMm a)⟩,
    fun h => ⟨_, congrArg Host.Outcome.next ((issue_of h _).trans (matStep_empty he _ r core true)), keeps (.mv a)⟩⟩

section

variable {s : State} {core : Nat} {r : Run} {c : CoreRun}

/-! ### Control and copy steps -/

/-- SIGNAL adds to the counter of the cluster whose first declared core it finds (R202). -/
theorem exec_signal {event cluster increment : Nat} {x : CoreRun} (h : s.nextStep core (.signal event cluster increment) r c = true)
    (hx : r.cores[8 * cluster]? = some x) :
    let t := s.issued core (.signal event cluster increment) r c
    exec (.signal core event cluster increment) s =
      .next { t with events := ainsert (x.flat / 8, event) (t.eventOf (x.flat / 8) event + increment) t.events } :=
  congrArg Host.Outcome.next ((issue_of h _).trans (by simp only [hx]))

/-- TP_COPY writes the source as its check leaves it, with the poison that stands in it, unless the check ends the run (R156, R222). -/
theorem exec_tpCopy {srcOff dstOff length : Nat} (h : s.nextStep core (.tpCopy srcOff dstOff length) r c = true) :
    let t := (s.issued core (.tpCopy srcOff dstOff length) r c).probe (tpBase core + srcOff) length
    (t.run? r.id).isSome = true →
    exec (.tpCopy core srcOff dstOff length) s =
      .next (((t.tpTouch r core dstOff length).devWr r.part (tpBase core + dstOff) (t.rd (tpBase core + srcOff) length)).addPoison
        (t.carryPoison (tpBase core + srcOff) (tpBase core + dstOff) length)) := by
  intro t hrun
  have hgoes : ¬ (t.run? r.id).isNone = true := by rw [← Option.not_isSome, hrun]; decide
  exact congrArg Host.Outcome.next ((issue_of h _).trans (if_neg hgoes))

/-- A pending SWAP whose half, or halves, no load and no stream holds exchanges the sets and ends (R83, R84). -/
theorem exec_swapTakesEffect {halfB : Bool} {j : Nat} (hr : s.runOn core = some r) (hc : r.cores.find? (fun x => x.flat = core) = some c)
    (hj : r.swapIdx c (b2n halfB) = some j) (hp : c.pendingSwap.getD (b2n halfB) false = true)
    (hb : r.busyHalves c ((s.core core).swapHalves (b2n halfB)) = false) :
    exec (.swapTakesEffect core halfB) s =
      .next (((s.setCore core ((s.core core).swapped (b2n halfB))).updCore r.id core
        (fun y => { y with pendingSwap := setAt (b2n halfB) false y.pendingSwap })).stepDone r.id core j) := by
  show execSwapTakesEffect core halfB s = _
  simp only [execSwapTakesEffect, hr, hc, hj, hp, hb, Bool.not_true, Bool.or_self, Bool.false_eq_true, if_false]

end

/-- Settles O31: each step is issued and its effect follows; SIGNAL, TP_COPY and a SWAP in effect have a condition of their own. -/
theorem controlStepsComplete : Obligations.ControlStepsComplete := fun _ _ _ _ =>
  ⟨fun _ _ h => congrArg Host.Outcome.next (issue_of h _),
    fun _ _ _ _ h hx => exec_signal h hx,
    fun _ h => congrArg Host.Outcome.next (issue_of h _),
    fun h => congrArg Host.Outcome.next (issue_of h _),
    fun _ _ _ _ h => congrArg Host.Outcome.next (issue_of h _),
    fun _ _ _ h => exec_tpCopy h,
    fun _ h => congrArg Host.Outcome.next (issue_of h _),
    fun _ _ hr hc hj hp hb => exec_swapTakesEffect hr hc hj hp hb⟩

/-! ### Engine steps -/

section

variable {s : State} {core : Nat} {r : Run} {c : CoreRun}

/-- LOAD_WEIGHTS reads the cells of its tile under the checker, then loads the shadow set (R81). -/
theorem exec_loadWeights {a : LoadArgs} {v : View} (h : s.nextStep core (.loadWeights a) r c = true) :
    let t := s.issued core (.loadWeights a) r c
    t.operand r core a.w = some v →
    exec (.loadWeights core a) s =
      .next (t.reading r.id
        (t.cellSpans r.id v (a.tileN * (tileOf a.shape).2) (min (tileOf a.shape).2 (v.desc.rows - a.tileN * (tileOf a.shape).2))
          (a.tileK * (tileOf a.shape).1) (min (tileOf a.shape).1 (v.desc.ext 0 - a.tileK * (tileOf a.shape).1)))
        (fun u => (u.loadTile r v a).1.setCore core (((u.loadTile r v a).1.core core).load (u.loadTile r v a).2 (halfOf a.shape a.halfB)))) := by
  intro t hv
  exact congrArg Host.Outcome.next ((issue_of h _).trans (by simp only [hv, t]))

/-- QSCAN reads its group under the checker, then sets the scale registers (R141). -/
theorem exec_qscan {a : QuantArgs} {v : View} (h : s.nextStep core (.qscan a) r c = true) :
    let t := s.issued core (.qscan a) r c
    t.operand r core a.src = some v → exec (.qscan core a) s = .next (t.reading r.id (t.groupSpans r.id a v) (fun u => u.runQscan r core a v)) := by
  intro t hv
  exact congrArg Host.Outcome.next ((issue_of h _).trans (by simp only [hv, t]))

/-- QCONVERT reads its group under the checker, then writes OUT (R144). -/
theorem exec_qconvert {a : QuantArgs} {v w : View} (h : s.nextStep core (.qconvert a) r c = true) :
    let t := s.issued core (.qconvert a) r c
    t.operand r core a.src = some v → t.operand r core a.out = some w →
    exec (.qconvert core a) s = .next (t.reading r.id (t.groupSpans r.id a v) (fun u => u.runQconvert r core a v w)) := by
  intro t hv hw
  exact congrArg Host.Outcome.next ((issue_of h _).trans (by simp only [hv, hw, t]))

/-- COPY copies between the views of its two operands (R179). -/
theorem exec_copy {stream : Bool} {src dst : Nat} {a b : View} (h : s.nextStep core (.copy stream src dst) r c = true) :
    let t := s.issued core (.copy stream src dst) r c
    t.operand r core src = some a → t.operand r core dst = some b → exec (.copy core stream src dst) s = .next (t.copyRun r stream a b) := by
  intro t ha hb
  exact congrArg Host.Outcome.next ((issue_of h _).trans (by simp only [ha, hb, t]))

/-- COLLECTIVE starts an operation on its ring with the units of its source (R451, R463). -/
theorem exec_collective {a : CollArgs} {v : View} (h : s.nextStep core (.collective a) r c = true) :
    let t := s.issued core (.collective a) r c
    t.operand r core a.src = some v →
    exec (.collective core a) s =
      .next (t.startOp (r.rings.getD a.ring 0)
        { id := r.id, flat := core, stepIdx := c.pc, op := 0, cop := a.cop, headroom := a.headroom, units := collUnits a.cop v.desc
          src := a.src, dst := a.dst, startSeen := false, first := [], second := [] }) := by
  intro t hv
  exact congrArg Host.Outcome.next ((issue_of h _).trans (by simp only [hv, Option.map_some, Option.getD_some, t]))

/-! ### Prefetches -/

/-- The state in which the copy engine of a core has taken entry `e`, `p`, of the schedule into its queue (R203). -/
def State.prefetchQueued (s : State) (r : Run) (core e : Nat) (p : Prefetch) : State :=
  (s.keepOld r core (pfKey + e) (if p.dstTier = 0 then r.whole p.dst else [])).updCore r.id core
    (fun x => { x with pfIssued := x.pfIssued ++ [e], inflight := x.inflight ++ [pfKey + e] })

/-- What a queued entry does: nothing for a destination in tier 1, else its copy where both operands are there (R204). -/
def State.prefetchCopy (t : State) (r : Run) (core : Nat) (p : Prefetch) : State :=
  if p.dstTier = 1 then t
  else
    match t.operand r core p.src, t.operand r core p.dst with
    | some a, some b => t.copyRun r false a b
    | _, _ => t

theorem prefetchCopy_tier1 {p : Prefetch} (h : p.dstTier = 1) (t : State) : t.prefetchCopy r core p = t := if_pos h

theorem prefetchCopy_operands {t : State} {p : Prefetch} {a b : View} (h : p.dstTier ≠ 1) (ha : t.operand r core p.src = some a)
    (hb : t.operand r core p.dst = some b) : t.prefetchCopy r core p = t.copyRun r false a b := by
  simp only [State.prefetchCopy, if_neg h, ha, hb]

/-- An entry that is due, whose destination is clear and for which the queue has room, is queued and does what it does (R200, R203, R204). -/
theorem exec_prefetchIssue {entry : Nat} {p : Prefetch} (hr : s.runOn core = some r) (hc : r.cores.find? (fun x => x.flat = core) = some c)
    (hp : r.img.prefetch[entry]? = some p) (hs : s.stalled = false) (hd : r.pfDue c entry p = true) (hl : r.pfClear c p = true)
    (hq : (r.copyQueue c).length < 16) :
    exec (.prefetchIssue core entry) s = .next ((s.prefetchQueued r core entry p).prefetchCopy r core p) := by
  show execPrefetchIssue core entry s = _
  simp only [execPrefetchIssue, hr, hc, hp, hs, hd, hl, hq, Bool.not_false, Bool.and_self, decide_true, if_true]
  rfl

/-! ### The end of a step -/

/-- A step in flight that may end, other than a SWAP or a COLLECTIVE, adds its time to its run and ends (R83, R203, R467). -/
theorem exec_engineStepComplete_step {j : Nat} {w : StepWord} (hr : s.runOn core = some r) (hc : r.cores.find? (fun x => x.flat = core) = some c)
    (hj : j ∈ c.inflight) (he : r.mayEnd c j = true) (hw : (r.img.steps.getD (r.coreNo core) [])[j]? = some w) (hswap : ∀ h, w.kind ≠ .swap h)
    (hcoll : ∀ a, w.kind ≠ .collective a) :
    exec (.engineStepComplete core j) s = .next ((s.addBusy r core w.kind).stepDone r.id core j) := by
  show execEngineStepComplete core j s = _
  cases hkind : w.kind with
  | swap h => exact absurd hkind (hswap h)
  | collective a => exact absurd hkind (hcoll a)
  | _ => simp only [execEngineStepComplete, hr, hw, hc, hkind, hj, he, decide_true, Bool.and_self, if_true]

/-- An entry of the prefetch schedule in flight that may end has completed (R204). -/
theorem exec_engineStepComplete_prefetch {j : Nat} (hr : s.runOn core = some r) (hc : r.cores.find? (fun x => x.flat = core) = some c)
    (hj : j ∈ c.inflight) (he : r.mayEnd c j = true) (hw : (r.img.steps.getD (r.coreNo core) [])[j]? = none) (hk : pfKey ≤ j) :
    exec (.engineStepComplete core j) s = .next (s.prefetchDone r.id core (j - pfKey)) := by
  show execEngineStepComplete core j s = _
  simp only [execEngineStepComplete, hr, hw, hc, hk, hj, he, decide_true, Bool.and_self, if_true]

end

/-- Settles O32, row by row: the issue of each engine's step with its effect, the issue of a prefetch entry, and the end of a step. -/
theorem engineStepsComplete : Obligations.EngineStepsComplete := fun _ _ _ _ =>
  ⟨fun _ _ h => exec_loadWeights h,
    fun _ h => congrArg Host.Outcome.next (issue_of h _),
    fun _ h => congrArg Host.Outcome.next (issue_of h _),
    fun _ h => congrArg Host.Outcome.next (issue_of h _),
    fun _ _ h => exec_qscan h,
    fun _ _ _ h => exec_qconvert h,
    fun _ _ _ _ _ h => exec_copy h,
    fun _ _ h => exec_collective h,
    fun _ _ hr hc hp hs hd hl hq =>
      have hissue := exec_prefetchIssue hr hc hp hs hd hl hq
      ⟨fun h1 => hissue.trans (congrArg Host.Outcome.next (prefetchCopy_tier1 h1 _)),
        fun _ _ h1 ha hb => hissue.trans (congrArg Host.Outcome.next (prefetchCopy_operands h1 ha hb))⟩,
    fun _ hr hc hj he =>
      ⟨fun _ hw hswap hcoll => exec_engineStepComplete_step hr hc hj he hw hswap hcoll,
        exec_engineStepComplete_prefetch hr hc hj he⟩⟩

end Sys2Proof.Machine
end

section
/-!
PROOFS. The vector engine and quantisation family: the commands on tensors of the issuing partition. One lemma for each case of a command says how it ends or
runs on once its checks pass; the statement is assembled from them.
-/
namespace Sys2Proof.Machine

open Sys2Proof

/-! ### What the lemmas share -/

/-- The check that nothing holds a tensor: no command has bound it, and it is no weight of a bound model (chapter *Command reference*). -/
theorem tensorFree_of {s : State} {h : Nat} (hb : s.isBound h = false) (hm : s.models.all (fun m => decide (h ∉ m.weights)) = true) :
    (!s.isBound h && !s.models.any (fun m => decide (h ∈ m.weights))) = true := by
  rw [hb, List.not_any_eq_all_not]; simpa using hm

/-- A write goes on where the flash store takes writes or the tensor is not flash-backed. -/
theorem writeGoesOn_of {s : State} {tier : Nat} (hw : s.writesHeld = false ∨ tier ≠ 3) : (s.writesHeld && decide (tier = 3)) = false := by
  rw [Bool.and_eq_false_iff, decide_eq_false_iff_not]; exact hw

/-! ### TENSOR_CREATE -/

/-- The bytes of part `k` that TENSOR_CREATE allocates: every part in tier 1, the exponent plane alone in tier 2 (R162, R168). -/
def Desc.partWanted (d : Desc) (k : Nat) : Nat :=
  if d.tier = 1 then d.regionBytes k else if d.tier = 2 && k = 1 then d.regionBytes 1 else 0

/-- The descriptor that a new tensor gets from the one given: its allocated parts, handle, partition and sizes (R168, R170). -/
def Desc.created (d : Desc) (p h : Nat) (bases : List Nat) : Desc :=
  { d.setBases (if d.tier = 2 then setAt 0 d.base bases else bases) with handle := h, part := p, channels := d.chanCount, bytes := d.arrayBytes }

/-- The home die of a new tensor: where its allocated parts lie, else the one that the caller names (R161, log 95). -/
def State.createdHome (w : State) (p home : Nat) (e : Desc) : Nat :=
  if e.tier = 1 then nmDie e.base
  else if e.tier = 2 ∧ home = 0xFF then (if e.expBase = 0 then (w.homeDies p home).headD home else nmDie e.expBase)
  else home

/-- The state `w` with a new tensor of descriptor `e`. -/
def State.withCreated (w : State) (p home : Nat) (e : Desc) : State :=
  { w with tensors := w.tensors ++ [{ desc := e, home := w.createdHome p home e, dirty := [], staged := false, lastBound := 0 }] }

section

variable {s u : State} {id : CmdId} {o : Outst}

/-- TENSOR_CREATE of a sound descriptor that finds its memory adds the tensor and answers its handle (R161, R162, R168, R170, R676). -/
theorem exec_tensorCreate {home : Nat} {bases : List Nat} {d : Desc} (hs : s.startable id (.tensorCreate id home) = some o)
    (hhome : home = 0xFF ∨ home < Variant.dies s.variant) (hl : 160 ≤ o.ibufLen) (hr : (o.hold || decide (4 ≤ o.rbufLen)) = true)
    (hb : s.hostBad o.ibuf 160 = false) (hd : descOf (s.hostRd o.ibuf 160) = d) (hns : d.tier = 3 → s.nsHeld (backingOf d.backing).1 = false)
    (hf : descFault (s.hostRd o.ibuf 160) d false = none) (hc : (s.chargeBytes o.id 16 160).descChecks o d = .ok ())
    (ha : (s.chargeBytes o.id 16 160).allocTensor (ioPart o) home d.partWanted = some (u, bases)) :
    exec (.tensorCreate id home) s =
      .next (s.ends ((u.newHandle (ioPart o)).1.withCreated (ioPart o) home (d.created (ioPart o) (u.newHandle (ioPart o)).2 bases)) o .ok 0
        (leBytes 4 (u.newHandle (ioPart o)).2)) := by
  have hdie : (home == 0xFF || decide (home < Variant.dies s.variant)) = true := by simpa using hhome
  have hopen : (decide (d.tier = 3) && s.nsHeld (backingOf d.backing).1) = false := by
    rw [Bool.and_eq_false_imp]; simpa using hns
  have hibuf : s.ibuf o 160 = .ok (s.hostRd o.ibuf 160) := if_neg (Bool.eq_false_iff.1 hb)
  unfold Desc.partWanted at ha
  refine congrArg Host.Outcome.next (startCmd_now hs ?_)
  simp only [need_of hdie, needIbuf_of hl, needRbuf_of hr, hibuf, takeIbuf_of hb, bind_ok, hd, hopen, hf, hc, ha, Bool.false_eq_true, if_false,
    okResult]
  simp only [State.withCreated, State.createdHome, Bool.and_eq_true, decide_eq_true_eq]
  rfl

end

section

variable {s u : State} {id : CmdId} {o : Outst} {h : Nat} {t : Tensor}

/-! ### TENSOR_DESTROY and TENSOR_INFO -/

/-- TENSOR_DESTROY of a tensor that nothing holds removes it, its dirty pages being in its backing object (R168). -/
theorem exec_tensorDestroy_clean (hs : s.startable id (.tensorDestroy id h) = some o) (hh : o.hold = false) (hi : s.tensorIdent o h = .ok t)
    (hb : s.isBound h = false) (hm : s.models.all (fun m => decide (h ∉ m.weights)) = true) (hu : s.writeBackAll h = u)
    (hc : u.isClean h = true) :
    exec (.tensorDestroy id h) s =
      .next ((({ u with tensors := u.tensors.filter (fun x => x.desc.handle ≠ h) } : State).sweep.settleCeiling).complete o .ok 0 []) :=
  congrArg Host.Outcome.next (startCmd_completes hs hh (by
    simp only [noHold_of hh, hi, need_of (tensorFree_of hb hm), bind_ok, hu, hc, Bool.not_true, Bool.false_eq_true, if_false, okDone]))

/-- TENSOR_DESTROY waits while a dirty page has no place in the flash store (log 94). -/
theorem exec_tensorDestroy_waits (hs : s.startable id (.tensorDestroy id h) = some o) (hh : o.hold = false) (hi : s.tensorIdent o h = .ok t)
    (hb : s.isBound h = false) (hm : s.models.all (fun m => decide (h ∉ m.weights)) = true) (hu : s.writeBackAll h = u)
    (hc : u.isClean h = false) : exec (.tensorDestroy id h) s = .next s :=
  congrArg Host.Outcome.next (startCmd_waits (t := u) hs (by
    simp only [noHold_of hh, hi, need_of (tensorFree_of hb hm), bind_ok, hu, hc, Bool.not_false, if_true]))

/-- TENSOR_INFO ends with the descriptor as it is shown (R168). -/
theorem exec_tensorInfo (hs : s.startable id (.tensorInfo id h) = some o) (hi : s.tensorIdent o h = .ok t)
    (hr : (o.hold || decide (160 ≤ o.rbufLen)) = true) : exec (.tensorInfo id h) s = .next (s.ends s o .ok 0 t.desc.shown.bytesOf) :=
  congrArg Host.Outcome.next (startCmd_now hs (by simp only [hi, needRbuf_of hr, bind_ok, okResult]))

/-! ### Reads and writes -/

/-- TENSOR_WRITE puts its bytes in the shadow of the tensor that it has bound, and runs on (R174). -/
theorem exec_tensorWrite {region off : Nat} (hs : s.startable id (.tensorWrite id h region off) = some o) (hh : o.hold = false)
    (hi : s.tensorIdent o h = .ok t) (hreg : region ≤ 3) (hoff : off + o.ibufLen ≤ t.desc.partBytes region)
    (hw : s.writesHeld = false ∨ t.desc.tier ≠ 3) (hbind : s.bindTarget id h = .ok u) (hb : u.hostBad o.ibuf o.ibufLen = false) :
    exec (.tensorWrite id h region off) s = .next (
      let v := u.chargeBytes o.id 16 o.ibufLen
      (v.tensorPut t.desc.part id (v.viewOf id h) region off (u.hostRd o.ibuf o.ibufLen)).markRunning id) := by
  have hstart : off ≤ t.desc.partBytes region := by omega
  exact congrArg Host.Outcome.next (startCmd_marks (room := 0) hs hh (by
    simp only [noHold_of hh, inRange_of (decide_eq_true hreg), hi, need_of (decide_eq_true hstart), need_of (decide_eq_true hoff), writeGoesOn_of hw,
      hbind, takeIbuf_of hb, bind_ok, Bool.false_eq_true, if_false]))

/-- TENSOR_READ of a range without poison ends with the bytes of the view bound at its start (R173, R178). -/
theorem exec_tensorRead {region off len base : Nat} {w : State} (hs : s.startable id (.tensorRead id h region off len) = some o)
    (hi : s.tensorIdent o h = .ok t) (hreg : region ≤ 4) (hr : (o.hold || decide (len ≤ o.rbufLen)) = true)
    (hoff : off + len ≤ t.desc.regionBytes region) (hbind : (s.openBinding id).bindInputs id .dataPoisoned 0 [h] = .ok u)
    (hbase : (u.viewOf id h).bases.getD region 0 + off = base)
    (hask : (if inHostWindow base then u else u.probe base len).askHost t.desc.part base len = w)
    (hhost : w.hwinBad t.desc.part base len = false) (hpoison : w.poisoned base len = false) :
    exec (.tensorRead id h region off len) s = .next (s.ends w o .ok 0 (w.devRd t.desc.part base len)) := by
  have hstart : off ≤ t.desc.regionBytes region := by omega
  exact congrArg Host.Outcome.next (startCmd_now hs (by
    simp only [inRange_of (decide_eq_true hreg), hi, needRbuf_of hr, need_of (decide_eq_true hstart), need_of (decide_eq_true hoff), hbind, bind_ok,
      hbase, hask, hhost, hpoison, Bool.false_eq_true, if_false, okResult]))

/-- QSTATS of channels without poison ends with their entries in the view bound at its start (R148). -/
theorem exec_qstats {first count base : Nat} {w : State} (hs : s.startable id (.qstats id h first count) = some o)
    (hi : s.tensorIdent o h = .ok t) (hstats : t.desc.holds 4 = true) (hr : (o.hold || decide (16 * count ≤ o.rbufLen)) = true)
    (hfirst : first < t.desc.chanCount ∨ count = 0) (hcount : first + count ≤ t.desc.chanCount)
    (hbind : (s.openBinding id).bindInputs id .dataPoisoned 0 [h] = .ok u) (hbase : (u.viewOf id h).bases.getD 4 0 + 16 * first = base)
    (hprobe : u.probe base (16 * count) = w) (hpoison : w.poisoned base (16 * count) = false) :
    exec (.qstats id h first count) s = .next (s.ends w o .ok 0 (w.devRd t.desc.part base (16 * count))) := by
  have hstart : (decide (first < t.desc.chanCount) || count == 0) = true := by simpa using hfirst
  exact congrArg Host.Outcome.next (startCmd_now hs (by
    simp only [hi, need_of hstats, needRbuf_of hr, need_of hstart, need_of (decide_eq_true hcount), hbind, bind_ok, hbase, hprobe, hpoison,
      Bool.false_eq_true, if_false, okResult]))

/-! ### Copies and repairs -/

/-- TENSOR_COPY from a source that reads without poison copies it into the target's shadow, and runs on (R179). -/
theorem exec_tensorCopy {dst : Nat} {b : Tensor} {v : View} {w : State} (hs : s.startable id (.tensorCopy id h dst) = some o) (hh : o.hold = false)
    (hi : s.tensorIdent o h = .ok t) (hdst : s.tensorIdent o dst = .ok b) (hfit : copyFault t.desc b.desc = none)
    (hw : s.writesHeld = false ∨ b.desc.tier ≠ 3) (hbind : s.bindPair id h dst 0x08 0x0C = .ok u) (hv : u.sourceView id h = v)
    (hask : (u.probeParts { v.desc with handle := h }).askTensor t.desc.part v.desc = w) (hhost : w.hostFails t.desc.part v.desc = false)
    (hpoison : w.partsPoisoned v.desc = false) :
    exec (.tensorCopy id h dst) s =
      .next (((w.copyWhole t.desc.part id v (w.viewOf id dst)).chargeCopy id v (w.viewOf id dst)).markRunning id) :=
  congrArg Host.Outcome.next (startCmd_marks (room := 0) hs hh (by
    simp only [noHold_of hh, hi, hdst, hfit, writeGoesOn_of hw, hbind, bind_ok, hv, hask, hhost, hpoison, Bool.false_eq_true, if_false]))

/-- The state in which a repair has written the parts that its input buffer `bs` brings, and filled the statistics (R305). -/
def State.repairPut (s : State) (id : CmdId) (d : Desc) (v : View) (bs : Bytes) : State :=
  (d.repairLayout.foldl (fun (s : State) x => s.tensorPut d.part id v x.1 0 ((bs.drop x.2.1).take x.2.2)) s).refillPart d.part id v 4

/-- TENSOR_REPAIR from its input buffer writes the shadow of the tensor that it has bound, and runs on (R172, R305). -/
theorem exec_tensorRepair_buffer {n : Nat} (hs : s.startable id (.tensorRepair id h nullHandle) = some o) (hh : o.hold = false)
    (hi : s.tensorIdent o h = .ok t) (hw : s.writesHeld = false ∨ t.desc.tier ≠ 3) (hn : (t.desc.repairLayout.map (fun x => x.2.2)).sum = n)
    (hl : n ≤ o.ibufLen) (hbind : s.bindTarget id h = .ok u) (hb : u.hostBad o.ibuf n = false) :
    exec (.tensorRepair id h nullHandle) s = .next (
      let v := u.chargeBytes o.id 16 n
      (v.repairPut id t.desc (v.viewOf id h) (u.hostRd o.ibuf n)).markRunning id) :=
  congrArg Host.Outcome.next (startCmd_marks (room := 0) hs hh (by
    simp only [noHold_of hh, hi, hn, needIbuf_of hl, writeGoesOn_of hw, hbind, takeIbuf_of hb, bind_ok, Bool.false_eq_true, if_true, if_false,
      State.repairPut]))

/-- The state in which a repair has copied its source, of descriptor `d`, from its view `v` to `y` and filled the parts that the source does not hold (R305). -/
def State.repairCopy (s : State) (p : Nat) (id : CmdId) (d : Desc) (v y : View) : State :=
  [2, 3, 4].foldl (fun s k => if d.holds k then s else s.refillPart p id y k) ((s.copyWhole p id v y).chargeCopy id v y)

/-- TENSOR_REPAIR from a source that reads without poison copies it into the tensor's shadow, and runs on (R172, R179, R305). -/
theorem exec_tensorRepair_source {source : Nat} {a : Tensor} {v : View} {w : State} (hnull : source ≠ nullHandle)
    (hs : s.startable id (.tensorRepair id h source) = some o) (hh : o.hold = false) (hi : s.tensorIdent o h = .ok t)
    (hsrc : s.tensorIdent o source = .ok a) (hfit : copyFault a.desc t.desc = none) (hw : s.writesHeld = false ∨ t.desc.tier ≠ 3)
    (hbind : s.bindPair id source h 0x0C 0x08 = .ok u) (hv : u.sourceView id source = v)
    (hask : (u.probeParts v.desc).askTensor t.desc.part v.desc = w) (hhost : w.hostFails t.desc.part v.desc = false)
    (hpoison : w.partsPoisoned v.desc = false) :
    exec (.tensorRepair id h source) s = .next ((w.repairCopy t.desc.part id a.desc v (w.viewOf id h)).markRunning id) :=
  congrArg Host.Outcome.next (startCmd_marks (room := 0) hs hh (by
    simp only [noHold_of hh, hi, hnull, hsrc, hfit, writeGoesOn_of hw, hbind, bind_ok, hv, hask, hhost, hpoison, Bool.false_eq_true, if_false,
      State.repairCopy]))

end

/-- Settles O6, command by command: each passes its checks, binds its tensors, and ends or runs on. A TENSOR_DESTROY whose write-back is not done leaves the
state as it is (log 94). -/
theorem tensorCommandsComplete : Obligations.TensorCommandsComplete := by
  intro s id o
  refine ⟨fun home u bases hs hhome hl hr hb => ?_, fun h t hi => ⟨?_, fun hs hr => exec_tensorInfo hs hi hr,
    fun _ _ _ hs hh hreg hoff hw hbind hb => exec_tensorWrite hs hh hi hreg hoff hw hbind hb,
    fun _ _ _ _ hs hreg hr hoff hbind => exec_tensorRead hs hi hreg hr hoff hbind rfl rfl,
    fun _ _ _ hs hstats hr hfirst hcount hbind => exec_qstats hs hi hstats hr hfirst hcount hbind rfl rfl,
    fun _ _ _ hs hh hdst hfit hw hbind => exec_tensorCopy hs hh hi hdst hfit hw hbind rfl rfl,
    fun _ hs hh hw => exec_tensorRepair_buffer hs hh hi hw rfl,
    fun _ _ _ hnull hs hh hsrc hfit hw hbind => exec_tensorRepair_source hnull hs hh hi hsrc hfit hw hbind rfl rfl⟩⟩
  · intro d v hns hf hc ha
    exact exec_tensorCreate hs hhome hl hr hb rfl hns hf hc ha
  · intro hs hh hb hm
    exact ⟨exec_tensorDestroy_waits hs hh hi hb hm rfl, exec_tensorDestroy_clean hs hh hi hb hm rfl⟩

end Sys2Proof.Machine
end

section
/-!
PROOFS. The family of memory tiers and tensors: FILL, what is busy and kept, and the commit of a command. What events, counts and checkers leave of the byte
store is said once for each operation, and so is what the stages of a start-up leave of semaphores and rings; the statements are assembled from these.
-/
namespace Sys2Proof.Machine

open Sys2Proof

/-! ### What a fold leaves alone -/

/-- What every step of a fold leaves as it is, the fold leaves as it is. -/
theorem foldl_leaves {α β γ : Type} (g : β → γ) {f : β → α → β} (hf : ∀ b x, g (f b x) = g b) (l : List α) (b : β) : g (l.foldl f b) = g b :=
  (List.foldl_hom g (fun b x => (hf b x).symm)).symm.trans (List.foldl_fixed l)

/-! ### What leaves the byte store as it is -/

section

variable (s : State)

@[simp] theorem mgmtPush_mem (w d : Nat) : (s.mgmtPush w d).mem = s.mem := by
  unfold State.mgmtPush; split <;> rfl

@[simp] theorem fireVector_mem (f : Fn) (v : Nat) : (s.fireVector f v).mem = s.mem := by
  unfold State.fireVector; split
  · rfl
  · split <;> rfl

@[simp] theorem sendIrq_mem (q : QId) : (s.sendIrq q).mem = s.mem := by
  unfold State.sendIrq; simp only; split
  · rfl
  · rw [fireVector_mem, setQueue_mem]

@[simp] theorem irqCheck_mem (q : QId) : (s.irqCheck q).mem = s.mem := by
  unfold State.irqCheck; split
  · exact sendIrq_mem s q
  · rfl

@[simp] theorem writeCpl_mem (q : QId) (c : Cpl) : (s.writeCpl q c).mem = s.mem := by
  simp only [State.writeCpl, irqCheck_mem, setQueue_mem]

/-- A completion entry goes to host memory. -/
@[simp] theorem post_mem (o : Outst) (c : Cpl) : (s.post o c).mem = s.mem := by
  unfold State.post; simp only; split
  · rfl
  · split
    · split <;> rfl
    · rw [writeCpl_mem]

@[simp] theorem deliver_mem (w d : Nat) (q : QId) : (s.deliver w d q).mem = s.mem := by
  unfold State.deliver; simp only; split
  · rfl
  · split
    · exact post_mem s _ _
    · split <;> rfl

@[simp] theorem raise_mem (code src detail : Nat) (sc : Scope) : (s.raise code src detail sc).mem = s.mem := by
  unfold State.raise; simp only
  rw [foldl_leaves State.mem (fun t q => deliver_mem t _ _ q)]
  split
  · exact mgmtPush_mem s _ _
  · rfl

@[simp] theorem integrity_mem (t c : Nat) : (s.integrity t c).mem = s.mem := by
  have hcount : ∀ v : State, v.mem = s.mem → (if c = 0 then v else v.raise 1 t c .device).mem = s.mem := by
    intro v hv; split
    · exact hv
    · rw [raise_mem, hv]
  unfold State.integrity; simp only
  apply hcount
  split
  · rfl
  · split
    · rfl
    · rw [raise_mem]

@[simp] theorem noteMarks_mem (ks : List (Store × Nat)) : (s.noteMarks ks).mem = s.mem :=
  foldl_leaves State.mem (fun t _ => integrity_mem t _ _) ks s

@[simp] theorem putMarks_mem (p c core reg : Nat) (marks : List Nat) : (s.putMarks p c core reg marks).mem = s.mem := by
  simp only [State.putMarks, noteMarks_mem, updCtx_mem]

/-! The die caches hold lines, not bytes (R163). -/

@[simp] theorem fillLine_mem (l : CLine) : (s.fillLine l).mem = s.mem := by
  unfold State.fillLine; simp only; split
  · rfl
  · split <;> rfl

@[simp] theorem touchLine_mem (line : Nat) (write alloc : Bool) : (s.touchLine line write alloc).mem = s.mem := by
  unfold State.touchLine; split
  · rfl
  · split
    · exact fillLine_mem s _
    · rfl

@[simp] theorem cacheRead_mem (addr n : Nat) (hint : Bool) : (s.cacheRead addr n hint).mem = s.mem := by
  unfold State.cacheRead; split
  · exact foldl_leaves State.mem (fun t _ => touchLine_mem t _ _ _) _ s
  · rfl

@[simp] theorem cacheWrite_mem (addr n : Nat) : (s.cacheWrite addr n).mem = s.mem := by
  unfold State.cacheWrite; split
  · exact foldl_leaves State.mem (fun t _ => touchLine_mem t _ _ _) _ s
  · rfl

@[simp] theorem pinLine_mem (line : Nat) : (s.pinLine line).mem = s.mem := by
  unfold State.pinLine; simp only; split <;> exact touchLine_mem s _ _ _

@[simp] theorem refetch_mem (line : Nat) : (s.refetch line).mem = s.mem := by
  unfold State.refetch; split
  · rfl
  · simp only; split
    · rw [pinLine_mem]; rfl
    · rw [touchLine_mem]; rfl

/-! What a checker finds changes marks, counts and remap tables (R218, R229 to R232). -/

theorem faultDue_mem (u : Nat) : (s.faultDue u).mem = s.mem := rfl

theorem retireUnit_mem (u : Nat) : (s.retireUnit u).mem = s.mem := rfl

@[simp] theorem remap_mem (st : Store) (addr : Nat) : (s.remap st addr).mem = s.mem := by
  unfold State.remap; simp only; split
  · rw [integrity_mem]; split
    · exact refetch_mem _ _
    · rfl
  · cases st with
    | nearMemory =>
      simp only; split
      · rfl
      · rw [integrity_mem]
    | _ => simp only [faultDue_mem, retireUnit_mem, integrity_mem]

@[simp] theorem track_mem (st : Store) (unit : Nat) : (s.track st unit).mem = s.mem := by
  unfold State.track; split
  · split
    · exact remap_mem s _ _
    · rfl
  · rfl

@[simp] theorem correctable_mem (st : Store) (addr : Nat) : (s.correctable st addr).mem = s.mem := by
  unfold State.correctable; simp only; split
  · rfl
  · split
    · exact integrity_mem _ _ _
    · rw [track_mem, integrity_mem]

@[simp] theorem marked_mem (st : Store) (addr : Nat) : (s.marked st addr).mem = s.mem := by
  unfold State.marked; simp only; split
  · rw [integrity_mem]
  · rfl

@[simp] theorem findAll_mem (addr n : Nat) : (s.findAll addr n).mem = s.mem := by
  have hweak : ∀ (l : List (Store × Nat)) (t : State), (l.foldl (fun t k => t.correctable k.1 k.2) t).mem = t.mem :=
    foldl_leaves State.mem fun t k => correctable_mem t k.1 k.2
  have hbad : ∀ (l : List (Store × Nat)) (t : State), (l.foldl (fun t k => t.marked k.1 k.2) t).mem = t.mem :=
    foldl_leaves State.mem fun t k => marked_mem t k.1 k.2
  simp only [State.findAll, hweak, hbad, cacheRead_mem]

/-- Saving a region and noting it as dirty leaves the bytes of the tidepool as they are (R185, R186). -/
@[simp] theorem tpTouch_mem (r : Run) (flat off n : Nat) : (s.tpTouch r flat off n).mem = s.mem := by
  simp only [State.tpTouch]
  refine foldl_leaves State.mem (fun t reg => ?_) _ s
  have hsaved : ∀ (dirty : Bool) (u : State), u.mem = t.mem → (if dirty then u else t).mem = t.mem := by
    intro dirty u hu
    cases dirty
    · rfl
    · exact hu
  simp only
  split
  · rw [updRun_mem]
    exact hsaved _ _ (by rw [putMarks_mem, updCtx_mem, findAll_mem])
  · exact hsaved _ _ (by rw [putMarks_mem, updCtx_mem, findAll_mem])

/-- A write outside the host window puts its bytes at their address. -/
theorem devWr_mem {p addr : Nat} {bs : Bytes} (h : inHostWindow addr = false) : (s.devWr p addr bs).mem = s.mem.writeN 0 addr bs := by
  simp only [State.devWr, h, Bool.false_eq_true, if_false, noteMarks_mem, cacheWrite_mem, wr_mem]

end

/-! ### FILL -/

/-- Tidepool addresses lie below the host window, for every core and offset that a FILL can name (R149). -/
theorem inHostWindow_tidepool {core off : Nat} (hc : core < 2 ^ 8) (ho : off < 2 ^ 32) : inHostWindow (tpBase core + off) = false := by
  have hlow : tpBase core + off < hostWindow := by simp only [tpBase, hostWindow]; omega
  simp only [inHostWindow, Bool.and_eq_false_imp, decide_eq_true_eq]
  omega

theorem fillBytes_length (width n value : Nat) : (fillBytes width n value).length = n := by simp [fillBytes]

theorem fillBytes_getD {width n value i : Nat} (h : i < n) : (fillBytes width n value).getD i 0 = BitVec.ofNat 8 (value / 256 ^ (i % width)) := by
  simp [fillBytes, h]

section

variable {s : State} {core width offset length value : Nat} {r : Run} {c : CoreRun}

/-- The state that a FILL leaves (R155, R185). -/
def State.filled (s : State) (core width offset length value : Nat) (r : Run) (c : CoreRun) : State :=
  ((s.issued core (.fill width offset length value) r c).tpTouch r core offset length).devWr r.part (tpBase core + offset) (fillBytes width length value)

theorem exec_fill (h : s.nextStep core (.fill width offset length value) r c = true) :
    exec (.fill core width offset length value) s = .next (s.filled core width offset length value r c) :=
  congrArg Host.Outcome.next (issue_of h _)

/-- A FILL writes its bytes at its range and nothing else. -/
theorem filled_mem (hc : core < 2 ^ 8) (ho : offset < 2 ^ 32) :
    (s.filled core width offset length value r c).mem = s.mem.writeN 0 (tpBase core + offset) (fillBytes width length value) := by
  rw [State.filled, devWr_mem _ (inHostWindow_tidepool hc ho), tpTouch_mem, (issued_sameButProgress s core _ r c).mem]

end

/-- The bank that most of a range falls in sets the cycles of a FILL: they are the greatest of the banks' shares, or 0 (R155). -/
theorem fillCycles_greatest (off n : Nat) :
    fillCycles off n ∈ 0 :: (List.range 16).map (fun b => ceilDiv (bankShare off n b) 64) ∧
      ∀ x ∈ 0 :: (List.range 16).map (fun b => ceilDiv (bankShare off n b) 64), x ≤ fillCycles off n :=
  List.max?_eq_some_iff.1 List.max?_cons'

/-- Settles O53: what a FILL leaves of the byte store is one write (`filled_mem`), which `Mem.read_writeN` reads inside its range and outside. -/
theorem fillRepeatsConstant : Obligations.FillRepeatsConstant := by
  intro s core width offset length value r c hmem hwf _ hnext
  obtain ⟨hcore, hoffset⟩ : core < 2 ^ 8 ∧ offset < 2 ^ 32 := by
    simp only [Instr.wf, fits, Bool.and_eq_true, decide_eq_true_eq] at hwf
    exact ⟨hwf.1.1.1.1, hwf.1.1.2⟩
  have hread : ∀ a, (s.filled core width offset length value r c).rd a 1 =
      [if tpBase core + offset ≤ a ∧ a < tpBase core + offset + length then (fillBytes width length value).getD (a - (tpBase core + offset)) 0
        else s.mem.read 0 a] := by
    intro a
    simp only [State.rd, filled_mem hcore hoffset, Mem.readN, Mem.read_writeN 0 _ _ _ _ hmem, fillBytes_length]
  refine ⟨⟨_, exec_fill hnext, fun i hi => ?_, fun a ha => ?_⟩, fillCycles offset length, rfl, ?_⟩
  · rw [hread, if_pos (by omega), Nat.add_sub_cancel_left, fillBytes_getD hi]
  · rw [hread, if_neg (by omega)]; rfl
  · obtain ⟨hmost, hbound⟩ := fillCycles_greatest offset length
    exact ⟨fun b hb => hbound _ (List.mem_cons_of_mem _ (List.mem_map.2 ⟨b, List.mem_range.2 hb, rfl⟩)), by simpa using hmost⟩

/-! ### What is busy, and what goes -/

/-- The completion of a command, with those of the commands that depended on it, leaves alone what `State.Keeps` names. -/
theorem complete_keeps (s : State) (o : Outst) (st : Status) (det : Nat) (bs : Bytes) : s.Keeps (s.complete o st det bs) := by
  have hsettle : ∀ (n : Nat) (t : State), t.Keeps (State.settle n t) := by
    intro n
    induction n with
    | zero => exact State.Keeps.refl
    | succ n ih =>
      intro t
      unfold State.settle
      split
      · exact .refl t
      · exact (finish1_keeps t _ _ _ _).trans (ih _)
  exact (finish1_keeps s o st det bs).trans (hsettle 32 _)

section

variable {s : State} {id : CmdId} {c : Instr} {o : Outst} {body : State → Outst → Chk (State × Done)} {h : Nat}

/-- A command that a check refuses, before it has staged anything, ends with the status of the check and leaves the rest as it was. -/
theorem startCmd_fails {st : Status} {det : Nat} (hs : s.startable id c = some o) (hb : body s o = failWith st det) :
    s.startCmd id c body = s.complete o st det [] :=
  startCmd_error hs hb

/-- The tensor of a handle of the issuing partition (R169). -/
theorem tensorIdent_of {t : Tensor} (ht : s.tensor? h = some t) (hp : t.desc.part = ioPart o) : s.tensorIdent o h = .ok t := by
  simp only [State.tensorIdent, ht, hp, if_true]

/-- The semaphore of a handle of the issuing partition (R169). -/
theorem semIdent_of {p : Nat} {x : Sem} (hx : s.sems.find? (fun y => y.handle = h && y.part = p) = some x) : s.semIdent p h = .ok x := by
  simp only [State.semIdent, hx]

/-- The formed ring of a handle of the issuing partition (R446). -/
theorem ringIdent_of {r : Ring} (hr : s.ring? h = some r) (hp : r.part = ioPart o) (hf : r.forming = none) : s.ringIdent o h = .ok r := by
  simp only [State.ringIdent, hr, hp, hf, Option.isNone_none, decide_true, Bool.and_self, if_true]

/-- R184: a bound tensor is not evicted. -/
theorem exec_tensorEvict_bound {t : Tensor} (hs : s.startable id (.tensorEvict id h) = some o) (hh : o.hold = false) (hi : s.tensorIdent o h = .ok t)
    (hb : s.isBound h = true) : exec (.tensorEvict id h) s = .next (s.complete o .resourceBusy 0 []) :=
  congrArg Host.Outcome.next (startCmd_fails hs (by
    simp only [noHold_of hh, hi, hb, Bool.not_true, Bool.false_and, need_false, bind_ok, bind_error, failWith]))

section

variable {x : Sem}

/-- R411: a semaphore that has a holder or a waiter is kept. -/
theorem exec_semDestroy_busy (hs : s.startable id (.semDestroy id h) = some o) (hh : o.hold = false) (hi : s.semIdent (ioPart o) h = .ok x)
    (hb : (x.holder.isSome || !x.waiters.isEmpty) = true) : exec (.semDestroy id h) s = .next (s.complete o .resourceBusy 0 []) := by
  have hidle : (x.holder.isNone && x.waiters.isEmpty) = false := by
    rw [← Bool.not_eq_true', Bool.not_and, ← Option.not_isSome, Bool.not_not]; exact hb
  exact congrArg Host.Outcome.next (startCmd_fails hs (by
    simp only [noHold_of hh, hi, hidle, need_false, bind_ok, bind_error, failWith]))

/-- R411: an idle semaphore goes. -/
theorem exec_semDestroy_idle (hs : s.startable id (.semDestroy id h) = some o) (hh : o.hold = false) (hi : s.semIdent (ioPart o) h = .ok x)
    (hb : (x.holder.isSome || !x.waiters.isEmpty) = false) :
    exec (.semDestroy id h) s = .next (({ s with sems := s.sems.filter (fun y => y.handle ≠ h) } : State).complete o .ok 0 []) := by
  have hidle : (x.holder.isNone && x.waiters.isEmpty) = true := by
    rw [← Bool.not_eq_false', Bool.not_and, ← Option.not_isSome, Bool.not_not]; exact hb
  exact congrArg Host.Outcome.next (startCmd_completes hs hh (by simp only [noHold_of hh, hi, hidle, need_true, bind_ok, okDone]))

end

section

variable {r : Ring}

/-- R450: a ring that a queued or running command names is kept. -/
theorem exec_ringDissolve_named (hs : s.startable id (.ringDissolve id h) = some o) (hh : o.hold = false) (hi : s.ringIdent o h = .ok r)
    (hn : s.ringNamed id r.handle = true) : exec (.ringDissolve id h) s = .next (s.complete o .resourceBusy 0 []) :=
  congrArg Host.Outcome.next (startCmd_fails hs (by
    simp only [noHold_of hh, hi, hn, Bool.not_true, need_false, bind_ok, bind_error, failWith]))

/-- R450: a ring that no command names goes. -/
theorem exec_ringDissolve_unnamed (hs : s.startable id (.ringDissolve id h) = some o) (hh : o.hold = false) (hi : s.ringIdent o h = .ok r)
    (hn : s.ringNamed id r.handle = false) :
    exec (.ringDissolve id h) s =
      .next (({ s with fabric := { s.fabric with rings := s.fabric.rings.filter (fun x => x.handle ≠ h) } } : State).complete o .ok 0 []) :=
  congrArg Host.Outcome.next (startCmd_completes hs hh (by simp only [noHold_of hh, hi, hn, Bool.not_false, need_true, bind_ok, okDone]))

end

end

/-! ### A start-up leaves neither semaphores nor rings -/

/-- The semaphores and the rings of a state. -/
def State.semsRings (s : State) : List Sem × List Ring := (s.sems, s.fabric.rings)

theorem State.Keeps.semsRings {s t : State} (h : s.Keeps t) : t.semsRings = s.semsRings := by
  simp only [State.semsRings, h.sems, h.fabric]

section

variable (s : State)

@[simp] theorem raise_semsRings (code src detail : Nat) (sc : Scope) : (s.raise code src detail sc).semsRings = s.semsRings :=
  (raise_keeps s code src detail sc).semsRings

@[simp] theorem integrity_semsRings (t c : Nat) : (s.integrity t c).semsRings = s.semsRings := by
  obtain ⟨e, hkeep⟩ := integrity_aside s t c
  exact hkeep.semsRings

@[simp] theorem recordChecks_semsRings : s.recordChecks.semsRings = s.semsRings :=
  foldl_leaves State.semsRings (fun t _ => integrity_semsRings t _ _) _ s

@[simp] theorem loadRecord_semsRings : s.loadRecord.semsRings = s.semsRings := by
  unfold State.loadRecord; simp only; split
  · rw [raise_semsRings]; rfl
  · rfl

@[simp] theorem selectRomx_semsRings : s.selectRomx.semsRings = s.semsRings := rfl

@[simp] theorem eraseSecrets_semsRings : s.eraseSecrets.semsRings = s.semsRings := rfl

@[simp] theorem startFault_semsRings (unit : Nat) : (s.startFault unit).semsRings = s.semsRings := by
  rw [State.startFault, State.unitEvent, raise_semsRings]; rfl

@[simp] theorem startDies_semsRings : s.startDies.semsRings = s.semsRings := by
  have hlaser : ∀ (l : List Nat) (t : State), (l.foldl State.driveLaser t).semsRings = t.semsRings :=
    foldl_leaves State.semsRings fun _ _ => rfl
  have hports : ∀ (l : List Nat) (t : State), (l.foldl (fun t k => t.updLport k (fun x => { x with state := 1 })) t).semsRings = t.semsRings :=
    foldl_leaves State.semsRings fun _ _ => rfl
  exact (hports _ _).trans (hlaser _ _)

theorem volatileReset_semsRings : s.volatileReset.semsRings = ([], []) := rfl

/-- The volatile reset drops them, and no later stage of a start-up brings any, on whichever way it ends (R574, R598, R615). -/
theorem startUp_semsRings : s.startUp.semsRings = ([], []) := by
  unfold State.startUp
  extract_lets _ _ addressed erased checked _ admin
  have herased : erased.semsRings = ([], []) := by
    refine Eq.trans ?_ (volatileReset_semsRings s)
    show (if addressed.cfl.lowering.isSome then addressed.eraseSecrets else addressed).semsRings = _
    split <;> rfl
  have hchecked : checked.semsRings = ([], []) := by
    rw [recordChecks_semsRings, selectRomx_semsRings, loadRecord_semsRings, herased]
  have hadmin : admin.semsRings = ([], []) := hchecked
  split
  · exact hchecked
  split
  · rw [startFault_semsRings, hchecked]
  split
  · rw [startFault_semsRings, hchecked]
  split
  · exact hadmin
  · rw [startDies_semsRings, hadmin]

end

/-- Settles O55: each refusal and each removal is a lemma of its own, what a completion keeps is said by `complete_keeps`, and what a start-up leaves by
`startUp_semsRings`. -/
theorem busyObjectsAreKept : Obligations.BusyObjectsAreKept := by
  intro s id o hh
  obtain ⟨hsems, hrings⟩ := Prod.mk.inj (startUp_semsRings s)
  refine ⟨fun h t hs ht hp hb => exec_tensorEvict_bound hs hh (tensorIdent_of ht hp) hb, fun h x hs hx => ?_, fun h r hs hr hp hf => ?_, hsems, hrings⟩
  · have hi := semIdent_of hx
    exact ⟨exec_semDestroy_busy hs hh hi, fun hb => ⟨_, exec_semDestroy_idle hs hh hi hb, (complete_keeps _ o _ _ _).sems⟩⟩
  · have hi := ringIdent_of hr hp hf
    refine ⟨exec_ringDissolve_named hs hh hi, fun hn => ⟨_, exec_ringDissolve_unnamed hs hh hi hn, fun x hx => ?_⟩⟩
    rw [(complete_keeps _ o _ _ _).fabric] at hx
    simpa using (List.mem_filter.1 hx).2

/-! ### The commit of a command -/

section

variable {s u : State} {id : CmdId} {o : Outst}

/-- COMMAND_COMMIT of a running command goes to the commit of its kind (R206). -/
theorem exec_commandCommit_plain (ho : s.outst? id = some o) (hp : o.phase = .running) (hc : plainCommit o.cmd = true) :
    exec (.commandCommit id) s = .next (s.commitPlain id) := by
  show execCommandCommit id s = _
  simp only [plainCommit] at hc
  split at hc
  case h_8 => cases hc
  all_goals
    rename_i hcmd
    simp only [execCommandCommit, ho, hp, hcmd, commits, decide_true, Bool.and_self, if_true]

theorem exec_commandCommit_run {p : Nat} {seed : W64} {r : Run} (ho : s.outst? id = some o) (hp : o.phase = .running)
    (hc : o.cmd = .progRun id p seed) (hr : s.run? id = some r) : exec (.commandCommit id) s = .next (s.commitRun r) := by
  show execCommandCommit id s = _
  simp only [execCommandCommit, ho, hp, hc, hr, commits, decide_true, Bool.and_self, if_true]

theorem exec_commandCommit_indexOp {ns : Nat} (ho : s.outst? id = some o) (hp : o.phase = .running)
    (hc : o.cmd = .idxInsert id ns ∨ ∃ node, o.cmd = .idxDelete id ns node) : exec (.commandCommit id) s = .next (s.commitIndexOp id) := by
  show execCommandCommit id s = _
  rcases hc with hc | ⟨node, hc⟩
  · simp only [execCommandCommit, ho, hp, hc, commits, decide_true, Bool.and_self, if_true]
  · simp only [execCommandCommit, ho, hp, hc, commits, decide_true, Bool.and_self, if_true]

theorem exec_commandCommit_accord {acc first : Nat} {seed : W64} (ho : s.outst? id = some o) (hp : o.phase = .running)
    (hc : o.cmd = .accordRun id acc first seed) : exec (.commandCommit id) s = .next (s.commitAccord id) := by
  show execCommandCommit id s = _
  simp only [execCommandCommit, ho, hp, hc, commits, decide_true, Bool.and_self, if_true]

/-- What a plain command publishes becomes visible at its commit point, and it completes (R207, R208). -/
theorem commitPlain_of (hu : s.prepareCommit id = .ok (u, true)) :
    s.commitPlain id = (((u.commitPoint id).1).completeId id .ok 0 []).settleWaits := by
  simp only [State.commitPlain, hu]

/-- A command whose matrix steps ran with K = 0 some times tells how many (R108). -/
theorem emptyStatus_eq (n : Nat) : emptyStatus n = (if n = 0 then .ok else .okEmptyReduction, n) := by
  unfold emptyStatus
  split
  case isTrue h => rw [h]
  case isFalse => rfl

/-- A run that has ended closes at its commit point, leaves what it has raised, and completes with its empty steps (R108, R206). -/
theorem commitRun_of {r : Run} (he : r.ended = true) (hu : s.prepareCommit r.id = .ok (u, true)) :
    s.commitRun r =
      ((((((u.commitPoint r.id).1.closeRun r).applyEvents r.id r.part r.ctx r.flags r.saturations r.nanConv r.rescales).syncAfter r).completeId r.id
        (if r.emptySteps = 0 then .ok else .okEmptyReduction) r.emptySteps []).settleWaits) := by
  simp only [State.commitRun, he, hu, emptyStatus_eq, Bool.not_true, Bool.false_eq_true, if_false]

/-- An insert or delete that the directory allows is published at its commit point and completes with its result (R266, R267). -/
theorem commitIndexOp_of {ns : Nat} {e : DEntry} {rest : List (Nat × DEntry)} (hopen : s.openEntries id = (ns, e) :: rest)
    (hv : (((s.readDirectory id).index? ns).map (fun x => x.judge e)).getD .notFound = .ok)
    (hu : (s.readDirectory id).prepareCommit id = .ok (u, true)) :
    s.commitIndexOp id =
      (((u.commitPoint id).1).postResult id .ok 0 (if e.isInsert then leBytes 5 e.slot ++ zeros 3 else [])).settleWaits := by
  simp only [State.commitIndexOp, hopen, hv, hu, ne_eq, not_true_eq_false, if_false]

/-- The commit of an INGEST or RETRIEVE invocation of which no item is refused (R293, R295). -/
theorem commitInvocation_of {i : Invocation} {a : Accord} (hd : (s.readDirectory i.id).directoryBad i.id = false)
    (hu : (s.readDirectory i.id).prepareCommit i.id = .ok (u, true)) (hnone : (u.invCommitPoint i.id i.texts).2 = []) :
    s.commitInvocation i a =
      (let w := (u.invCommitPoint i.id i.texts).1.applyEvents i.id a.part a.ctx i.flags i.saturations i.nanConv i.rescales
       let x := w.postResult i.id (if i.emptySteps = 0 then .ok else .okEmptyReduction) i.emptySteps (if a.kind = 1 then i.outBytes a else i.output)
       ({ x with invocations := w.invocations.filter (fun y => y.id ≠ i.id) } : State).settleWaits) := by
  have hstatus : i.itemStatus.zipIdx.map (fun (x : Status × Nat) => if ([] : List Nat).contains x.2 then Status.idInUse else x.1) = i.itemStatus := by
    simp
  simp only [State.commitInvocation, hd, hu, hnone, List.filterMap_nil, hstatus, List.isEmpty_nil, emptyStatus_eq, Bool.false_eq_true, if_false, if_true]

/-- An invocation that has ended its last stage commits (R293). -/
theorem commitAccord_of {i : Invocation} {a : Accord} (hi : (s.endStage id).inv? id = some i) (ha : (s.endStage id).accordOf? i.accord = some a)
    (hk : a.kind ≠ 2) (hb : i.busy = false) (hs : i.stage = a.stages.length) : s.commitAccord id = (s.endStage id).commitInvocation i a := by
  simp only [State.commitAccord, hi, ha, hk, hb, hs, Bool.not_false, decide_true, Bool.and_self, if_false, if_true]

end

/-- Settles O16, kind by kind: COMMAND_COMMIT goes to the commit of the command's kind, which passes its commit point and completes it. -/
theorem commandCommitCompletes : Obligations.CommandCommitCompletes := by
  intro s id o u ho hp
  refine ⟨fun hc hu => ?_, ?_, ?_, ?_⟩
  · rw [exec_commandCommit_plain ho hp hc, commitPlain_of hu]
  · intro p seed r hc hr hid he hu
    subst hid
    rw [exec_commandCommit_run ho hp hc hr, commitRun_of he hu]
  · intro ns e rest hopen v hv hu
    refine ⟨fun ⟨hc, he⟩ => ?_, fun node ⟨hc, he⟩ => ?_⟩
    · rw [exec_commandCommit_indexOp ho hp (.inl hc), commitIndexOp_of hopen hv hu, he, if_pos rfl]
    · rw [exec_commandCommit_indexOp ho hp (.inr ⟨node, hc⟩), commitIndexOp_of hopen hv hu, he]
      rfl
  · intro acc first seed i a hc v hi hid ha hk hb hs hd hu c hnone
    subst hid
    rw [exec_commandCommit_accord ho hp hc, commitAccord_of hi ha hk hb hs, commitInvocation_of hd hu hnone]

end Sys2Proof.Machine
end

section
/-!
PROOFS. The family of programs and the sequencer: step words, program commands and scheduling. How a field is read from a record that is laid out piece by piece
is said once, and what each packed field of a step word reads as; each case of a command or event has one lemma.
-/
namespace Sys2Proof.Machine

open Sys2Proof

/-! ### Little-endian fields of a record that is laid out piece by piece (R6) -/

@[simp] theorem leBytes_length (n v : Nat) : (leBytes n v).length = n := by
  induction n generalizing v with
  | zero => rfl
  | succ n ih => rw [leBytes, List.length_cons, ih]

@[simp] theorem zeros_length (n : Nat) : (zeros n).length = n := List.length_replicate

/-- The bytes of a number spell it again where it fits them. -/
theorem ofLe_leBytes {n v : Nat} (h : v < 256 ^ n) : ofLe (leBytes n v) = v := by
  induction n generalizing v with
  | zero => rw [Nat.pow_zero, Nat.lt_one_iff] at h; exact h.symm
  | succ n ih =>
    have hrest : v / 256 < 256 ^ n := Nat.div_lt_of_lt_mul (by rwa [← Nat.pow_succ'])
    rw [leBytes, ofLe, ih hrest, BitVec.toNat_ofNat]
    omega

/-- A field lies at the front of the bytes that spell it, whatever follows. -/
@[simp] theorem field_leBytes {n v : Nat} (rest : Bytes) (h : v < 256 ^ n) : field (leBytes n v ++ rest) 0 n = v := by
  have hfront : (leBytes n v ++ rest).take n = leBytes n v := List.take_left' (leBytes_length n v)
  simp only [field, slice, List.drop_zero, hfront, leBytes_length, Nat.sub_self, List.replicate_zero, List.append_nil, ofLe_leBytes h]

/-- A field past the first piece of a record lies in the rest. -/
theorem field_append {piece : Bytes} {k off : Nat} (rest : Bytes) (n : Nat) (hk : piece.length = k) (ho : k ≤ off) :
    field (piece ++ rest) off n = field rest (off - k) n := by
  simp only [field, slice, List.drop_append, hk, List.drop_eq_nil_of_le (hk.trans_le ho), List.nil_append]

@[simp] theorem field_past_leBytes {k off : Nat} (v : Nat) (rest : Bytes) (n : Nat) (ho : k ≤ off) :
    field (leBytes k v ++ rest) off n = field rest (off - k) n := field_append rest n (leBytes_length k v) ho

@[simp] theorem field_past_zeros {k off : Nat} (rest : Bytes) (n : Nat) (ho : k ≤ off) :
    field (zeros k ++ rest) off n = field rest (off - k) n := field_append rest n (zeros_length k) ho

/-- A field is the whole of the bytes that spell it. -/
@[simp] theorem field_leBytes_whole {n v : Nat} (h : v < 256 ^ n) : field (leBytes n v) 0 n = v := by
  simpa using field_leBytes [] h

/-! ### Bits of a packed byte -/

theorem b1_le_one (b : Bool) : b1 b ≤ 1 := by cases b <;> decide

/-- A number of `n` bits is its own bits. -/
@[simp] theorem bits_of_lt {v n : Nat} (h : v < 2 ^ n) : bits v 0 n = v := by
  rw [bits, Nat.pow_zero, Nat.div_one, Nat.mod_eq_of_lt h]

/-- A bit that holds a flag reads as the flag. -/
theorem bitAt_of_b1 {v i : Nat} {b : Bool} (h : v / 2 ^ i % 2 = b1 b) : bitAt v i = b := by
  rw [bitAt, Nat.testBit_eq_decide_div_mod_eq, h]
  cases b <;> rfl

/-! ### The packed fields of step words, byte by byte of the *Step word layouts* table (R197) -/

/-- Byte 2 of a matrix step. -/
theorem matByte2_read {engine shape : Nat} (he : engine < 4) (hs : shape < 8) (acc fin half : Bool) :
    let c := engine + 4 * shape + 32 * b1 acc + 64 * b1 fin + 128 * b1 half
    c < 256 ∧ bits c 0 2 = engine ∧ bits c 2 3 = shape ∧ bitAt c 5 = acc ∧ bitAt c 6 = fin ∧ bitAt c 7 = half := by
  have hacc := b1_le_one acc
  have hfin := b1_le_one fin
  have hhalf := b1_le_one half
  unfold bits
  refine ⟨?_, ?_, ?_, bitAt_of_b1 ?_, bitAt_of_b1 ?_, bitAt_of_b1 ?_⟩ <;> omega

/-- Byte 3 of a matrix step. -/
theorem matByte3_read {round act : Nat} (hr : round < 8) (ha : act < 8) (ovf : Bool) :
    let d := round + 8 * act + 64 * b1 ovf
    d < 256 ∧ bits d 0 3 = round ∧ bits d 3 3 = act ∧ bitAt d 6 = ovf := by
  have hovf := b1_le_one ovf
  unfold bits
  refine ⟨?_, ?_, ?_, bitAt_of_b1 ?_⟩ <;> omega

/-- Byte 3 of a VEC step. -/
theorem vecByte3_read {round mode : Nat} (hr : round < 8) (hm : mode < 2) (conf deq ovf asc : Bool) :
    let d := round + 8 * b1 conf + 16 * b1 deq + 32 * b1 ovf + 64 * b1 asc + 128 * mode
    d < 256 ∧ bits d 0 3 = round ∧ bitAt d 3 = conf ∧ bitAt d 4 = deq ∧ bitAt d 5 = ovf ∧ bitAt d 6 = asc ∧ bits d 7 1 = mode := by
  have hconf := b1_le_one conf
  have hdeq := b1_le_one deq
  have hovf := b1_le_one ovf
  have hasc := b1_le_one asc
  unfold bits
  refine ⟨?_, ?_, bitAt_of_b1 ?_, bitAt_of_b1 ?_, bitAt_of_b1 ?_, bitAt_of_b1 ?_, ?_⟩ <;> omega

/-- An operand of a VEC step with its use in bits 13:12. -/
theorem vecOperand_read {index use : Nat} (hi : index < 4096) (hu : use < 4) :
    let w := index + 4096 * use
    w < 65536 ∧ bits w 0 12 = index ∧ bits w 12 2 = use := by
  unfold bits
  refine ⟨?_, ?_, ?_⟩ <;> omega

/-- Byte 2 of a QSCAN or QCONVERT. -/
theorem quantByte2_read {axis seg : Nat} (ha : axis < 4) (hs : seg < 4) (asym merge : Bool) :
    let c := b1 asym + 2 * b1 merge + 4 * axis + 16 * seg
    c < 256 ∧ bitAt c 0 = asym ∧ bitAt c 1 = merge ∧ bits c 2 2 = axis ∧ bits c 4 2 = seg := by
  have hasym := b1_le_one asym
  have hmerge := b1_le_one merge
  unfold bits
  refine ⟨?_, bitAt_of_b1 ?_, bitAt_of_b1 ?_, ?_, ?_⟩ <;> omega

/-- Byte 2 of a LOAD_WEIGHTS. -/
theorem loadByte2_read {shape : Nat} (hs : shape < 8) (half : Bool) :
    let c := shape + 8 * b1 half
    c < 256 ∧ bits c 0 3 = shape ∧ bitAt c 3 = half := by
  have hhalf := b1_le_one half
  unfold bits
  refine ⟨?_, ?_, bitAt_of_b1 ?_⟩ <;> omega

/-- A byte or bit field that holds a flag alone. -/
theorem flagByte_read (b : Bool) : b1 b < 256 ∧ bitAt (b1 b) 0 = b := by cases b <;> decide

/-! ### The fields of each kind are read back -/

section

variable (kind sync : Nat)

theorem matArgsOf_matBytes {a : MatArgs} (h : a.wf = true) : matArgsOf (leBytes 1 kind ++ leBytes 1 sync ++ matBytes a) = a := by
  simp only [MatArgs.wf, fits, Bool.and_eq_true, decide_eq_true_eq, and_assoc] at h
  obtain ⟨hengine, hshape, hround, hact, ha, hw, hout, hbias, hm, hn, hk, haccBase, haccLog2W, houtFormat, hsregBase, hkOff, hnOff, hmOff⟩ := h
  obtain ⟨hc, hc0, hc2, hc5, hc6, hc7⟩ := matByte2_read hengine hshape a.accumulate a.final a.halfB
  obtain ⟨hd, hd0, hd3, hd6⟩ := matByte3_read hround hact a.ieeeOvf
  simp (disch := omega) [matArgsOf, matBytes, hc0, hc2, hc5, hc6, hc7, hd0, hd3, hd6]

theorem vecArgsOf_vecBytes {a : VecArgs} (h : a.wf = true) : vecArgsOf (leBytes 1 kind ++ leBytes 1 sync ++ vecBytes a) = a := by
  simp only [VecArgs.wf, fits, Bool.and_eq_true, decide_eq_true_eq, and_assoc] at h
  obtain ⟨hvop, hround, hmode, ha, hb, hbUse, hc, hcUse, hout, houtFormat, hpred, htopkK, hrowOff, hrows⟩ := h
  obtain ⟨hd, hd0, hd3, hd4, hd5, hd6, hd7⟩ := vecByte3_read hround hmode a.conforming a.dequant a.ieeeOvf a.ascending
  obtain ⟨hbw, hb0, hb12⟩ := vecOperand_read hb hbUse
  obtain ⟨hcw, hc0, hc12⟩ := vecOperand_read hc hcUse
  have hparam : a.param.toNat < 2 ^ 32 := a.param.isLt
  simp (disch := omega) [vecArgsOf, vecBytes, hd0, hd3, hd4, hd5, hd6, hd7, hb0, hb12, hc0, hc12]

/-- SEG, ROUND and OUT fit their widths, and are what a reader that leaves them out for a QSCAN has for them. -/
theorem quantRest_of_wf {a : QuantArgs} {convert : Bool} (h : a.wf convert = true) :
    (a.seg < 4 ∧ (if convert then a.seg else 0) = a.seg) ∧ (a.round < 8 ∧ (if convert then a.round else 0) = a.round) ∧
      (a.out < 4096 ∧ (if convert then a.out else 0) = a.out) := by
  cases convert with
  | true =>
    simp only [QuantArgs.wf, fits, if_true, Bool.and_eq_true, decide_eq_true_eq, and_true] at h ⊢
    omega
  | false =>
    simp only [QuantArgs.wf, Bool.false_eq_true, if_false, Bool.and_eq_true, beq_iff_eq] at h ⊢
    omega

theorem quantArgsOf_quantBytes {a : QuantArgs} {convert : Bool} (h : a.wf convert = true) :
    quantArgsOf (leBytes 1 kind ++ leBytes 1 sync ++ quantBytes a) convert = a := by
  obtain ⟨⟨hseg, hseg'⟩, ⟨hround, hround'⟩, ⟨hout, hout'⟩⟩ := quantRest_of_wf h
  simp only [QuantArgs.wf, fits, Bool.and_eq_true, decide_eq_true_eq, and_assoc] at h
  obtain ⟨haxis, hsrc, hgroup, htarget, -⟩ := h
  obtain ⟨hc, hc0, hc1, hc2, hc4⟩ := quantByte2_read haxis hseg a.asym a.merge
  simp (disch := omega) [quantArgsOf, quantBytes, hc0, hc1, hc2, hc4, hseg', hround', hout']

end

/-- Every step takes 32 bytes. -/
theorem stepBytes_length (w : StepWord) : (stepBytes w).length = 32 := by
  cases hk : w.kind <;>
    simp only [stepBytes, hk, kindBytes, matBytes, vecBytes, quantBytes, List.length_append, leBytes_length, zeros_length, Nat.reduceAdd]

/-- SYNC is bit 0 of byte 1. -/
theorem stepBytes_sync (w : StepWord) : bitAt (field (stepBytes w) 1 1) 0 = w.sync := by
  obtain ⟨hsync, hbit⟩ := flagByte_read w.sync
  simp (disch := omega) [stepBytes, hbit]

/-- KIND is byte 0. -/
theorem stepBytes_kind (w : StepWord) : field (stepBytes w) 0 1 = kindCode w.kind := by
  have hcode : kindCode w.kind < 256 := by cases w.kind <;> simp [kindCode]
  simp (disch := omega) [stepBytes]

/-- A step word's KIND and fields are read as the step they spell, kind by kind. -/
theorem stepKindOf_stepBytes {w : StepWord} (h : w.kind.wf = true) : stepKindOf (stepBytes w) = some w.kind := by
  rw [stepKindOf, stepBytes_kind]
  obtain ⟨kind, sync⟩ := w
  cases kind with
  | loadWeights a =>
    simp only [StepKind.wf, LoadArgs.wf, fits, Bool.and_eq_true, decide_eq_true_eq, and_assoc] at h
    obtain ⟨hc, hc0, hc3⟩ := loadByte2_read h.1 a.halfB
    simp (disch := omega) [kindCode, stepBytes, kindBytes, hc0, hc3]
  | swap half =>
    obtain ⟨hc, hc0⟩ := flagByte_read half
    simp (disch := omega) [kindCode, stepBytes, kindBytes, hc0]
  | streamMm a => simp only [kindCode, stepBytes, kindBytes, matArgsOf_matBytes _ _ h]
  | mv a => simp only [kindCode, stepBytes, kindBytes, matArgsOf_matBytes _ _ h]
  | vec a => simp only [kindCode, stepBytes, kindBytes, vecArgsOf_vecBytes _ _ h]
  | qscan a => simp only [kindCode, stepBytes, kindBytes, quantArgsOf_quantBytes _ _ h]
  | qconvert a => simp only [kindCode, stepBytes, kindBytes, quantArgsOf_quantBytes _ _ h]
  | copy stream src dst =>
    simp only [StepKind.wf, fits, Bool.and_eq_true, decide_eq_true_eq] at h
    obtain ⟨hc, hc0⟩ := flagByte_read stream
    simp (disch := omega) [kindCode, stepBytes, kindBytes, hc0]
  | fill width off n v =>
    simp only [StepKind.wf, fits, Bool.and_eq_true, decide_eq_true_eq] at h
    simp (disch := omega) [kindCode, stepBytes, kindBytes]
  | tpCopy src dst n =>
    simp only [StepKind.wf, fits, Bool.and_eq_true, decide_eq_true_eq] at h
    simp (disch := omega) [kindCode, stepBytes, kindBytes]
  | wait event count =>
    simp only [StepKind.wf, fits, Bool.and_eq_true, decide_eq_true_eq] at h
    simp (disch := omega) [kindCode, stepBytes, kindBytes]
  | signal event cluster increment =>
    simp only [StepKind.wf, fits, Bool.and_eq_true, decide_eq_true_eq] at h
    simp (disch := omega) [kindCode, stepBytes, kindBytes]
  | layerMark layer =>
    simp only [StepKind.wf, fits, decide_eq_true_eq] at h
    simp (disch := omega) [kindCode, stepBytes, kindBytes]
  | collective a =>
    simp only [StepKind.wf, CollArgs.wf, fits, Bool.and_eq_true, decide_eq_true_eq] at h
    simp (disch := omega) [kindCode, stepBytes, kindBytes]
  | commit => simp only [kindCode]

/-- Settles O48: the bytes have 32 places, and KIND, the fields and SYNC are each read back from their own. -/
theorem stepWordRoundTrip : Obligations.StepWordRoundTrip := by
  intro w h
  have hread : stepWordOf (stepBytes w) = some w := by rw [stepWordOf, stepKindOf_stepBytes h, stepBytes_sync, Option.map_some]
  exact ⟨hread, stepBytes_length w⟩

/-! ### Program commands -/

section

variable {s : State} {id : CmdId} {o : Outst}

/-- The state `u` with the image `g` of the bytes `b`, which lie at `base`, under a new handle of partition `p`; and that handle (R192). -/
def State.withProgram (u : State) (p base : Nat) (b : Bytes) (g : Image) : State × Nat :=
  let w := (u.devWr p base b).newHandle p
  ({ w.1 with progs := w.1.progs ++ [{ handle := w.2, part := p, alloc := base, len := b.length, img := g }] }, w.2)

/-- PROG_LOAD of a sound image that finds its memory stores it and answers its handle (R192, R216). -/
theorem exec_progLoad {g : Image} {u : State} {base n : Nat} {b : Bytes} (hs : s.startable id (.progLoad id) = some o)
    (hr : (o.hold || decide (8 ≤ o.rbufLen)) = true) (h128 : 128 ≤ o.ibufLen) (hhead : s.hostBad o.ibuf 128 = false)
    (hn : imageReads (s.hostRd o.ibuf 128) = n) (hb : s.hostRd o.ibuf n = b) (hl : n ≤ o.ibufLen) (hread : s.hostBad o.ibuf n = false)
    (hg : validateImage b ((s.chargeBytes o.id 16 n).runCores (ioPart o)).length ((s.chargeBytes o.id 16 n).entry (ioPart o)).tpBytes = .ok g)
    (ha : (s.chargeBytes o.id 16 n).alloc (ioPart o) 0xFF b.length = some (u, base)) :
    exec (.progLoad id) s =
      .next (s.ends (u.withProgram (ioPart o) base b g).1 o .ok 0 (leBytes 4 (u.withProgram (ioPart o) base b g).2)) := by
  have hibuf : s.ibuf o 128 = .ok (s.hostRd o.ibuf 128) := if_neg (Bool.eq_false_iff.1 hhead)
  exact congrArg Host.Outcome.next (startCmd_now hs (by
    simp only [needIbuf_of h128, hibuf, hn, needIbuf_of hl, needRbuf_of hr, takeIbuf_of hread, hb, bind_ok, hg, ha, okResult, loadFailure,
      State.withProgram]))

variable {prog : Nat} {x : Prog}

/-- PROG_UNLOAD of a program that nothing names forgets it (R195). -/
theorem exec_progUnload (hs : s.startable id (.progUnload id prog) = some o) (hh : o.hold = false) (hi : s.progIdent (ioPart o) prog = .ok x)
    (hfree : s.progNamed prog = false) :
    exec (.progUnload id prog) s =
      .next ((({ s with progs := s.progs.filter (fun y => y.handle ≠ prog) } : State).sweep).complete o .ok 0 []) :=
  congrArg Host.Outcome.next (startCmd_completes hs hh (by
    simp only [noHold_of hh, hi, hfree, Bool.not_false, need_true, bind_ok, okDone]))

/-- PROG_RUN in its slice, with a sound binding, binds its operands and starts the run, which goes on (R193 to R195, R396). -/
theorem exec_progRun {seed : W64} {u v w : State} {n : Nat} {slots rings : List Nat} (hs : s.startable id (.progRun id prog seed) = some o)
    (hh : o.hold = false) (hi : s.progIdent (ioPart o) prog = .ok x) (ht : s.sliceAllows id = true) (hn : 4 * (x.img.slots.length + x.img.rings) = n)
    (hl : n ≤ o.ibufLen) (hread : s.hostBad o.ibuf n = false) (hw : s.chargeBytes o.id 16 n = w)
    (hslots : handlesOf (s.hostRd o.ibuf n) 0 x.img.slots.length = slots)
    (hrings : handlesOf (s.hostRd o.ibuf n) (4 * x.img.slots.length) x.img.rings = rings)
    (hc : w.bindChecks (ioPart o) x.img slots rings = .ok ()) (hd : w.dirtyFits ((x.img.outputs slots).map w.tensorPieces).sum = .ok ())
    (hheld : w.outputsHeld (x.img.outputs slots) = false)
    (hin : (w.openBinding id).bindInputs id .dataPoisoned 0 (x.img.inputs slots) (fun h => 4 * slots.idxOf h) = .ok u)
    (hout : u.bindOutputs id (x.img.outputs slots) (fun h => 4 * slots.idxOf h) = .ok v) :
    exec (.progRun id prog seed) s = .next ((v.startRun id (ioPart o) (qCtx id.queue) x.img slots rings seed).markRunning id) :=
  congrArg Host.Outcome.next (startCmd_marks (room := 0) hs hh (by
    simp only [ht, Bool.not_true, Bool.false_eq_true, if_false, noHold_of hh, hi, hn, needIbuf_of hl, takeIbuf_of hread, bind_ok, hw, hslots, hrings,
      hc, hd, hheld, hin, hout]))

end

/-- Settles O8: each command passes its checks, and ends or runs on. -/
theorem programCommandsComplete : Obligations.ProgramCommandsComplete := by
  intro s id o
  refine ⟨fun g u base hs hr h128 hhead => ?_, fun prog x hi hh => ⟨fun hs hfree => exec_progUnload hs hh hi hfree, fun seed u v hs ht => ?_⟩⟩
  · intro n b v hl hread hg ha
    exact exec_progLoad hs hr h128 hhead rfl rfl hl hread hg ha
  · intro n w slots rings hl hread hc hd hheld wher hin hout
    exact exec_progRun hs hh hi ht rfl hl hread rfl rfl rfl hc hd hheld hin hout

/-! ### Slices and handovers -/

section

variable {s : State} {p : Nat}

/-- At its slice end a command that may run on becomes an overrun (R401, R402). -/
theorem exec_sliceEnd_overruns {h : Nat} {o : Outst} (hp : s.hasPart p = true) (hh : (s.partRt p).holder = some h)
    (hv : (s.partRt p).overrun = false) (ho : s.runningSliced p h = some o) (hr : s.runsOn o = true) :
    exec (.sliceEnd p) s = .next (s.updPart p (fun r => { r with overrun := true, sliceLen := s.now - r.sliceStart })) :=
  congrArg Host.Outcome.next (by simp only [hp, State.doSliceEnd, hh, hv, ho, hr, Bool.false_eq_true, if_true, if_false])

/-- At its slice end a command that may not run on goes on where nobody may be chosen. -/
theorem exec_sliceEnd_nobody {h : Nat} {o : Outst} {t : State} (hp : s.hasPart p = true) (hh : (s.partRt p).holder = some h)
    (hv : (s.partRt p).overrun = false) (ho : s.runningSliced p h = some o) (hr : s.runsOn o = false)
    (hn : State.chooseNext p s.chooseRounds [] s = (t, none)) : exec (.sliceEnd p) s = .next t :=
  congrArg Host.Outcome.next (by simp only [hp, State.doSliceEnd, hh, hv, ho, hr, hn, Bool.false_eq_true, if_true, if_false])

/-- At its slice end a command that may not run on keeps the cores where its own context is chosen, and else is killed and gives way (R399, R400). -/
theorem exec_sliceEnd_givesWay {h c : Nat} {o : Outst} {t : State} (hp : s.hasPart p = true) (hh : (s.partRt p).holder = some h)
    (hv : (s.partRt p).overrun = false) (ho : s.runningSliced p h = some o) (hr : s.runsOn o = false)
    (hn : State.chooseNext p s.chooseRounds [] s = (t, some c)) :
    exec (.sliceEnd p) s = .next (if c = h then t.grant p c else ((t.sliceKill p h o).endSliceOf p).grant p c) :=
  congrArg Host.Outcome.next (by simp only [hp, State.doSliceEnd, hh, hv, ho, hr, hn, Bool.false_eq_true, if_true, if_false])

/-- At its slice end a holder without a running command hands the cores over (R397). -/
theorem exec_sliceEnd_handsOver {h : Nat} (hp : s.hasPart p = true) (hh : (s.partRt p).holder = some h)
    (hv : (s.partRt p).overrun = false) (ho : s.runningSliced p h = none) : exec (.sliceEnd p) s = .next (s.doHandover p) :=
  congrArg Host.Outcome.next (by simp only [hp, State.doSliceEnd, hh, hv, ho, Bool.false_eq_true, if_true, if_false])

/-- HANDOVER takes place where nobody holds the slice (R397). -/
theorem exec_handover_idle (hp : s.hasPart p = true) (hh : (s.partRt p).holder = none) : exec (.handover p) s = .next (s.doHandover p) :=
  congrArg Host.Outcome.next (by simp only [hp, hh, Bool.not_true, Bool.false_eq_true, if_false])

/-- HANDOVER takes place where the holder has nothing running, and has overrun or has nothing ready (R397, R402). -/
theorem exec_handover_held {h : Nat} (hp : s.hasPart p = true) (hh : (s.partRt p).holder = some h) (ho : s.runningSliced p h = none)
    (hend : (s.partRt p).overrun = true ∨ s.readySliced p h = []) : exec (.handover p) s = .next (s.doHandover p) := by
  have hend' : ((s.partRt p).overrun || (s.readySliced p h).isEmpty) = true := by simpa using hend
  exact congrArg Host.Outcome.next (by
    simp only [hp, hh, ho, hend', Option.isSome_none, Bool.not_true, Bool.false_eq_true, if_true, if_false])

/-- A handover for which nobody is chosen leaves the cores idle (R397). -/
theorem doHandover_nobody {t : State} (hn : State.chooseNext p s.chooseRounds [] s = (t, none)) :
    s.doHandover p = (t.endSliceOf p).updPart p (fun r => { r with holder := none, overrun := false }) := by
  simp only [State.doHandover, hn]

/-- A handover ends the slice of another holder and grants one to the context that is chosen (R397 to R399). -/
theorem doHandover_grants {t : State} {c : Nat} (hn : State.chooseNext p s.chooseRounds [] s = (t, some c)) :
    s.doHandover p = (if (t.partRt p).holder = some c then t else t.endSliceOf p).grant p c := by
  simp only [State.doHandover, hn]

/-- A run that is not pre-empted fails where its bound expires (R213, R401). -/
theorem exec_runBoundExpiry {id : CmdId} {o : Outst} {r : Run} (ho : s.outst? id = some o) (hr : s.run? id = some r) (hp : o.phase = .running)
    (hon : s.runsOn o = true) : exec (.runBoundExpiry id) s = .next (s.failRun id .runBoundExceeded r.img.runBound) :=
  congrArg Host.Outcome.next (by simp only [ho, hr, hp, hon, decide_true, Bool.and_self, if_true])

end

/-! ### Regulated paths and energy -/

section

variable {s : State} {path : RegPath} {unit : Nat}

/-- The state in which partition `p`'s request of `bytes`, if it has any, waits at a place of a path (log 81). -/
def State.requestComes (s : State) (p : Nat) (path : RegPath) (unit bytes : Nat) : State :=
  if bytes = 0 then s
  else { s with arbiters := ainsert (path, unit) { s.arbiter path unit with waiting := (s.arbiter path unit).waiting ++ [(p, bytes)] } s.arbiters }

/-- REGULATOR_ADMIT of a request that may come serves the path once it waits (R387, R389). -/
theorem exec_regulatorAdmit {p bytes : Nat} (hp : s.hasPart p = true) (hb : bytes ≤ 4096) (hplace : s.hasPlace p path unit = true) :
    exec (.regulatorAdmit p path unit bytes) s = .next ((s.requestComes p path unit bytes).servePath path unit) := by
  have hsize : decide (4096 < bytes) = false := decide_eq_false (Nat.not_lt.2 hb)
  exact congrArg Host.Outcome.next (by
    simp only [hp, hplace, hsize, Bool.not_true, Bool.or_self, Bool.false_eq_true, if_false, State.requestComes])

/-- A path serves nobody where no partition that waits holds tokens. -/
theorem servePath_nobody (hq : s.servedNext path unit = none) : s.servePath path unit = s := by
  simp only [State.servePath, hq]

/-- A path serves the first request of the partition whose turn it is, which gives the request's bytes from its tokens (R387, R389). -/
theorem servePath_serves {q : Nat} {w : Nat × Nat} (hq : s.servedNext path unit = some q)
    (hw : (s.arbiter path unit).waiting.find? (fun x => x.1 = q) = some w) :
    s.servePath path unit = { (s.takeTokens q path unit w.2) with
      arbiters := ainsert (path, unit) { waiting := (s.arbiter path unit).waiting.erase (q, w.2), last := q } s.arbiters } := by
  simp only [State.servePath, hq, hw, Option.map_some, Option.getD_some]

/-- ENERGY_SAMPLE charges rail after rail (R415, R416). -/
theorem exec_energySample (hp : s.power.powered = true) (energy : List Nat) (activity : List (Nat × Nat × List Nat)) :
    exec (.energySample energy activity) s = .next (energy.zipIdx.foldl (fun t e => t.shareRail e.2 e.1 activity) s) :=
  congrArg Host.Outcome.next (if_pos hp)

end

/-- Settles O38: a slice's end and a handover go on by whom `chooseNext` picks; a path, by whom `servedNext` picks (logs 37 and 81). -/
theorem schedulingStepsComplete : Obligations.SchedulingStepsComplete := by
  intro s p hp
  refine ⟨fun h o hh hv ho => ?_, ?_, fun id o r ho hr hrun hon => exec_runBoundExpiry ho hr hrun hon, fun path unit bytes hb hplace => ?_,
    fun hpow energy activity => exec_energySample hpow energy activity⟩
  · intro n
    refine ⟨exec_sliceEnd_overruns hp hh hv ho, fun hr => ?_⟩
    rcases hn : n with ⟨t, _ | c⟩
    · exact exec_sliceEnd_nobody hp hh hv ho hr hn
    · exact exec_sliceEnd_givesWay hp hh hv ho hr hn
  · intro n next
    have hnext : s.doHandover p = next := by
      simp only [next]
      rcases hn : n with ⟨t, _ | c⟩
      · exact doHandover_nobody hn
      · exact doHandover_grants hn
    rw [← hnext]
    exact ⟨fun h hh hv ho => exec_sliceEnd_handsOver hp hh hv ho, exec_handover_idle hp, fun h hh ho hend => exec_handover_held hp hh ho hend⟩
  · intro a come
    rw [exec_regulatorAdmit hp hb hplace]
    exact ⟨fun hq => congrArg Host.Outcome.next (servePath_nobody hq), fun q w hq hw => congrArg Host.Outcome.next (servePath_serves hq hw)⟩

end Sys2Proof.Machine
end

section
/-!
PROOFS. The memory integrity family: scrubbing and the remap tables, the reads of codewords, and the test commands. What a scrubber finds and which outcome of a
read can stand are said once; each case of a row or command then has one lemma, and the statements are assembled from them.
-/
namespace Sys2Proof.Machine

open Sys2Proof

/-! ### What a scrubber finds (R219, R227, R228) -/

section

variable {s : State} {st : Store} {addr : Nat}

/-- A scrubber's move touches no latent mark and no line of the die cache, so it alters nothing that the scrubber finds. -/
theorem scrubMove_finds (found : Ecc) : (s.scrubMove st addr).finds st addr found = s.finds st addr found := rfl

/-- A word without a latent mark is as its checker finds it. -/
theorem finds_unmarked (hb : (st, checkedUnit st addr) ∉ s.integ.bad) (hw : (st, checkedUnit st addr) ∉ s.integ.weak) (found : Ecc) :
    s.finds st addr found = found := by
  simp only [State.finds, hb, hw, decide_false, Bool.false_and, Bool.false_eq_true, if_false]

/-- A correctable error is found as such unless the word is beyond correction by now. -/
theorem finds_corrected (hb : (st, checkedUnit st addr) ∉ s.integ.bad) : s.finds st addr .corrected = .corrected := by
  simp only [State.finds, if_neg hb, ite_self]

/-- No latent mark makes an uncorrectable error less. -/
theorem finds_uncorrectable : s.finds st addr .uncorrectable = .uncorrectable := by
  have hnotClean : decide (Ecc.uncorrectable = .clean) = false := rfl
  simp only [State.finds, hnotClean, Bool.and_false, Bool.false_eq_true, if_false, ite_self]

/-- Whether a scrubber has something to read at an address: data that is not poisoned, and for the die cache a line that is there. -/
def State.hasScrubData (s : State) (st : Store) (addr : Nat) : Prop :=
  (st, checkedUnit st addr) ∉ s.integ.poison ∧ (st = .dieCache → s.dcache.any (fun l => l.addr == lineOf addr) = true)

/-- What a scrubber does with data of which it has found `seen`: sound data is written back, once a corrected error has counted (R219, R227, R228). -/
def State.afterScrub (s : State) (st : Store) (addr : Nat) (seen : Ecc) : State :=
  match seen with
  | .clean => s.scrubClean st addr
  | .corrected => (s.correctable st addr).scrubClean st addr
  | .uncorrectable => s.uncorrectable st addr

/-- A scrubber that has something to read goes by what it finds. -/
theorem scrubFinding_of (h : s.hasScrubData st addr) (found : Ecc) :
    s.scrubFinding st addr found = s.afterScrub st addr (s.finds st addr found) := by
  obtain ⟨hp, hline⟩ := h
  have hmissing : ¬ (decide (st = .dieCache) && !s.dcache.any (fun l => l.addr == lineOf addr)) = true := by simpa using hline
  rw [State.scrubFinding, if_neg hp, if_neg hmissing]
  cases s.finds st addr found <;> rfl

/-! ### SCRUB_STEP and OUT_OF_TURN_SCRUB -/

/-- The scrubber of a store other than accumulator memory and the paths moves on, and does what its finding asks for (R227, R230). -/
theorem exec_scrubStep_scrubber (hs : s.scrubs st addr = true) (ha : st ≠ .accumulator) (hpath : st ≠ .path) (h : s.hasScrubData st addr)
    {found seen : Ecc} (hf : s.finds st addr found = seen) :
    exec (.scrubStep st addr found) s = .next ((s.scrubMove st addr).afterScrub st addr seen).settleFaults := by
  have hmoved : (s.scrubMove st addr).hasScrubData st addr := h
  exact congrArg Host.Outcome.next (by
    simp only [hs, ha, hpath, Bool.not_true, decide_false, Bool.or_self, Bool.false_eq_true, if_false, scrubFinding_of hmoved, scrubMove_finds, hf])

/-- Accumulator memory and the paths have no scrubber: what their checkers find takes its effect (log 77). -/
theorem exec_scrubStep_checker (hs : s.scrubs st addr = true) (hst : st = .accumulator ∨ st = .path) (found : Ecc) :
    exec (.scrubStep st addr found) s = .next (s.useFinding st addr found).settleFaults := by
  have hchecker : (decide (st = .accumulator) || decide (st = .path)) = true := by simpa using hst
  exact congrArg Host.Outcome.next (by simp only [hs, hchecker, Bool.not_true, Bool.false_eq_true, if_false, if_true])

/-- A word with a counted error is read again out of turn: it is repaired, or found to be uncorrectable by now (R219, R228). -/
theorem exec_outOfTurnScrub (hw : (st, checkedUnit st addr) ∈ s.integ.weak) (hc : (st, checkedUnit st addr) ∈ s.integ.counted)
    (hs : s.scrubs st addr = true) :
    exec (.outOfTurnScrub st addr) s =
      .next (if (st, checkedUnit st addr) ∈ s.integ.bad then (s.uncorrectable st addr).settleFaults else s.scrubClean st addr) :=
  congrArg Host.Outcome.next (by simp only [hw, hc, hs, decide_true, Bool.and_self, if_true])

end

/-- Settles O37: a scrubber goes by what `finds` says of its word, a checker by its own finding (log 77). -/
theorem scrubbingCompletes : Obligations.ScrubbingCompletes := by
  intro s st addr
  refine ⟨fun hs hp => ⟨fun ha hpath hline => ?_, ?_, ?_⟩, fun hw hc hs => ⟨fun hb => ?_, fun hb => ?_⟩, fun hpow => congrArg Host.Outcome.next (if_pos hpow)⟩
  · intro t
    have hstep {found seen : Ecc} := exec_scrubStep_scrubber (found := found) (seen := seen) hs ha hpath ⟨hp, hline⟩
    exact ⟨fun hb hw => hstep (finds_unmarked hb hw .clean), fun hb => hstep (finds_corrected hb), hstep finds_uncorrectable⟩
  · rintro rfl
    exact ⟨exec_scrubStep_checker hs (.inl rfl) .clean, exec_scrubStep_checker hs (.inl rfl) .corrected⟩
  · rintro rfl
    exact ⟨exec_scrubStep_checker hs (.inr rfl) .clean, exec_scrubStep_checker hs (.inr rfl) .corrected⟩
  · rw [exec_outOfTurnScrub hw hc hs, if_neg hb, State.scrubClean]
  · rw [exec_outOfTurnScrub hw hc hs, if_pos hb]

/-! ### Which outcome of a codeword read can stand (R334, R335, R351, R662) -/

section

variable {s : State} {e : MapEntry} {ns unit : Nat}

/-- A read whose first copy can serve does not wait for a test. -/
theorem testWaits_firstGood (h : s.copyGood e.loc ns unit = true) : s.testWaits e ns unit = false := by
  simp only [State.testWaits, h, Bool.not_true, Bool.false_and]

/-- A read whose second copy can serve does not wait for a test. -/
theorem testWaits_secondGood (h : (e.mirror && s.copyGood (s.mirrorOf e.loc) ns unit) = true) : s.testWaits e ns unit = false := by
  simp only [State.testWaits, h, Bool.not_true, Bool.and_false, Bool.false_and]

/-- The outcome that names a step on the first copy. -/
def onFirstCopy : CwStep → CwOutcome
  | .hard n => .hard n
  | .retry l => .retry l
  | .parity => .parity

/-- A first copy that can serve is recovered by the step given. -/
theorem cwOutcome_onFirstCopy (h : s.copyGood e.loc ns unit = true) (st : CwStep) : s.cwOutcome e ns unit (onFirstCopy st) = onFirstCopy st := by
  cases st <;> simp only [State.cwOutcome, onFirstCopy, h, if_true]

/-- A second copy that can serve is recovered by the step given, where every step on the first fails. -/
theorem cwOutcome_mirror (h : (e.mirror && s.copyGood (s.mirrorOf e.loc) ns unit) = true) (c : CwStep) :
    s.cwOutcome e ns unit (.mirror c) = .mirror c := by
  simp only [State.cwOutcome, h, if_true, ite_self]

/-- Without a second copy that can serve, an outcome that rests on it is a loss. -/
theorem cwOutcome_mirror_lost (h : (e.mirror && s.copyGood (s.mirrorOf e.loc) ns unit) = false) (c : CwStep) :
    s.cwOutcome e ns unit (.mirror c) = .lost := by
  simp only [State.cwOutcome, h, Bool.false_eq_true, if_false, ite_self]

theorem cwOutcome_lost : s.cwOutcome e ns unit .lost = .lost := by
  simp only [State.cwOutcome, ite_self]

/-- Without a copy that can serve, every outcome is a loss. -/
theorem cwOutcome_noCopy (h1 : s.copyGood e.loc ns unit = false) (h2 : (e.mirror && s.copyGood (s.mirrorOf e.loc) ns unit) = false) (out : CwOutcome) :
    s.cwOutcome e ns unit out = .lost := by
  cases out <;> simp only [State.cwOutcome, h1, h2, Bool.false_eq_true, if_false]

end

/-! ### READ_CODEWORD -/

/-- The state in which the pair of a mirrored unit is written again, where the store is free to work (R303). -/
def State.renewPair (t : State) (e : MapEntry) (ns unit : Nat) : State := if e.mirror && t.flashFree then t.rewritePair ns unit else t

/-- The state after every step on every copy of a unit has failed (R241, R344). -/
def State.allStepsFail (s : State) (e : MapEntry) : State :=
  if e.mirror then (s.readFails e.loc).readFails ((s.readFails e.loc).mirrorOf e.loc) else s.readFails e.loc

section

variable {s : State} {e : MapEntry} {ns lblock unit : Nat} (hu : lblock / 4 = unit) (hmap : s.mapAt ns unit = e) (he : e.onNand = true)

include hu hmap he

/-- A read that a test keeps from its channel waits (R662). -/
theorem exec_readCodeword_waits (hw : s.testWaits e ns unit = true) (out : CwOutcome) : exec (.readCodeword ns lblock out) s = .next s :=
  congrArg Host.Outcome.next (by simp only [hu, hmap, he, hw, Bool.not_true, Bool.false_or, if_true])

/-- A first copy that can serve is recovered, and the pair is renewed where parity gave it (R303, R335). -/
theorem exec_readCodeword_first (hg : s.copyGood e.loc ns unit = true) (st : CwStep) :
    exec (.readCodeword ns lblock (onFirstCopy st)) s =
      .next (if s.byParity e.loc st then (s.readStep e.loc st).renewPair e ns unit else s.readStep e.loc st) := by
  show execReadCodeword ns lblock (onFirstCopy st) s = _
  simp only [execReadCodeword, hu, hmap, he, testWaits_firstGood hg, Bool.not_true, Bool.or_self, Bool.false_eq_true, if_false,
    cwOutcome_onFirstCopy hg st]
  cases st <;> rfl

/-- Where the second copy is read, the first has failed at every step, and the pair is renewed (R303, R335). -/
theorem exec_readCodeword_second (hm : e.mirror = true) (hg : s.copyGood (s.mirrorOf e.loc) ns unit = true) (c : CwStep) :
    exec (.readCodeword ns lblock (.mirror c)) s =
      .next (((((s.readFails e.loc).readStep (s.mirrorOf e.loc) c).integrity 5 1).refreshFor e.loc).renewPair e ns unit) := by
  have hsecond := Bool.and_eq_true_iff.2 ⟨hm, hg⟩
  exact congrArg Host.Outcome.next (by
    simp only [hu, hmap, he, testWaits_secondGood hsecond, Bool.not_true, Bool.or_self, Bool.false_eq_true, if_false, cwOutcome_mirror hsecond c,
      State.renewPair])

/-- A codeword that no step gives loses its block (R222, R335). -/
theorem exec_readCodeword_lost {out : CwOutcome} (hw : s.testWaits e ns unit = false) (ho : s.cwOutcome e ns unit out = .lost) :
    exec (.readCodeword ns lblock out) s = .next ((s.allStepsFail e).loseBlock ns lblock) :=
  congrArg Host.Outcome.next (by
    simp only [hu, hmap, he, hw, Bool.not_true, Bool.or_self, Bool.false_eq_true, if_false, ho, State.allStepsFail])

end

/-! ### What a step on a copy does -/

section

variable {s : State} {loc : Nat}

/-- A member that is away is rebuilt by parity, whatever the step (R351, R662). -/
theorem readStep_away (h : s.memberAway loc = true) (st : CwStep) :
    s.readStep loc st = ((s.readRow loc 0 true).integrity 5 1).refreshFor loc := if_pos h

theorem readStep_hard (h : s.memberAway loc = false) (n : Nat) : s.readStep loc (.hard n) = s.readRow loc 1 false := by
  simp only [State.readStep, h, Bool.false_eq_true, if_false]

/-- A retry counts as corrected, and from SOFT_FROM on it queues the refresh (R335, R336). -/
theorem readStep_retry (h : s.memberAway loc = false) (l : Nat) :
    s.readStep loc (.retry l) =
      if ((s.flash.profileOf (loc / 2 ^ 31)).map (·.softFrom)).getD 0 ≤ l then
        ((s.readRow loc (1 + min l (((s.flash.profileOf (loc / 2 ^ 31)).map (·.retryLevels)).getD 0)) false).integrity 5 0).refreshFor loc
      else (s.readRow loc (1 + min l (((s.flash.profileOf (loc / 2 ^ 31)).map (·.retryLevels)).getD 0)) false).integrity 5 0 := by
  simp only [State.readStep, h, Bool.false_eq_true, if_false]

theorem readStep_parity (h : s.memberAway loc = false) :
    s.readStep loc .parity =
      ((s.readRow loc (1 + ((s.flash.profileOf (loc / 2 ^ 31)).map (·.retryLevels)).getD 0) true).integrity 5 1).refreshFor loc := by
  simp only [State.readStep, h, Bool.false_eq_true, if_false]

theorem byParity_away (h : s.memberAway loc = true) (st : CwStep) : s.byParity loc st = true := by
  simp only [State.byParity, h, Bool.true_or]

theorem byParity_parity : s.byParity loc .parity = true := Bool.or_true _

/-- A step other than parity does not rebuild a copy whose member is there. -/
theorem byParity_there (h : s.memberAway loc = false) {st : CwStep} (hst : st ≠ .parity) : ¬ s.byParity loc st = true := by
  simpa only [State.byParity, h, Bool.false_or, beq_iff_eq] using hst

end

/-- Settles O34: the copies that can serve decide which outcome stands, and the step recovers its copy unless the copy's member is away (page reads as
log 23 counts them). -/
theorem codewordReadsComplete : Obligations.CodewordReadsComplete := by
  intro s ns lblock unit e soft all renew gone he
  refine ⟨fun hg => ?_, fun c hm hg => exec_readCodeword_second rfl rfl he hm hg c,
    fun c h2 hw => exec_readCodeword_lost rfl rfl he hw (cwOutcome_mirror_lost h2 c), fun hw => exec_readCodeword_lost rfl rfl he hw cwOutcome_lost,
    fun h1 h2 out =>
      ⟨fun hw => exec_readCodeword_lost rfl rfl he hw (cwOutcome_noCopy h1 h2 out), fun hw => exec_readCodeword_waits rfl rfl he hw out⟩⟩
  have hfirst (st : CwStep) := exec_readCodeword_first rfl rfl he hg st
  have hkept {st : CwStep} (haway : s.memberAway e.loc = false) (hst : st ≠ .parity) :
      exec (.readCodeword ns lblock (onFirstCopy st)) s = .next (s.readStep e.loc st) :=
    (hfirst st).trans (congrArg Host.Outcome.next (if_neg (byParity_there haway hst)))
  have hrebuilt {st : CwStep} (hst : s.byParity e.loc st = true) :
      exec (.readCodeword ns lblock (onFirstCopy st)) s = .next (renew (s.readStep e.loc st)) :=
    (hfirst st).trans (congrArg Host.Outcome.next (if_pos hst))
  refine ⟨fun haway => ⟨fun n => ?_, fun l => ⟨fun hl => ?_, fun hl => ?_⟩, ?_⟩, fun haway => ?_⟩
  · exact (hkept haway (st := .hard n) nofun).trans (congrArg Host.Outcome.next (readStep_hard haway n))
  · exact (hkept haway (st := .retry l) nofun).trans (congrArg Host.Outcome.next ((readStep_retry haway l).trans (if_pos hl)))
  · exact (hkept haway (st := .retry l) nofun).trans (congrArg Host.Outcome.next ((readStep_retry haway l).trans (if_neg (Nat.not_le.2 hl))))
  · exact (hrebuilt byParity_parity).trans (congrArg (fun t => Host.Outcome.next (renew t)) (readStep_parity haway))
  · have hparity (st : CwStep) := (hrebuilt (byParity_away haway st)).trans (congrArg (fun t => Host.Outcome.next (renew t)) (readStep_away haway st))
    exact ⟨fun n => hparity (.hard n), fun l => hparity (.retry l), hparity .parity⟩

/-! ### LINK_TEST and LINK_MARGIN (R659 to R663) -/

section

variable {s : State} {id : CmdId} {o : Outst}

section

variable {kind index mask : Nat}

/-- LINK_TEST in MISSION mode answers the live counters at once (R660). -/
theorem exec_linkTest_mission {lun : Nat} (hs : s.startable id (.linkTest id kind 0 index 0 lun mask 0) = some o) (hk : kind ≤ 6)
    (hl : s.lanesOk kind mask = true) (hi : s.linkIdent o kind index mask = .ok ()) (ht : s.linkTested kind index = false)
    (hlun : kind ≠ 6 ∨ lun ≤ 7) :
    exec (.linkTest id kind 0 index 0 lun mask 0) s =
      .next (s.ends { s with freeCount := s.freeCount + 1 } o .ok 0 (s.missionResult kind index mask)) := by
  have hlun' : (kind != 6 || decide (lun ≤ 7)) = true := by simpa using hlun
  have hmode : s.modeAllowed kind index 0 = true := rfl
  exact congrArg Host.Outcome.next (startCmd_now hs (by
    simp only [inRange_of, hk, hl, hi, ht, hlun', hmode, decide_true, beq_self_eq_true, Nat.zero_le, Bool.not_false, Bool.and_self, need_true, bind_ok,
      if_true, okResult]))

/-- LINK_TEST in another mode takes its link and runs (R661, R663). -/
theorem exec_linkTest_runs {pattern mode lun duration : Nat}
    (hs : s.startable id (.linkTest id kind pattern index mode lun mask duration) = some o) (hk : kind ≤ 6)
    (hl : s.lanesOk kind mask = true) (hi : s.linkIdent o kind index mask = .ok ()) (ht : s.linkTested kind index = false)
    (hp : patternOk kind pattern = true) (hm1 : 1 ≤ mode) (hm3 : mode ≤ 3) (hlun : kind ≠ 6 ∨ lun ≤ 7) (hd1 : 1 ≤ duration)
    (hd2 : duration ≤ (if kind = 6 then 100 else 60000)) (hmode : s.modeAllowed kind index mode = true) :
    exec (.linkTest id kind pattern index mode lun mask duration) s =
      .next (s.goesOn (s.openTest { id := id, kind := kind, index := index, pattern := pattern, mode := mode, lun := lun, laneMask := mask
                                    isMargin := false, target := 0, locked := [] }) o (8 + 24 * (maskList 32 mask).length)) := by
  have hlun' : (kind != 6 || decide (lun ≤ 7)) = true := by simpa using hlun
  have hm0 : mode ≠ 0 := Nat.one_le_iff_ne_zero.1 hm1
  exact congrArg Host.Outcome.next (startCmd_runs hs (by
    simp only [inRange_of, hk, hl, hi, ht, hp, hm0, hm3, hlun', hd1, hd2, hmode, decide_true, Bool.not_false, Bool.and_self, need_true, bind_ok,
      if_false]))

/-- LINK_MARGIN takes its link and runs (R663, R665). -/
theorem exec_linkMargin {target : Nat} (hs : s.startable id (.linkMargin id kind index mask target) = some o) (hk : kind ≤ 6)
    (hl : s.lanesOk kind mask = true) (hi : s.linkIdent o kind index mask = .ok ()) (ht : s.linkTested kind index = false)
    (h6 : 6 ≤ target) (h15 : target ≤ 15) (hc : kind ≠ 6 ∨ s.channelFree index = true) :
    exec (.linkMargin id kind index mask target) s =
      .next (s.goesOn (s.openTest { id := id, kind := kind, index := index, pattern := 0, mode := 0, lun := 0, laneMask := mask, isMargin := true
                                    target := target, locked := [] }) o (8 + 24 * (maskList 32 mask).length)) := by
  have hc' : (kind != 6 || s.channelFree index) = true := by simpa using hc
  exact congrArg Host.Outcome.next (startCmd_runs hs (by
    simp only [inRange_of, hk, hl, hi, ht, h6, h15, hc', decide_true, Bool.not_false, Bool.and_self, need_true, bind_ok]))

/-- A test that has run its time gives its link back and answers (R661, R664). -/
theorem exec_testDurationEnd {t : LinkTest} (ht : s.test.links.find? (fun x => x.kind = kind && x.index = index) = some t) (bits errors : List Nat) :
    exec (.testDurationEnd kind index bits errors) s =
      .next (({ (s.endTest t) with freeCount := s.freeCount + 1 } : State).completeId t.id .ok 0 (s.testResult t bits errors)) :=
  congrArg Host.Outcome.next (by simp only [ht])

end

/-! ### MEM_BIST and ERR_INJECT (R242, R667 to R670) -/

/-- The protection check of the test commands passes below level 2 (R587). -/
theorem needUnprotected_of (h : s.cfl.protLevel ≠ 2) : need (s.cfl.protLevel != 2) .protectionDenied s.cfl.protLevel = .ok () :=
  need_of (bne_iff_ne.2 h) _ _

/-- MEM_BIST of a unit that no test and no context uses runs (R667, R669). -/
theorem exec_memBist {target algorithm index : Nat} (hs : s.startable id (.memBist id target algorithm index) = some o) (ht : target ≤ 1)
    (ha : if target = 0 then algorithm ≤ 1 else algorithm = 0)
    (hi : index < (if target = 0 then Variant.clusters s.variant else Variant.stacks s.variant)) (hr : (o.hold || decide (bistRoom ≤ o.rbufLen)) = true)
    (hprot : s.cfl.protLevel ≠ 2) (hb : s.test.bist.all (fun b => !(b.target = target && b.index = index)) = true)
    (hfree : target ≠ 0 ∨
      (List.range 8).all (fun p => !(s.hasPart p && bitAt (s.entry p).clusterMask index && s.ctxs.any (fun c => c.part = p))) = true) :
    exec (.memBist id target algorithm index) s =
      .next (s.goesOn { s with test := { s.test with bist := s.test.bist ++ [{ id := id, target := target, algorithm := algorithm, index := index }] } }
        o bistRoom) := by
  have halg : (if target = 0 then decide (algorithm ≤ 1) else algorithm == 0) = true := by
    split_ifs at ha ⊢ <;> simpa using ha
  have hidle : (!s.test.bist.any (fun b => b.target = target && b.index = index)) = true := by rw [List.not_any_eq_all_not]; exact hb
  have hunused : (target != 0 ||
      !(List.range 8).any (fun p => s.hasPart p && bitAt (s.entry p).clusterMask index && s.ctxs.any (fun c => c.part = p))) = true := by
    rw [List.not_any_eq_all_not, Bool.or_eq_true, bne_iff_ne]; exact hfree
  exact congrArg Host.Outcome.next (startCmd_runs hs (by
    simp only [inRange_of, ht, halg, hi, needRbuf_of hr, needUnprotected_of hprot, hidle, hunused, decide_true, Bool.and_self, need_true, bind_ok]))

/-- ERR_INJECT arms an error at the store of its address (R242). -/
theorem exec_errInject {p kind addr : Nat} (hs : s.startable id (.errInject id p kind addr) = some o) (hh : o.hold = false) (hk : kind ≤ 2)
    (hp : p < 8) (hpart : s.hasPart p = true) (hprot : s.cfl.protLevel ≠ 2) (hinj : s.injectable p addr = true) {st : Store}
    (hst : (if addr < 0x80000000 then Store.tidepool else .nearMemory) = st) :
    exec (.errInject id p kind addr) s =
      .next (({ s with integ := { s.integ with armed := s.integ.armed ++ [(st, checkedUnit st addr, kind)] } } : State).complete o .ok 0 []) :=
  congrArg Host.Outcome.next (startCmd_completes hs hh (by
    simp only [noHold_of hh, inRange_of, hk, hp, hpart, needUnprotected_of hprot, hinj, decide_true, need_true, bind_ok, hst, okDone]))

/-- The end of the oldest memory test: its failing locations are hard faults, its cluster is cleared, and the fault list is its result (R668 to R670). -/
theorem exec_memBistDone {b : Bist} {rest : List Bist} (hb : s.test.bist = b :: rest) {u : State}
    (hu : { s with test := { s.test with bist := rest } } = u) {r : State × List Bytes} (faults : List (Nat × Nat × Nat))
    (hr : (faults.filter (fun f => u.bistCovers b f.1 f.2.2)).foldl (State.bistFault b.index) (u, []) = r) :
    exec (.memBistDone faults) s =
      .next ((if b.target = 0 then r.1.wipeCluster b.index else r.1).completeId b.id .ok 0
        (leBytes 4 r.2.length ++ leBytes 4 (if 256 < r.2.length then 1 else 0) ++ (r.2.take 256).flatten)) :=
  congrArg Host.Outcome.next (by simp only [hb, hu, hr])

end

/-- Settles O29: each command passes its checks and ends or runs on; the ends of tests answer their results (logs 42 and 61). -/
theorem testCommandsComplete : Obligations.TestCommandsComplete := by
  intro s id o
  refine ⟨fun kind index mask hk hl hi ht => ⟨?_, ?_, ?_⟩, fun kind index lane => rfl, fun kind index bits errors t ht => exec_testDurationEnd ht bits errors,
    ?_, ?_, fun faults b rest hb => exec_memBistDone hb rfl faults rfl⟩
  · exact fun lun hs hlun _ => exec_linkTest_mission hs hk hl hi ht hlun
  · exact fun pattern mode lun duration hs hp hm1 hm3 hlun hd1 hd2 hmode => exec_linkTest_runs hs hk hl hi ht hp hm1 hm3 hlun hd1 hd2 hmode
  · exact fun target hs h6 h15 hc => exec_linkMargin hs hk hl hi ht h6 h15 hc
  · exact fun target algorithm index hs ht ha hi hr hprot hb hfree => exec_memBist hs ht ha hi hr hprot hb hfree
  · exact fun p kind addr hs hh hk hp hpart hprot hinj => exec_errInject hs hh hk hp hpart hprot hinj rfl

end Sys2Proof.Machine
end

section
/-!
PROOFS. The vector-search family: the index commands, the walk of a query and its events, merge rounds and reclaims, and the stages of an accord. What a
stage row does when its invocation stands before a stage of its kind is said once; one lemma for each case of a command or event says how it ends or moves on,
and each statement is assembled from them.
-/
namespace Sys2Proof.Machine

open Sys2Proof

/-! ### Checks of the search commands -/

/-- A namespace that passes the checks of a type passes the check for the type that it is known to have. -/
theorem nsIs_of_type {s : State} {o : Outst} {ns k : Nat} {x : Ns} (h : s.nsOpen o ns x = true) (hk : x.type = k) : s.nsIs x k = .ok () :=
  hk ▸ nsIs_of h

/-- A list of numbered blocks in which none is at fault names no first fault. -/
theorem findSome?_range_none {n : Nat} {f : Nat → Option Nat} (h : (List.range n).all (fun j => f j == none) = true) :
    (List.range n).findSome? f = none :=
  List.findSome?_eq_none_iff.2 fun j hj => beq_iff_eq.1 (List.all_eq_true.1 h j hj)

/-! ### The index commands -/

/-- A new index of partition `p` over a namespace: empty tables at `bases`, and the latest commit point as its epoch base (R249 to R252). -/
def Index.created (ns p : Nat) (ps : IdxParams) (base : Nat) (bases : List Nat) : Index :=
  { ns := ns, part := p, params := ps, sketches := [], directory := [], tombstones := [], usedSlots := [], entries := [], driftline := [], epoch := 0
    epochBase := base, merge := none, reclaim := [], unreadable := [], reads := 0, hops := 0, lost := false, allocs := bases, dirty := []
    dirPoison := [], scan := [], copies := [] }

section

variable {s u : State} {id : CmdId} {o : Outst} {ns : Nat} {x : Ns} {i : Index}

/-- IDX_CREATE of sound parameters that finds room for its tables adds an empty index (R244, R249 to R252). -/
theorem exec_idxCreate {p : IdxParams} {bases : List Nat} (hs : s.startable id (.idxCreate id ns) = some o) (hh : o.hold = false) (hns : ns < 64)
    (hopen : s.nsOpen o ns x = true) (hfree : s.index? ns = none) (hl : 32 ≤ o.ibufLen) (ht : x.type = 2) (hb : s.hostBad o.ibuf 32 = false)
    (hf : idxParamFault (s.hostRd o.ibuf 32) = none) (hp : idxParamsOf (s.hostRd o.ibuf 32) = p)
    (hmax : p.slots ≤ Variant.maxSlots s.variant p.sketchBits) (hcap : p.slots ≤ x.capacity)
    (hplace : (s.chargeBytes o.id 16 32).placeTables (ioPart o) p = some (u, bases)) :
    exec (.idxCreate id ns) s =
      .next (({ u with indexes := u.indexes ++ [Index.created ns (ioPart o) p u.lastSeq bases] } : State).complete o .ok 0 []) := by
  have hroom : (decide (p.slots ≤ Variant.maxSlots (s.chargeBytes o.id 16 32).variant p.sketchBits) && decide (p.slots ≤ x.capacity)) = true := by
    rw [Bool.and_eq_true, decide_eq_true_eq, decide_eq_true_eq]; exact ⟨hmax, hcap⟩
  refine congrArg Host.Outcome.next ((startNs_free (nsOpen_free hopen)).trans (startCmd_completes hs hh ?_))
  simp only [noHold_of hh, inRange_of (decide_eq_true hns), nsIdent_of hopen, hfree, Option.isNone_none, need_true, needIbuf_of hl,
    nsIs_of_type hopen ht, takeIbuf_of hb, bind_ok, hf, hp, need_of hroom, hplace, okDone, Index.created]

/-- IDX_INFO ends with the 64 bytes of its index (R279). -/
theorem exec_idxInfo (hs : s.startable id (.idxInfo id ns) = some o) (hns : ns < 64) (hheld : s.nsHeld ns = false) (hx : s.indexIdent o ns = .ok x)
    (hi : s.theIndex x = .ok i) (hr : (o.hold || decide (64 ≤ o.rbufLen)) = true) :
    exec (.idxInfo id ns) s = .next (s.ends s o .ok 0 i.infoBytes) :=
  congrArg Host.Outcome.next ((startNs_free hheld).trans (startCmd_now hs (by
    simp only [inRange_of (decide_eq_true hns), hx, hi, needRbuf_of hr, bind_ok, okResult])))

/-- IDX_INSERT of a record that the checks give a slot is bound to it and runs on to its commit point (R266). -/
theorem exec_idxInsert {slot : Nat} {b : Bytes} (hs : s.startable id (.idxInsert id ns) = some o) (hns : ns < 64) (hheld : s.nsHeld ns = false)
    (hx : s.indexIdent o ns = .ok x) (hi : s.theIndex x = .ok i) (hl : 4096 ≤ o.ibufLen) (hr : (o.hold || decide (8 ≤ o.rbufLen)) = true)
    (hb : s.hostBad o.ibuf 4096 = false) (hbytes : s.hostRd o.ibuf 4096 = b) (hu : s.chargeBytes o.id 16 4096 = u)
    (hslot : u.insertChecks i b = .ok slot)
    (hdirty : u.dirtyFits (1 + (i.sketchPages slot ++ Index.dirPages (recNode b)).eraseDups.length) = .ok ()) (hw : u.writesHeld = false)
    (hroom : u.roomFor (unitsOf slot 1) = true) : exec (.idxInsert id ns) s = .next (s.goesOn (u.bindInsert id ns slot b) o 8) :=
  congrArg Host.Outcome.next ((startNs_free hheld).trans (startCmd_runs hs (by
    simp only [inRange_of (decide_eq_true hns), hx, hi, needIbuf_of hl, needRbuf_of hr, takeIbuf_of hb, bind_ok, hbytes, hu, hslot, hdirty, hw, hroom,
      Bool.not_true, Bool.or_self, Bool.false_eq_true, if_false])))

/-- IDX_DESTROY of an index that nothing uses empties its namespace under a commit number of its own (R533). -/
theorem exec_idxDestroy (hs : s.startable id (.idxDestroy id ns) = some o) (hh : o.hold = false) (hns : ns < 64) (hheld : s.nsHeld ns = false)
    (hx : s.indexIdent o ns = .ok x) (hi : s.theIndex x = .ok i) (hbusy : s.indexBusy ns = false) :
    exec (.idxDestroy id ns) s = .next (((s.takeSeq.1.emptyNs ns s.commitSeq).settleWaits).complete o .ok 0 []) :=
  congrArg Host.Outcome.next ((startNs_free hheld).trans (startCmd_completes hs hh (by
    simp only [noHold_of hh, inRange_of (decide_eq_true hns), hx, hi, hbusy, Bool.not_false, need_true, bind_ok, State.takeSeq, okDone])))

/-- IDX_DELETE is bound where the driftline has room, and runs on to its commit point (R267). -/
theorem exec_idxDelete {node : Nat} (hs : s.startable id (.idxDelete id ns node) = some o) (hh : o.hold = false) (hns : ns < 64)
    (hheld : s.nsHeld ns = false) (hx : s.indexIdent o ns = .ok x) (hi : s.theIndex x = .ok i) (hd : i.dirBad node = false)
    (hpool : s.poolFull = false) (hdrift : s.flash.driftFull = false) :
    exec (.idxDelete id ns node) s = .next ((s.bindDelete id ns node).markRunning id) :=
  congrArg Host.Outcome.next ((startNs_free hheld).trans (startCmd_marks (room := 0) hs hh (by
    simp only [noHold_of hh, inRange_of (decide_eq_true hns), hx, hi, hd, hpool, hdrift, Bool.not_false, need_true, bind_ok, Bool.or_self,
      Bool.false_eq_true, if_false])))

/-- IDX_MERGE of an index that no merge runs on starts one, and runs until its last round (R270, R277). -/
theorem exec_idxMerge {flags : Nat} (hs : s.startable id (.idxMerge id ns flags) = some o) (hh : o.hold = false) (hns : ns < 64)
    (hheld : s.nsHeld ns = false) (hx : s.indexIdent o ns = .ok x) (hi : s.theIndex x = .ok i) (hm : i.merge = none) :
    exec (.idxMerge id ns flags) s = .next ((s.startMerge ns (some id) (bitAt flags 0)).markRunning id) :=
  congrArg Host.Outcome.next ((startNs_free hheld).trans (startCmd_marks (room := 0) hs hh (by
    simp only [noHold_of hh, inRange_of (decide_eq_true hns), hx, hi, hm, Option.isNone_none, need_true, bind_ok])))

end

/-- Settles O11, command by command: each passes its checks on a namespace that is not held, and ends or runs on. -/
theorem indexCommandsComplete : Obligations.IndexCommandsComplete := by
  intro s id o ns hns
  refine ⟨fun x u bases hs hh hopen hfree hl ht hb hf hmax hcap hplace =>
      exec_idxCreate hs hh hns hopen hfree hl ht hb hf rfl hmax hcap hplace,
    fun x i hheld hx hi => ⟨fun hs hr => exec_idxInfo hs hns hheld hx hi hr, fun slot hs hl hr hb => ?_, fun hh => ⟨?_, ?_, ?_⟩⟩⟩
  · exact fun hslot hdirty hw hroom => exec_idxInsert hs hns hheld hx hi hl hr hb rfl rfl hslot hdirty hw hroom
  · exact fun hs hbusy => exec_idxDestroy hs hh hns hheld hx hi hbusy
  · exact fun node hs hd hpool hdrift => exec_idxDelete hs hh hns hheld hx hi hd hpool hdrift
  · exact fun flags hs hm => exec_idxMerge hs hh hns hheld hx hi hm

/-! ### Queries and the events of their walk -/

/-- Query `j` of an IDX_QUERY, spelt by its block `b` (R254), with the snapshot and epoch base that its command takes (R255). -/
def queryOfBlock (id : CmdId) (ns l beam k maxReads prune snapshot : Nat) (i : Index) (b : Bytes) (j : Nat) : Query :=
  Query.new id j ns (qblockOf b (slice b 0x40 64) ((List.range i.params.dim).map (fun e => BitVec.ofNat 32 (field b (0x80 + 4 * e) 4))))
    l beam k maxReads (prune == 1) snapshot i.epochBase

/-- What the arrival of a record for the query `q` leaves: the index counts its read and the hops that it has added, and `q'`, which has taken it, goes on
(R258, R279). -/
def State.queryMoves (s : State) (q q' : Query) : State :=
  ((s.updIndex q.ns (fun y => { y with reads := y.reads + 1, hops := y.hops + (q'.hops - q.hops) })).updQuery q.id q.qi (fun _ => q')).runQuery q.id q.qi

/-- The queries that a walker compares with the entries of an index: those in its slots whose lap is not done (R268). -/
def Query.lapsOn (walker ns : Nat) (q : Query) : Bool := q.walker = some walker && q.ns == ns && !q.lapLeft.isEmpty

section

variable {s : State} {id : CmdId} {ns : Nat}

/-- IDX_QUERY of sound blocks on an index that is not lost places one query for each block, and runs on (R254 to R257). -/
theorem exec_idxQuery {o : Outst} {prune count l k beam maxReads len : Nat} {x : Ns} {i : Index}
    (hs : s.startable id (.idxQuery id ns prune count l k beam maxReads) = some o) (hns : ns < 64) (hheld : s.nsHeld ns = false)
    (hp : queryParamFault prune count l k beam maxReads = none) (hx : s.indexIdent o ns = .ok x) (hi : s.theIndex x = .ok i)
    (hindex : s.index? ns = some i) (hlost : i.lost = false) (hlen : queryBlockLen i.params.dim = len) (hl : count * len ≤ o.ibufLen)
    (hr : (o.hold || decide (count * (16 + 16 * k) ≤ o.rbufLen)) = true) (hb : s.hostBad o.ibuf (count * len) = false)
    (hblocks : (List.range count).all (fun j => queryBlockFault i.params (slice (s.hostRd o.ibuf (count * len)) (j * len) len) == none) = true) :
    exec (.idxQuery id ns prune count l k beam maxReads) s = .next (
      let u := s.chargeBytes o.id 16 (count * len)
      s.goesOn { u with queries := u.queries ++ (List.range count).map (fun j =>
        queryOfBlock id ns l beam k maxReads prune u.lastSeq i (slice (s.hostRd o.ibuf (count * len)) (j * len) len) j) } o (count * (16 + 16 * k))) := by
  have hdim : ((s.index? ns).map (·.params.dim)).getD 0 = i.params.dim := by rw [hindex]; rfl
  refine congrArg Host.Outcome.next ((startNs_free hheld).trans (startCmd_runs hs ?_))
  simp only [inRange_of (decide_eq_true hns), hp, hx, hi, hdim, hlen, needIbuf_of hl, needRbuf_of hr, takeIbuf_of hb, findSome?_range_none hblocks, hlost,
    Bool.not_false, need_true, bind_ok, queryOfBlock]

/-- The longest-waiting query of a partition begins its walk on the first walker with a free slot (R257, R258). -/
theorem exec_querySlotStart {p walker : Nat} {q : Query} {x : Index} (hp : qPart id.queue = some p) (hq : s.firstWaiting p = some q) (hid : q.id = id)
    (hw : s.freeWalker p = some walker) (hx : s.index? q.ns = some x) :
    exec (.querySlotStart id q.qi walker) s = .next ((s.updQuery id q.qi (fun y => y.begin x walker)).runQuery id q.qi) :=
  congrArg Host.Outcome.next (by simp only [hp, hq, hid, hw, hx, decide_true, Bool.and_self, if_true])

section

variable {q : Query} {slot : Nat} {x : Index} (hq : s.queries.find? (fun y => y.id = q.id && y.qi == q.qi) = some q)
  (hslot : q.outstanding.contains slot = true) (hx : s.index? q.ns = some x)
include hq hslot hx

/-- The arrival of a record that its walker can read: its neighbours' sketches are read, and the query takes it (R258). -/
theorem exec_recordArrival_read {r : Bytes} (hr : (s.walkerRead q x slot).2 = some r) :
    exec (.recordArrival q.id q.qi slot) s =
      .next (((s.walkerRead q x slot).1.readSketches q x r).queryMoves q (q.takeRecord x slot r)) :=
  congrArg Host.Outcome.next (by
    simp only [hq, hslot, hx, hr, Bool.not_true, Bool.false_eq_true, if_false, State.queryMoves])

/-- The arrival of a record that its walker cannot read: the slot is noted as unreadable, and the query skips it (R280). -/
theorem exec_recordArrival_unreadable (hr : (s.walkerRead q x slot).2 = none) :
    exec (.recordArrival q.id q.qi slot) s =
      .next (((s.walkerRead q x slot).1.markUnreadable q.ns slot).queryMoves q (q.skipRecord slot)) :=
  congrArg Host.Outcome.next (by
    simp only [hq, hslot, hx, hr, Bool.not_true, Bool.false_eq_true, if_false, State.queryMoves])

end

section

variable {walker entry : Nat} {x : Index} {e : DEntry} (hx : s.index? ns = some x) (he : x.driftline[entry]? = some e)
  (hscan : (alookup walker x.scan).getD entry = entry)
include hx he hscan

/-- A poisoned entry is reloaded first, and the laps wait (R280, log 43). -/
theorem exec_driftlineEntryScan_reloads (hp : e.poisoned = true) :
    exec (.driftlineEntryScan walker ns entry) s =
      .next (s.updIndex ns (fun y => { y with driftline := mapIf (fun d => d.same e) (fun d => { d with poisoned := false }) y.driftline })) :=
  congrArg Host.Outcome.next (by simp only [hx, he, hscan, hp, ne_eq, not_true_eq_false, if_false, if_true])

/-- An entry that the scan stands at is passed by every query that still laps over the index on that walker (R268, R269; where a scan starts, log 43). -/
theorem exec_driftlineEntryScan_passes (hp : e.poisoned = false) :
    exec (.driftlineEntryScan walker ns entry) s =
      .next ((s.queries.filter (Query.lapsOn walker ns)).foldl (fun t q => t.runQuery q.id q.qi)
        (({ s with queries := mapIf (Query.lapsOn walker ns) (fun q => q.pass e) s.queries } : State).updIndex ns (fun y => y.scanPast walker entry))) :=
  congrArg Host.Outcome.next (by
    simp only [hx, he, hscan, hp, ne_eq, not_true_eq_false, Bool.false_eq_true, if_false]; rfl)

end

end

/-- Settles O12, row by row: a batch is placed, a query begins its walk, and arrivals and scans move the queries that wait for them (the reload of a poisoned
entry and the start of a scan as log 43 reads them). -/
theorem queryCommandsComplete : Obligations.QueryCommandsComplete := by
  intro s id ns
  refine ⟨fun o prune count l k beam maxReads x i hns hs hheld hp hx hi hindex hlost => ?_,
    fun p q walker x hp hq hid hw hx => exec_querySlotStart hp hq hid hw hx, fun q slot x hq hslot hx => ?_, fun walker entry x e hx he hscan => ?_⟩
  · exact fun hl hr hb hblocks => exec_idxQuery hs hns hheld hp hx hi hindex hlost rfl hl hr hb hblocks
  · obtain rfl : q.id = id := by
      have hfound := List.find?_some hq
      simp only [Bool.and_eq_true, decide_eq_true_eq] at hfound
      exact hfound.1
    exact ⟨fun r hr => exec_recordArrival_read hq hslot hx hr, exec_recordArrival_unreadable hq hslot hx⟩
  · exact ⟨exec_driftlineEntryScan_reloads hx he hscan, exec_driftlineEntryScan_passes hx he hscan⟩

/-! ### Merge rounds and reclaims -/

section

variable {s : State} {ns : Nat} {x : Index} {u : State × Nat}

/-- Once the write buffer has room, a merge round publishes what it has stored or, above the dirty ceiling, drops it (R181, R271, log 44). -/
theorem exec_mergeRound {m : Merge} {owner : CmdId} {w : Round} {left : List DEntry} {swept : Option Nat} {last : Bool} {dir : Option (List (Nat × Nat))}
    (hx : s.index? ns = some x) (hm : x.merge = some m) (hown : m.id.getD (mergeOwner ns) = owner) (hwork : s.roundWork x m = (w, left, swept))
    (hlast : (left.isEmpty && swept.isNone) = last) (hdir : s.roundDir x m w last = dir)
    (hstore : (w.readUnits.foldl (fun (t : State) k => t.readPage ns k) s).roundStore x owner w (x.roundPages w dir) = u)
    (hfree : s.flashFree = true) (hheld : s.writesHeld = false) (hroom : s.roomFor w.units = true) :
    exec (.mergeRound ns) s = .next (
      if u.1.ceilingPieces < u.1.dirtyPieces + u.2 then u.1.dropPend owner
      else
        let v := u.1.roundPublish x m owner w left (swept.getD 0) dir
        if last then v.mergeEnd x m w u.1.commitSeq dir else v.settleWaits) :=
  congrArg Host.Outcome.next (by
    simp only [hx, hm, hown, hwork, hlast, hdir, hstore, hfree, hheld, hroom, Bool.not_true, Bool.or_self, Bool.false_eq_true, if_false])

/-- Once its time has come and the write buffer has room, a reclaim frees what the merge left or, above the dirty ceiling, drops its trims (R181, R276,
log 44). -/
theorem exec_driftlineReclaim {r : Nat × List Nat × List Nat} {rest : List (Nat × List Nat × List Nat)} (hx : s.index? ns = some x)
    (hr : x.reclaim = r :: rest) (hfree : s.flashFree = true) (hdue : s.reclaimDue ns r.1 = true)
    (hroom : s.roomFor (r.2.2.map (fun n => (n / 4, 2 ^ (n % 4)))) = true) (hstore : s.reclaimStore x (mergeOwner ns) r.2.2 = u) :
    exec (.driftlineReclaim ns) s = .next (
      if u.2 ≠ 0 ∧ u.1.ceilingPieces < u.1.dirtyPieces + u.2 then u.1.dropPend (mergeOwner ns)
      else (u.1.reclaimOne x (mergeOwner ns) r).forceMerge.settleWaits) :=
  congrArg Host.Outcome.next (by
    simp only [hx, hr, hfree, hdue, hroom, hstore, Bool.not_true, Bool.or_self, Bool.false_eq_true, if_false, Bool.and_eq_true, decide_eq_true_eq])

end

/-- Settles O13: a round and a reclaim that the write buffer has room for commit under the dirty ceiling, and above it drop their changes and wait (log 44). -/
theorem mergeStepsComplete : Obligations.MergeStepsComplete := by
  intro s ns x hx
  refine ⟨fun m hm hfree hheld hroom => ?_, fun r rest hr hfree hdue hroom => ?_⟩
  · have hround := exec_mergeRound hx hm rfl (Prod.eta _).symm rfl rfl rfl hfree hheld hroom
    exact ⟨fun hfits => hround.trans (congrArg Host.Outcome.next (if_neg (Nat.not_lt.2 hfits))),
      fun hover => hround.trans (congrArg Host.Outcome.next (if_pos hover))⟩
  · have hreclaim := exec_driftlineReclaim hx hr hfree hdue hroom rfl
    refine ⟨fun hfits => hreclaim.trans (congrArg Host.Outcome.next (if_neg fun hover => ?_)),
      fun hsome hover => hreclaim.trans (congrArg Host.Outcome.next (if_pos ⟨hsome, hover⟩))⟩
    exact hfits.elim hover.1 (Nat.not_le.2 hover.2)

/-! ### Accord stages -/

/-- The state in which SEARCH has placed one query for each item that is no pad, over the index, snapshot and epoch base `taken` (R255, R285, R291). -/
def State.placeSearch (s : State) (id : CmdId) (i : Invocation) (a : Accord) (st : Stage) (taken : Nat × Nat × Nat) : State :=
  let mk (b : Bytes × Nat) : Query :=
    Query.new id b.2 st.target (qblockOf (slice b.1 8 40) (s.itemSketch a b.2) (s.itemVector id a b.2)) (st.prm 0x1C 2) (st.prm 0x1E 1) (st.prm 0x20 2)
      (st.prm 0x22 2) (st.prm 0x1F 1 == 1) taken.2.1 taken.2.2
  let u := s.updInv id (fun y => { y with snap := some taken })
  ({ u with queries := u.queries ++ ((i.items.zipIdx.filter (fun (b : Bytes × Nat) => !isPad b.1)).map mk) } : State).stageBusy id

section

variable {v s u t : State} {id : CmdId} {i : Invocation} {a : Accord} {st : Stage} {k : Nat}

/-- What it means that an invocation stands before a stage. -/
theorem atStage_spec (h : s.atStage id i a st k = true) :
    s.inv? id = some i ∧ s.accordOf? i.accord = some a ∧ a.stages[i.stage]? = some st ∧ i.busy = false ∧ st.kind = k ∧
      ∃ o, s.outst? id = some o ∧ o.phase = .running := by
  simp only [State.atStage, Bool.and_eq_true, decide_eq_true_eq, Bool.not_eq_true', beq_iff_eq] at h
  obtain ⟨⟨⟨⟨⟨hi, ha⟩, hst⟩, hb⟩, hk⟩, ho⟩ := h
  cases hout : s.outst? id with
  | none => rw [hout] at ho; cases ho
  | some o => rw [hout] at ho; exact ⟨hi, ha, hst, hb, hk, o, rfl, of_decide_eq_true ho⟩

/-- A stage whose reads meet no poison goes on (R217, R222, R224). -/
theorem stageReading_clean {spans : List (Nat × Nat)} (hu : spans.foldl (fun t x => t.probe x.1 x.2) s = u)
    (hi : (u.inv? id).isSome = true) (hp : spans.any (fun x => u.poisoned x.1 x.2) = false) (go : State → State) :
    s.stageReading id spans go = go u := by
  simp only [State.stageReading, hu, Option.isNone_eq_false_iff.2 hi, hp, Bool.false_eq_true, if_false]

section

variable (hend : v.endStage id = s)
include hend

/-- A stage row does its stage's work on an invocation that stands before a stage of its kind, the stage before having ended (R293, log 46). -/
theorem stageRow_of (h : s.atStage id i a st k = true) (eff : State → Invocation → Accord → Stage → State) :
    v.stageRow id k eff = eff s i a st := by
  obtain ⟨hi, ha, hst, hb, hk, o, ho, hrun⟩ := atStage_spec h
  simp only [State.stageRow, hend, hi, ho, ha, hst, hb, hrun, hk, Bool.not_false, decide_true, Bool.and_self, if_true]

/-- A stage row, as the outcome of its event. -/
theorem nextStageRow_of (h : s.atStage id i a st k = true) (eff : State → Invocation → Accord → Stage → State) :
    (.next (v.stageRow id k eff) : Res) = .next (eff s i a st) :=
  congrArg Host.Outcome.next (stageRow_of hend h eff)

/-- SEARCH of an index that is not lost places one query for each item that is no pad, with the snapshot and epoch base that the invocation takes now, or has
taken before (R245, R255, R285, R291). -/
theorem exec_search {x : Index} (h : s.atStage id i a st 3 = true) (hx : s.index? st.target = some x) (hlost : x.lost = false)
    (hitems : i.items.all (fun b => isPad b || field b 0x10 8 &&& field b 8 8 == field b 0x10 8) = true) :
    exec (.search id) v = .next (s.stageReading id [a.workSpan 0xFF2, a.workSpan 0xFF3] (fun t =>
      t.placeSearch id i a st (i.snap.getD (st.target, t.lastSeq, x.epochBase)))) := by
  have hnone : i.items.any (fun b => !isPad b && field b 0x10 8 &&& field b 8 8 ≠ field b 0x10 8) = false := by
    rw [← Bool.not_eq_true', List.not_any_eq_all_not, ← hitems]
    congr 1; funext b
    simp only [ne_eq, Bool.not_and, Bool.not_not, decide_not, beq_eq_decide]
  refine congrArg Host.Outcome.next ((stageRow_of hend h _).trans ?_)
  simp only [hx, hlost, hnone, Bool.false_eq_true, if_false]; rfl

/-- GATHER of snippets that can all be read keeps them (R306). -/
theorem exec_gather {l : List (List Bytes)} (h : s.atStage id i a st 6 = true)
    (hl : s.snippetsAll a (st.prm 0x1C 2) i.cands = .ok l) :
    exec (.gather id) v = .next (((s.noteSnippets a (st.prm 0x1C 2) i.cands.flatten).updInv id (fun y => { y with snippets := l })).stageDone id) :=
  congrArg Host.Outcome.next ((stageRow_of hend h _).trans (by simp only [hl]))

/-- STORE of texts that all find a place and room in the write buffer keeps where they stand (R285, R291). -/
theorem exec_store {n : Ns} {texts : List StoredText} (h : s.atStage id i a st 8 = true) (hn : s.ns? st.target = some n)
    (hro : s.flash.readOnly = false)
    (ht : State.storeItems id n ((i.items.filter (fun b => !isPad b)).map a.textItem) s = .ok (t, texts))
    (hroom : (List.range 8).all (fun d => t.slotRoom d 0) = true) :
    exec (.store id) v = .next ((t.updInv id (fun y => { y with texts := texts })).stageDone id) :=
  congrArg Host.Outcome.next ((stageRow_of hend h _).trans (by simp only [hn, hro, ht, hroom, Bool.false_eq_true, if_false, if_true]))

/-- INSERT of items that the checks all give slots binds them (R266, R285, R291). -/
theorem exec_insert (h : s.atStage id i a st 9 = true) (hx : (s.index? st.target).isSome = true)
    (hu : [a.workSpan 0xFF2, a.workSpan 0xFF3].foldl (fun u x => u.probe x.1 x.2) s = u) (hi : (u.inv? id).isSome = true)
    (hp : [a.workSpan 0xFF2, a.workSpan 0xFF3].any (fun x => u.poisoned x.1 x.2) = false)
    (ht : State.insertItems id a st.target (prmTarget a.stages 8) (i.items.zipIdx.filter (fun b => !isPad b.1)) u = .ok t)
    (hroom : (List.range 8).all (fun d => t.slotRoom d 0) = true) : exec (.insert id) v = .next (t.stageDone id) := by
  refine congrArg Host.Outcome.next ((stageRow_of hend h _).trans ?_)
  simp only [Option.isNone_eq_false_iff.2 hx, stageReading_clean hu hi hp, ht, hroom, Bool.false_eq_true, if_false, if_true]

/-- LOADER of rows that can all be read writes them (R307). -/
theorem exec_loader (h : s.atStage id i a st 0xA = true)
    (ht : State.loadRows a st.target i.items.zipIdx s = .ok t) : exec (.loader id) v = .next (t.stageDone id) :=
  congrArg Host.Outcome.next ((stageRow_of hend h _).trans (by simp only [ht]))

/-- COLLECTIVE on a ring slot that the partition's rings fill, between tensors of tier 1 that suit it, starts its run (R285, R465; ring slots, log 30). -/
theorem exec_collectiveStage {hs rings : List Nat} {src dst : Desc} (h : s.atStage id i a st 0xC = true)
    (hhs : [a.bindHandle (st.prm 0x20 2), a.bindHandle (st.prm 0x22 2)] = hs) (hrings : s.accordRings a.part a.rings = rings)
    (hsrc : ((s.tensor? (hs.getD 0 0)).map (·.desc)).getD {} = src)
    (hdst : ((s.tensor? (hs.getD 1 0)).map (·.desc)).getD {} = dst) (hslot : st.prm 0x1D 1 < rings.length) (h1 : src.tier = 1)
    (h2 : dst.tier = 1) (hsuits : (collectiveImage src dst st).collectives.findSome? (s.collFault (collectiveImage src dst st) hs rings) = none) :
    exec (.collectiveStage id) v = .next (s.startStageRun i a st (collectiveImage src dst st) hs rings) :=
  congrArg Host.Outcome.next ((stageRow_of hend h _).trans (by
    simp only [hhs, hrings, hsrc, hdst, Nat.not_le.2 hslot, h1, h2, hsuits, ne_eq, not_true_eq_false, if_false]))

end

end

/-- Settles O15, stage by stage: each row finds its invocation at a stage of its kind and does that stage's work (the end of the stage before, log 46; the
rings of a partition's slots, log 30). -/
theorem accordStagesComplete : Obligations.AccordStagesComplete := by
  intro v id i a st s
  exact ⟨fun h => nextStageRow_of rfl h _, fun h => nextStageRow_of rfl h _, fun _ h hx hlost hitems => exec_search rfl h hx hlost hitems,
    fun h => nextStageRow_of rfl h _, fun h => nextStageRow_of rfl h _, fun _ h hl => exec_gather rfl h hl, fun h => nextStageRow_of rfl h _,
    fun _ _ h hn hro ht hroom => exec_store rfl h hn hro ht hroom, fun _ h hx hi hp ht hroom => exec_insert rfl h hx rfl hi hp ht hroom,
    fun _ h ht => exec_loader rfl h ht, fun h => nextStageRow_of rfl h _,
    fun h hslot h1 h2 hsuits => exec_collectiveStage rfl h rfl rfl rfl rfl hslot h1 h2 hsuits, fun h => nextStageRow_of rfl h _⟩

end Sys2Proof.Machine
end

section
/-!
PROOFS. The service accords family: the commands on namespaces and objects, and the commands on accords and models. One lemma for each case of a command says how
it ends or runs on once its checks pass; the statements are assembled from them.
-/
namespace Sys2Proof.Machine

open Sys2Proof

/-! ### Namespaces -/

/-- What NS_CREATE requires of its fields (R317, R318). -/
structure NsFieldsPass (ns type op encrypt capacity objects : Nat) : Prop where
  number : ns < 64
  known : type ≤ 2
  spare : op = 0 ∨ 7 ≤ op ∧ op ≤ 50
  flag : encrypt ≤ 1
  least : 4 ≤ capacity
  whole : capacity % 4 = 0
  held : if type = 1 then 1 ≤ objects ∧ objects ≤ capacity / 2 else objects = 0

/-- The spare part of a namespace in percent: OP, where 0 stands for 12 (R318). -/
def spareOf (op : Nat) : Nat := if op = 0 then 12 else op

/-- The key generation that NS_CREATE gives a namespace: a fresh one where it is encrypted (R582). -/
def State.freshKey (s : State) (encrypt : Nat) : Nat := if encrypt = 1 then s.sec.drbg + 1 else 0

/-- The state with the namespace that NS_CREATE makes: an encrypted one takes a fresh key, whose wrapped form its key slot holds (R317, R582). -/
def State.withNs (s : State) (ns type op encrypt capacity objects : Nat) : State :=
  { s with
    flash := { s.flash with ns := s.flash.ns ++ [{ nsid := ns, type := type, capacity := capacity, op := spareOf op, encrypt := decide (encrypt = 1)
                                                   objects := objects, keyGen := s.freshKey encrypt, keyLost := false }] }
    sec := { s.sec with
      drbg := s.sec.drbg + encrypt
      keySlots := if encrypt = 1 then setAt ns (s.freshKey encrypt) s.sec.keySlots else s.sec.keySlots
      keyGens := setAt ns (s.sec.keyGens.getD ns 0 + encrypt) s.sec.keyGens } }

/-- The state `t`, its namespace emptied, without the namespace; the key slot of an encrypted one is cleared (R321, R582). -/
def State.withoutNs (t : State) (ns : Nat) (encrypted : Bool) : State :=
  { t with
    flash := { t.flash with ns := t.flash.ns.filter (fun y => y.nsid ≠ ns) }
    sec := { t.sec with keySlots := if encrypted then setAt ns 0 t.sec.keySlots else t.sec.keySlots } }

/-- A namespace that no other command names, queued or running, and whose index is idle is not busy (R321). -/
theorem nsIdle_of {s : State} {id : CmdId} {ns : Nat} (hi : s.indexBusy ns = false)
    (ho : s.host.outst.all (fun y => y.id = id || y.phase == .posted || !s.cmdNames ns y.cmd) = true) :
    (!s.host.outst.any (fun y => y.id ≠ id && y.phase != .posted && s.cmdNames ns y.cmd) && !s.indexBusy ns) = true := by
  rw [hi, Bool.not_false, Bool.and_true, List.not_any_eq_all_not, ← ho]
  congr 1; funext y
  simp only [ne_eq, decide_not, bne, Bool.not_and, Bool.not_not]

/-- A command without HOLD_RESULT whose body completes where a place `w` is found, and waits where none is. -/
theorem startCmd_tries {s t : State} {id : CmdId} {c : Instr} {o : Outst} {body : State → Outst → Chk (State × Done)} {w : Option State}
    {f : State → State} (h : s.startable id c = some o) (hh : o.hold = false)
    (hb : body s o = w.elim (.ok (t, .waits)) (fun u => okDone (f u))) :
    s.startCmd id c body = w.elim s (fun u => (f u).complete o .ok 0 []) := by
  cases w with
  | none => exact startCmd_waits h hb
  | some u => exact startCmd_completes h hh hb

/-- The object that a command names, once it is found. -/
theorem objIdent_of {s : State} {ns ob : Nat} {b : Obj} (h : s.obj? ns ob = some b) : s.objIdent ns ob = .ok b := by
  simp only [State.objIdent, h]

section

variable {s : State} {id : CmdId} {o : Outst} {ns : Nat} {x : Ns}

/-- NS_CREATE of sound fields, on a free number that its partition owns, adds the namespace where the flash store holds it (R317, R318, R582). -/
theorem exec_nsCreate {type op encrypt capacity objects : Nat} (hs : s.startable id (.nsCreate id ns type op encrypt capacity objects) = some o)
    (hh : o.hold = false) (hheld : s.nsHeld ns = false) (hf : NsFieldsPass ns type op encrypt capacity objects)
    (howner : s.nsOwner ns = some (ioPart o)) (hfree : s.ns? ns = none)
    (hroom : s.flash.allocated + nsTakes capacity (spareOf op) ≤ s.flash.dataCapacity) :
    exec (.nsCreate id ns type op encrypt capacity objects) s = .next ((s.withNs ns type op encrypt capacity objects).complete o .ok 0 []) := by
  have hop : (op == 0 || (decide (7 ≤ op) && decide (op ≤ 50))) = true := by simpa using hf.spare
  have hcap : (decide (4 ≤ capacity) && capacity % 4 == 0) = true := by simpa using ⟨hf.least, hf.whole⟩
  have hobj : (if type = 1 then decide (1 ≤ objects) && decide (objects ≤ capacity / 2) else objects == 0) = true := by
    by_cases h1 : type = 1 <;> simpa [h1] using hf.held
  have hown : (s.nsOwner ns == some (ioPart o)) = true := beq_iff_eq.2 howner
  unfold spareOf at hroom
  refine congrArg Host.Outcome.next ((startNs_free hheld).trans (startCmd_completes hs hh ?_))
  simp only [noHold_of hh, need_of (decide_eq_true hf.number), need_of (decide_eq_true hf.known), need_of hop, need_of (decide_eq_true hf.flag),
    need_of hcap, need_of hobj, need_of hown, hfree, Option.isNone_none, need_true, need_of (decide_eq_true hroom), bind_ok, okDone, State.withNs,
    State.freshKey, spareOf]

/-- NS_DESTROY of a namespace that is not busy empties it under a commit number of its own and forgets it (R321; log 22). -/
theorem exec_nsDestroy {t : State} (hs : s.startable id (.nsDestroy id ns) = some o) (hh : o.hold = false) (hns : ns < 64) (hheld : s.nsHeld ns = false)
    (hx : s.nsNamed o ns = .ok x) (hi : s.indexBusy ns = false)
    (ho : s.host.outst.all (fun y => y.id = id || y.phase == .posted || !s.cmdNames ns y.cmd) = true)
    (ht : ({ s with commitSeq := nextSeq s.commitSeq } : State).emptyNs ns s.commitSeq = t) :
    exec (.nsDestroy id ns) s =
      .next (((t.withoutNs ns x.encrypt).spareEvents.settleFlush.settleCeiling).complete o .ok 0 []) :=
  congrArg Host.Outcome.next ((startNs_free hheld).trans (startCmd_completes hs hh (by
    simp only [noHold_of hh, inRange_of (decide_eq_true hns), hx, need_of (nsIdle_of hi ho), bind_ok, State.takeSeq, ht, State.withoutNs, okDone])))

/-! ### Objects -/

/-- The state in which the object that OBJ_CREATE makes is placed, under a commit number of its own (R323; log 22). -/
def State.withObj (s : State) (n : Obj) : State :=
  { s with commitSeq := nextSeq s.commitSeq, flash := { s.flash with objs := s.flash.objs ++ [n] } }

section

variable {ob : Nat} {b : Obj} (hns : ns < 64) (hopen : s.nsOpen o ns x = true) (ht : x.type = 1)
include hns hopen ht

/-- OBJ_CREATE of an object that there is not and whose extent is found ends with its table entry written, and waits while the flash store has no place for
the entry (R302, R322 to R324; log 22). -/
theorem exec_objCreate {flags len : Nat} {n : Obj} {w : Option State} (hs : s.startable id (.objCreate id ns flags ob len) = some o) (hh : o.hold = false)
    (hlen : len < 2 ^ 40) (hnew : s.obj? ns ob = none) (hob : ob < x.objects) (hro : s.flash.readOnly = false)
    (hmirror : bitAt flags 0 = false ∨ s.flash.canMirror = true)
    (hn : ({ s with flash := { s.flash with objs := s.flash.objs ++ s.pendingObjs } } : State).newExtent x ob len (bitAt flags 0) = some n)
    (hw : (s.withObj n).writeThrough s.commitSeq ns (ob / 256) 1 (tableBlock ns (ob / 256) (s.withObj n).flash.objs) = w) :
    exec (.objCreate id ns flags ob len) s = .next (w.elim s (fun u => u.settleFlush.settleCeiling.complete o .ok 0 [])) := by
  have hwritable : (!s.flash.readOnly) = true := by rw [hro]; rfl
  have hred : (!bitAt flags 0 || s.flash.canMirror) = true := by simpa using hmirror
  refine congrArg Host.Outcome.next ((startNs_free (nsOpen_free hopen)).trans (startCmd_tries (t := s.withObj n) hs hh ?_))
  unfold State.withObj at hw
  simp only [noHold_of hh, inRange_of (decide_eq_true hns), inRange_of (decide_eq_true hlen), nsIdent_of hopen, nsIs_of_type hopen ht, hnew,
    Option.isNone_none, need_true, need_of (decide_eq_true hob), need_of hwritable, need_of hred, hn, bind_ok, State.takeSeq, hw, State.withObj]
  cases w <;> rfl

/-- OBJ_WRITE within an object leaves its whole blocks uncommitted and runs on to its commit point; a part block at its end is read first (R324, R327). -/
theorem exec_objWrite {off n : Nat} {u : State} {us : List (Nat × Nat)} {data : Bytes} (hs : s.startable id (.objWrite id ns ob off) = some o)
    (hh : o.hold = false) (hb : s.obj? ns ob = some b) (halign : off % 4096 = 0) (hoff : off + o.ibufLen ≤ b.length) (hro : s.flash.readOnly = false)
    (hbad : s.hostBad o.ibuf o.ibufLen = false) (hw : s.writesHeld = false)
    (hus : unitsOf (b.first + off / 4096) (ceilDiv o.ibufLen 4096) = us) (hdirty : s.dirtyFits us.length = .ok ()) (hroom : s.roomFor us = true)
    (hu : s.chargeBytes o.id 16 o.ibufLen = u) (hdata : u.objBlocks b off (s.hostRd o.ibuf o.ibufLen) = .ok (n, data)) :
    exec (.objWrite id ns ob off) s = .next (
      let v := if o.ibufLen % 4096 = 0 then u else u.noteReads ns (b.first + off / 4096 + n - 1) 1
      (v.writeBlocks id ns (b.first + off / 4096) n data).markRunning id) := by
  have hstart : off ≤ b.length := by omega
  have hwritable : (!s.flash.readOnly) = true := by rw [hro]; rfl
  have hlen : (s.hostRd o.ibuf o.ibufLen).length = o.ibufLen := Mem.readN_length _ _ _ _
  exact congrArg Host.Outcome.next ((startNs_free (nsOpen_free hopen)).trans (startCmd_marks (room := 0) hs hh (by
    simp only [noHold_of hh, inRange_of (decide_eq_true hns), inRange_of (beq_iff_eq.2 halign), nsIdent_of hopen, nsIs_of_type hopen ht,
      objIdent_of hb, need_of (decide_eq_true hstart), need_of (decide_eq_true hoff), need_of hwritable, hus, hdirty, hw, hroom,
      Bool.not_true, Bool.or_self, Bool.false_eq_true, if_false, takeIbuf_of hbad, bind_ok, hu, hdata, hlen])))

/-- OBJ_READ within an object ends with its bytes (R324, R333). -/
theorem exec_objRead {off len : Nat} {bs : Bytes} (hs : s.startable id (.objRead id ns ob off len) = some o) (hb : s.obj? ns ob = some b)
    (hr : (o.hold || decide (len ≤ o.rbufLen)) = true) (hoff : off + len ≤ b.length)
    (hbs : s.readNsBytes ns (4096 * b.first + off) len = .ok bs) :
    exec (.objRead id ns ob off len) s =
      .next (s.ends ((s.noteBytes ns (4096 * b.first + off) len).chargeBytes id 14
        (s.readTraffic ns (b.first + off / 4096) (ceilDiv (off % 4096 + len) 4096))) o .ok 0 bs) := by
  have hstart : off ≤ b.length := by omega
  exact congrArg Host.Outcome.next ((startNs_free (nsOpen_free hopen)).trans (startCmd_now hs (by
    simp only [inRange_of (decide_eq_true hns), nsIdent_of hopen, hb, Option.isSome_some, Bool.or_true, need_true, needRbuf_of hr,
      nsIs_of_type hopen ht, objIdent_of hb, need_of (decide_eq_true hstart), need_of (decide_eq_true hoff), hbs, bind_ok, okResult])))

/-- OBJ_DELETE of an object puts its deletion among the command's changes and runs on to its commit point (R324, R331). -/
theorem exec_objDelete {us : List (Nat × Nat)} (hs : s.startable id (.objDelete id ns ob) = some o) (hh : o.hold = false)
    (hb : s.obj? ns ob = some b) (hus : partialUnits b.first b.blocks ++ unitsOf (ob / 256) 1 = us) (hdirty : s.dirtyFits us.length = .ok ())
    (hroom : s.roomFor us = true) : exec (.objDelete id ns ob) s = .next ((s.deleteObj id b).markRunning id) :=
  congrArg Host.Outcome.next ((startNs_free (nsOpen_free hopen)).trans (startCmd_marks (room := 0) hs hh (by
    simp only [noHold_of hh, inRange_of (decide_eq_true hns), nsIdent_of hopen, nsIs_of_type hopen ht, objIdent_of hb, hus, hdirty, hroom,
      Bool.not_true, Bool.false_eq_true, if_false, bind_ok])))

end

end

/-- Settles O5, command by command: each passes its checks on a namespace that is not held, and ends or runs on. NS_DESTROY and OBJ_CREATE end at once under a
commit number of their own, and an OBJ_CREATE whose table entry finds no place leaves the state as it is (log 22). -/
theorem namespaceAndObjectCommandsComplete : Obligations.NamespaceAndObjectCommandsComplete := by
  intro s id o ns hns
  refine ⟨fun type op encrypt capacity objects hs hh hheld htype hop hencrypt hleast hwhole hobj howner hfree hroom =>
      exec_nsCreate hs hh hheld ⟨hns, htype, hop, hencrypt, hleast, hwhole, hobj⟩ howner hfree hroom,
    fun x hheld hx hs hh hi ho => exec_nsDestroy hs hh hns hheld hx hi ho rfl,
    fun x hopen ht => ⟨fun flags ob len n hs hh hlen hnew hob hro hmirror hn => ?_, fun ob b hb => ⟨?_, ?_, ?_⟩⟩⟩
  · refine ⟨fun u hu => ?_, fun hnone => ?_⟩
    · rw [exec_objCreate hns hopen ht hs hh hlen hnew hob hro hmirror hn hu, Option.elim_some]
    · rw [exec_objCreate hns hopen ht hs hh hlen hnew hob hro hmirror hn hnone, Option.elim_none]
  · intro off halign hoff hs hh hro hbad hw us hdirty hroom n data hdata
    exact exec_objWrite hns hopen ht hs hh hb halign hoff hro hbad hw rfl hdirty hroom rfl hdata
  · exact fun off len bs hs hr hoff hbs => exec_objRead hns hopen ht hs hb hr hoff hbs
  · exact fun us hus hs hh hdirty hroom => exec_objDelete hns hopen ht hs hh hb hus.symm hdirty hroom

/-! ### Loading and unloading an accord -/

/-- A check of a definition that holds (R288). -/
theorem acNeed_of {c : Bool} (h : c = true) (check wher : Nat) : acNeed c check wher = .ok () := if_pos h

/-- What the checks of R288 after the first require in the state `u` of an accord `a` of partition `p`, whose working tensors then stand as `work` in the
state `w`. -/
structure State.AccordPasses (u : State) (a : Accord) (p : Nat) (w : State) (work : List (Nat × Desc)) : Prop where
  tensors : a.tensors.all (fun h => ((u.tensor? h).map (fun t => t.desc.part == p)).getD false) = true
  fits : checkStages (fun i st => acNeed (u.stageFits a (u.workTensors a) st) 2 (0x40 + 48 * i)) 0 a.stages = .ok ()
  resources : checkStages (u.stageResources a) 0 a.stages = .ok ()
  embeds : u.embedFits a = true
  placed : u.allocWork p (u.workTensors a) = some (w, work)

/-- The state `w` with the accord `a` under a new handle of partition `p`, its working tensors placed; and that handle (R286). -/
def State.withAccord (w : State) (p : Nat) (a : Accord) (work : List (Nat × Desc)) : State × Nat :=
  let z := w.newHandle p
  ({ z.1 with accords := z.1.accords ++ [{ a with handle := z.2, working := work }] }, z.2)

section

variable {s : State} {id : CmdId} {o : Outst} {acc : Nat} {a : Accord}

/-- ACCORD_LOAD of a sound definition whose parts stand ready adds the accord and answers its handle (R283 to R288). -/
theorem exec_accordLoad {ctx defLen n : Nat} {w : State} {work : List (Nat × Desc)} {hd : Bytes}
    (hs : s.startable id (.accordLoad id ctx defLen) = some o) (hctx : ctx < 16) (hx : (s.ctx? (ioPart o) ctx).isSome = true)
    (hr : (o.hold || decide (8 ≤ o.rbufLen)) = true) (hl : defLen ≤ o.ibufLen) (hb : s.hostBad o.ibuf defLen = false)
    (hhd : s.hostRd o.ibuf defLen = hd) (hn : defLen + 4 * field hd 0x10 2 = n) (hcheck : accordCheck1 hd = .ok ()) (hln : n ≤ o.ibufLen)
    (hbn : s.hostBad o.ibuf n = false)
    (ha : accordOf hd 0 (ioPart o) ctx (handlesOf (s.hostRd o.ibuf n) defLen (field hd 0x10 2)) = a)
    (hheld : a.namespaces.any s.nsHeld = false) (hp : (s.chargeBytes o.id 16 n).AccordPasses a (ioPart o) w work) :
    exec (.accordLoad id ctx defLen) s =
      .next (s.ends (w.withAccord (ioPart o) a work).1 o .ok 0 (leBytes 4 (w.withAccord (ioPart o) a work).2)) := by
  have hread : s.ibuf o defLen = .ok hd := by rw [← hhd]; exact if_neg (Bool.eq_false_iff.1 hb)
  have hgiven : s.ibuf o n = .ok (s.hostRd o.ibuf n) := if_neg (Bool.eq_false_iff.1 hbn)
  exact congrArg Host.Outcome.next (startCmd_now hs (by
    simp only [inRange_of (decide_eq_true hctx), hx, need_true, needIbuf_of hl, needRbuf_of hr, hread, bind_ok, hn, needIbuf_of hln, hcheck, hgiven,
      ha, hheld, Bool.false_eq_true, if_false, takeIbuf_of hbn, need_of hp.tensors, hp.fits, hp.resources, acNeed_of hp.embeds, hp.placed, okResult,
      loadFailure, State.withAccord]))

/-- ACCORD_UNLOAD of an accord that no invocation uses forgets it (R299). -/
theorem exec_accordUnload (hs : s.startable id (.accordUnload id acc) = some o) (hh : o.hold = false) (ha : s.accordIdent o acc = .ok a)
    (hfree : s.accordInUse acc = false) :
    exec (.accordUnload id acc) s =
      .next ((({ s with accords := s.accords.filter (fun x => x.handle ≠ acc) } : State).sweep).complete o .ok 0 []) :=
  congrArg Host.Outcome.next (startCmd_completes hs hh (by
    simp only [noHold_of hh, ha, hfree, Bool.not_false, need_true, bind_ok, okDone]))

/-! ### Invocations -/

section

variable {startStage : Nat} {seed : W64} {u : State} (hs : s.startable id (.accordRun id acc startStage seed) = some o)
  (hslice : s.sliceAllows id = true) (hheld : s.commandHeld (.accordRun id acc startStage seed) = false) (ha : s.accordIdent o acc = .ok a)
  (hopen : s.accordOpen a = .ok ())
include hs hslice hheld ha hopen

/-- ACCORD_RUN of a killed invocation binds its stages' tensors again and goes on with what the invocation has kept (R294, R297). -/
theorem exec_accordRun_again {i : Invocation} (hi : s.invocations.find? (fun x => x.id = id) = some i)
    (hd : s.dirtyFits (s.invPieces id a i.items) = .ok ())
    (hu : (if a.kind = 2 then .ok s else State.bindStages id a 0 a.stages ((s.openBinding id).bindWork id a)) = .ok u) :
    exec (.accordRun id acc startStage seed) s = .next (s.goesOn u o a.outLen) := by
  refine congrArg Host.Outcome.next (startCmd_runs hs ?_)
  simp only [hslice, hheld, Bool.not_true, Bool.or_self, Bool.false_eq_true, if_false, ha, bind_ok, hi, hopen, hd, trainFailure]
  split at hu
  · next hk => cases hu; rw [if_pos hk]
  · next hk => rw [if_neg hk, hu, bind_ok]

/-- ACCORD_RUN in its accord's context starts an invocation at the stage that it names, TRAIN's choice alone (R292 to R294). -/
theorem exec_accordRun_new (hi : s.invocations.all (fun i => i.id ≠ id) = true) (hctx : a.ctx = qCtx id.queue)
    (hstage : if a.kind = 2 then startStage < a.stages.length else startStage = 0) (hl : a.batch * a.itemLen ≤ o.ibufLen)
    (hr : (o.hold || decide (a.outLen ≤ o.rbufLen)) = true) (hu : s.startInvocation id o a startStage seed = .ok (u, .runs a.outLen)) :
    exec (.accordRun id acc startStage seed) s = .next (s.goesOn u o a.outLen) := by
  have hnone : s.invocations.find? (fun i => i.id = id) = none := by simpa using hi
  have hfirst : (if a.kind = 2 then decide (startStage < a.stages.length) else startStage == 0) = true := by
    split at hstage
    · next hk => rw [if_pos hk]; exact decide_eq_true hstage
    · next hk => rw [if_neg hk]; exact beq_iff_eq.2 hstage
  exact congrArg Host.Outcome.next (startCmd_runs hs (by
    simp only [hslice, hheld, Bool.not_true, Bool.or_self, Bool.false_eq_true, if_false, ha, bind_ok, hnone, inRange_of hfirst,
      need_of (beq_iff_eq.2 hctx), needIbuf_of hl, needRbuf_of hr, hopen, hu, trainFailure]))

end

/-! ### Models -/

/-- The state `u` with a model of a program over weights under a new handle of partition `p`; and that handle (R298). -/
def State.withModel (u : State) (p prog : Nat) (weights : List Nat) : State × Nat :=
  let z := u.newHandle p
  ({ z.1 with models := z.1.models ++ [{ handle := z.2, part := p, prog := prog, weights := weights }] }, z.2)

/-- MODEL_BIND of weights that fit the last slots of the program (R286, log 46) and are staged without poison answers the model's handle (R298, R304). -/
theorem exec_modelBind {prog count : Nat} {x : Prog} {u w : State} {hs : List Nat} (hstart : s.startable id (.modelBind id prog count) = some o)
    (h1 : 1 ≤ count) (hmax : count ≤ 4095) (hx : s.progIdent (ioPart o) prog = .ok x) (hl : 4 * count ≤ o.ibufLen)
    (hr : (o.hold || decide (4 ≤ o.rbufLen)) = true) (hb : s.hostBad o.ibuf (4 * count) = false) (hcount : count ≤ x.img.slots.length)
    (hu : s.chargeBytes o.id 16 (4 * count) = u) (hhs : handlesOf (s.hostRd o.ibuf (4 * count)) 0 count = hs)
    (hcheck : checkAll (fun j => u.weightCheck (ioPart o) x.img (x.img.slots.length - count + j) (hs.getD j 0)) (List.range count) = .ok ())
    (hw : State.stageAll id hs.eraseDups (u.withModel (ioPart o) prog hs).1 = some w)
    (hclean : hs.any (fun h => ((w.tensor? h).map (fun t => t.desc.state == 3)).getD true) = false) :
    exec (.modelBind id prog count) s = .next (s.ends w o .ok 0 (leBytes 4 (u.withModel (ioPart o) prog hs).2)) := by
  have hrange : (decide (1 ≤ count) && decide (count ≤ 4095)) = true := by simpa using ⟨h1, hmax⟩
  unfold State.withModel at hw
  exact congrArg Host.Outcome.next (startCmd_now hstart (by
    simp only [inRange_of hrange, hx, needIbuf_of hl, needRbuf_of hr, takeIbuf_of hb, bind_ok, hu, hhs, need_of (decide_eq_true hcount), hcheck, hw,
      hclean, Bool.false_eq_true, if_false, okResult, State.withModel]))

/-- MODEL_UNBIND of a model that no accord of its partition names forgets it (R299). -/
theorem exec_modelUnbind {model : Nat} {m : Model} (hs : s.startable id (.modelUnbind id model) = some o) (hh : o.hold = false)
    (hm : s.model? (ioPart o) model = some m)
    (hfree : s.accords.all (fun a => !(a.part == ioPart o && a.stages.any (fun st => st.runsModel && st.model == model))) = true) :
    exec (.modelUnbind id model) s =
      .next (({ s with models := s.models.filter (fun y => !(y.handle == model && y.part == ioPart o)) } : State).complete o .ok 0 []) := by
  rw [← List.not_any_eq_all_not] at hfree
  exact congrArg Host.Outcome.next (startCmd_completes hs hh (by simp only [noHold_of hh, hm, need_of hfree, bind_ok, okDone]))

end

/-- Settles O14, command by command: each passes its checks, and ends or runs on. The weights of a MODEL_BIND take the last slots of its program
(R286, log 46). -/
theorem accordCommandsComplete : Obligations.AccordCommandsComplete := by
  intro s id o
  refine ⟨fun ctx defLen w work hs hctx hx hr hl hb => ?_, fun acc a ha => ⟨fun hs hh hfree => exec_accordUnload hs hh ha hfree,
      fun startStage seed hs hslice hheld hopen => ⟨fun i u hi hd hu => exec_accordRun_again hs hslice hheld ha hopen hi hd hu,
        fun hi hctx hstage hl hr u hu => exec_accordRun_new hs hslice hheld ha hopen hi hctx hstage hl hr hu⟩⟩,
    fun prog count x hs h1 hmax hx hl hr hb hcount => ?_, fun model m hs hh hm hfree => exec_modelUnbind hs hh hm hfree⟩
  · intro hd n u bs a hcheck hln hbn hheld htensors hfits hresources hembeds hplaced
    exact exec_accordLoad hs hctx hx hr hl hb rfl rfl hcheck hln hbn rfl hheld ⟨htensors, hfits, hresources, hembeds, hplaced⟩
  · intro u hs' hcheck z w hw hclean
    exact exec_modelBind hs h1 hmax hx hl hr hb hcount rfl rfl hcheck hw hclean

end Sys2Proof.Machine
end

section
/-!
PROOFS. The flash store family: the block commands and STORE_FLUSH, the programming of slots, copies and pieces of a flush, background work, the journal and
its checkpoints, faults, and the values before the first start. One lemma for each case of a command or event says how it ends once its checks pass or its
condition holds; the statements are assembled from them.
-/
namespace Sys2Proof.Machine

open Sys2Proof

/-! ### Block commands (R319, R327, R331, R333) -/

/-- A block range that starts and ends within a namespace's capacity. -/
theorem rangeOk_of {x : Ns} {lba count : Nat} (hlba : lba < x.capacity) (hend : lba + count ≤ x.capacity) : x.rangeOk lba count = .ok () := by
  simp only [Ns.rangeOk, need_of (decide_eq_true hlba), need_of (decide_eq_true hend), bind_ok]

section

variable {s : State} {id : CmdId} {o : Outst}

section

variable {ns lba count : Nat} {x : Ns} (hns : ns < 64) (h1 : 1 ≤ count) (hmax : count ≤ 65536) (hopen : s.nsOpen o ns x = true) (ht : x.type = 0)
  (hlba : lba < x.capacity) (hend : lba + count ≤ x.capacity)
include hns h1 hmax hopen ht hlba hend

/-- BLOCK_READ of readable blocks ends with them (R333). -/
theorem exec_blockRead {bs : Bytes} (hs : s.startable id (.blockRead id ns lba count) = some o)
    (hr : (o.hold || decide (4096 * count ≤ o.rbufLen)) = true) (hbs : s.readBlocks ns lba count = .ok bs) :
    exec (.blockRead id ns lba count) s =
      .next (s.ends ((s.noteReads ns lba count).chargeBytes id 14 (s.readTraffic ns lba count)) o .ok 0 bs) :=
  congrArg Host.Outcome.next ((startNs_free (nsOpen_free hopen)).trans (startCmd_now hs (by
    simp only [inRange_of, hns, h1, hmax, decide_true, Bool.and_self, nsIdent_of hopen, needRbuf_of hr, nsIs_of_type hopen ht, rangeOk_of hlba hend,
      hbs, bind_ok, okResult])))

/-- BLOCK_WRITE for which the buffer has room leaves its data in uncommitted slots and runs on to its commit point (R327). -/
theorem exec_blockWrite (hs : s.startable id (.blockWrite id ns lba count) = some o) (hh : o.hold = false) (hl : 4096 * count ≤ o.ibufLen)
    (hro : s.flash.readOnly = false) (hdirty : s.dirtyFits (unitsOf lba count).length = .ok ()) (hw : s.writesHeld = false)
    (hroom : s.roomFor (unitsOf lba count) = true) (hb : s.hostBad o.ibuf (4096 * count) = false) :
    exec (.blockWrite id ns lba count) s =
      .next (((s.chargeBytes o.id 16 (4096 * count)).writeBlocks id ns lba count (s.hostRd o.ibuf (4096 * count))).markRunning id) :=
  congrArg Host.Outcome.next ((startNs_free (nsOpen_free hopen)).trans (startCmd_marks (room := 0) hs hh (by
    simp only [noHold_of hh, inRange_of, hns, h1, hmax, decide_true, Bool.and_self, nsIdent_of hopen, needIbuf_of hl, nsIs_of_type hopen ht,
      rangeOk_of hlba hend, hro, Bool.not_false, need_true, hdirty, hw, hroom, Bool.not_true, Bool.or_self, Bool.false_eq_true, if_false,
      takeIbuf_of hb, bind_ok])))

/-- BLOCK_TRIM for whose parts the buffer has room puts its unmaps among the command's changes and runs on to its commit point (R331). -/
theorem exec_blockTrim (hs : s.startable id (.blockTrim id ns lba count) = some o) (hh : o.hold = false)
    (hdirty : s.dirtyFits (partialUnits lba count).length = .ok ()) (hroom : s.roomFor (partialUnits lba count) = true) :
    exec (.blockTrim id ns lba count) s = .next ((s.trimRun id ns lba count).markRunning id) :=
  congrArg Host.Outcome.next ((startNs_free (nsOpen_free hopen)).trans (startCmd_marks (room := 0) hs hh (by
    simp only [noHold_of hh, inRange_of, hns, h1, hmax, decide_true, Bool.and_self, nsIdent_of hopen, nsIs_of_type hopen ht, rangeOk_of hlba hend,
      hdirty, hroom, Bool.not_true, Bool.false_eq_true, if_false, bind_ok])))

end

/-- STORE_FLUSH ends at once where no slot is committed (R329). -/
theorem exec_storeFlush_nothing (hs : s.startable id (.storeFlush id) = some o) (hh : o.hold = false)
    (hnone : s.flash.slots.all (fun x => x.seq.isNone) = true) : exec (.storeFlush id) s = .next (s.complete o .ok 0 []) := by
  have hwait : s.flash.slots.filter (fun x => x.seq.isSome) = [] := by simpa using hnone
  exact congrArg Host.Outcome.next (startCmd_completes hs hh (by simp only [noHold_of hh, bind_ok, hwait, List.isEmpty_nil, if_true, okDone]))

/-- STORE_FLUSH waits for every slot that is committed by now (R329). -/
theorem exec_storeFlush_waits (hs : s.startable id (.storeFlush id) = some o) (hh : o.hold = false)
    (hsome : s.flash.slots.any (fun x => x.seq.isSome) = true) :
    exec (.storeFlush id) s =
      .next (((s.flash.slots.filter (fun x => x.seq.isSome)).foldl (fun t x => t.addPend id (.slot x.sid)) s).markRunning id) := by
  have hwait : (s.flash.slots.filter (fun x => x.seq.isSome)).isEmpty = false := by simpa [Option.isSome_iff_ne_none] using hsome
  exact congrArg Host.Outcome.next (startCmd_marks (room := 0) hs hh (by
    simp only [noHold_of hh, bind_ok, hwait, Bool.false_eq_true, if_false]))

end

/-- Settles O4, command by command: each passes its checks on a namespace that is open to it, and ends or runs on. -/
theorem blockCommandsComplete : Obligations.BlockCommandsComplete := by
  intro s id o
  refine ⟨fun ns lba count x hns h1 hmax hopen ht hlba hend => ⟨?_, ?_, ?_⟩, fun hs hh =>
    ⟨exec_storeFlush_nothing hs hh, exec_storeFlush_waits hs hh⟩⟩
  · exact fun bs hs hr hbs => exec_blockRead hns h1 hmax hopen ht hlba hend hs hr hbs
  · exact fun hs hh hl hro hdirty hw hroom hb => exec_blockWrite hns h1 hmax hopen ht hlba hend hs hh hl hro hdirty hw hroom hb
  · exact fun hs hh hdirty hroom => exec_blockTrim hns h1 hmax hopen ht hlba hend hs hh hdirty hroom

/-! ### Programming (R327 to R330, R347, R348, R364, R366) -/

section

variable {s : State} {slot : Nat}

/-- SLOT_PROGRAM of the committed slot whose turn it is starts its program in the place that is found (R327 to R329, R342). -/
theorem exec_slotProgram {x : Slot} {t : State} {loc : Nat} {mirror : Bool} (hx : s.flash.slots.find? (fun y => y.sid = slot) = some x)
    (hseq : x.seq.isSome = true) (hprog : x.programming = none) (hfree : s.flashFree = true) (hnext : s.isNextSlot x = true)
    (hplace : s.placeFor x.ns x.unit = (t, some (loc, mirror))) :
    exec (.slotProgram slot) s =
      .next { t with flash := { t.flash with
        slots := mapIf (fun y => y.sid = slot) (fun y => { y with programming := some loc, mirror := mirror }) t.flash.slots } } := by
  have hcommitted : x.seq.isNone = false := by rw [← Option.not_isSome, hseq]; rfl
  exact congrArg Host.Outcome.next (by
    simp only [hx, hcommitted, hprog, hfree, hnext, hplace, Option.isSome_none, Bool.not_true, Bool.or_self, Bool.false_eq_true, if_false])

section

variable (hidle : (s.power.flushing || s.power.draining) = false) (hfree : s.flashFree = true)
include hidle hfree

section

variable {x : Slot} {loc : Nat} (hx : s.flash.slots.find? (fun y => y.sid = slot) = some x) (hprog : x.programming = some loc)
  (hver : x.verified = false)
include hx hprog hver

/-- A slot's program that has succeeded verifies the slot (R328, R330, R370). -/
theorem exec_nandProgramDone_slot : exec (.nandProgramDone slot) s = .next (s.slotDone x loc).settleErases :=
  congrArg Host.Outcome.next (by simp only [hidle, hfree, hx, hprog, hver, Bool.not_true, Bool.false_eq_true, if_false])

/-- A slot's program that has failed retires its block (R347). -/
theorem exec_nandProgramFail_slot : exec (.nandProgramFail slot) s = .next ((s.chargeProgram x).retireFailed x.mirror loc) :=
  congrArg Host.Outcome.next (by simp only [hidle, hfree, hx, hprog, hver, Bool.not_true, Bool.false_eq_true, if_false])

end

section

variable {c : Copy} (hx : s.flash.slots.find? (fun y => y.sid = slot) = none) (hc : s.flash.copies.find? (fun y => y.key = slot) = some c)
include hx hc

/-- A copy that has been programmed is written and mapped (R330, R348). -/
theorem exec_nandProgramDone_copy : exec (.nandProgramDone slot) s = .next (s.copyDone c).settleErases :=
  congrArg Host.Outcome.next (by simp only [hidle, hfree, hx, hc, Bool.not_true, Bool.false_eq_true, if_false])

/-- A copy whose program has failed retires its block (R348). -/
theorem exec_nandProgramFail_copy :
    exec (.nandProgramFail slot) s = .next ((s.chargeDevice 15 (s.unitTraffic * (if c.mirror then 2 else 1))).retireFailed c.mirror c.loc) :=
  congrArg Host.Outcome.next (by simp only [hidle, hfree, hx, hc, Bool.not_true, Bool.false_eq_true, if_false])

end

end

section

variable {p : FPiece} {rest : List FPiece} (hflush : (s.power.flushing || s.power.draining) = true) (htodo : s.flash.area.todo = p :: rest)
  (htails : s.flash.area.tailsSaved = true) (hkey : p.key = slot)
include hflush htodo htails hkey

/-- In a flush the piece at the front is written (R362, R365). -/
theorem exec_nandProgramDone_piece :
    exec (.nandProgramDone slot) s =
      .next { s with flash := { s.flash with area := { s.flash.area with
        todo := rest, written := s.flash.area.written ++ [p], writtenAt := some s.now } } } :=
  congrArg Host.Outcome.next (by
    simp only [hflush, State.pieceDone, htodo, htails, hkey, beq_self_eq_true, Bool.and_self, if_true])

/-- In a flush a piece whose program has failed takes its segment to the spare space, where that has room (R366). -/
theorem exec_nandProgramFail_piece {gone : List FPiece} (hgone : s.flash.area.written.filter (fun q => q.sameSegment p) = gone)
    (hspare : gone.length < s.flash.area.spare) :
    exec (.nandProgramFail slot) s =
      .next { s with flash := { s.flash with area := { s.flash.area with
        todo := gone ++ s.flash.area.todo, written := s.flash.area.written.filter (fun q => !q.sameSegment p)
        spare := s.flash.area.spare - (gone.length + 1) } } } :=
  congrArg Host.Outcome.next (by
    simp only [hflush, State.pieceFail, htodo, htails, hkey, hgone, hspare, beq_self_eq_true, decide_true, Bool.and_self, if_true])

end

end

/-- Settles O33: a program's end is that of a slot, of a copy, or in a flush of the piece at the front, as its key says (logs 32 and 80). -/
theorem slotProgrammingCompletes : Obligations.SlotProgrammingCompletes := by
  intro s slot
  refine ⟨fun x t loc mirror hx hseq hprog hfree hnext hplace => exec_slotProgram hx hseq hprog hfree hnext hplace,
    fun x loc hidle hfree hx hprog hver => ?_,
    fun c hidle hfree hx hc => ⟨exec_nandProgramDone_copy hidle hfree hx hc, exec_nandProgramFail_copy hidle hfree hx hc⟩,
    fun p rest hflush htodo htails hkey => ⟨exec_nandProgramDone_piece hflush htodo htails hkey, fun hspare => ?_⟩⟩
  · obtain rfl : x.sid = slot := by simpa using List.find?_some hx
    exact ⟨exec_nandProgramDone_slot hidle hfree hx hprog hver, exec_nandProgramFail_slot hidle hfree hx hprog hver⟩
  · exact exec_nandProgramFail_piece hflush htodo htails hkey rfl hspare

/-! ### Background work (R330, R333, R340 to R345, R349, R375) -/

/-- A fold whose steps read what no step changes may read it where the fold begins. -/
theorem foldl_reads {α β γ : Type} (g : β → γ) {f : γ → β → α → β} (hf : ∀ c b x, g (f c b x) = g b) (l : List α) (b : β) :
    l.foldl (fun u x => f (g u) u x) b = l.foldl (f (g b)) b := by
  induction l generalizing b with
  | nil => rfl
  | cons x xs ih => rw [List.foldl_cons, List.foldl_cons, ih, hf]

/-- Counting page reads leaves the rows of a block as they are. -/
theorem addReads_pagesPer (s : State) (g sb m n group : Nat) (use : SbUse) :
    (s.addReads g sb m n).flash.pagesPer group use = s.flash.pagesPer group use := rfl

/-- The state in which a scan of a superblock has read every 64th row of each of its blocks (R344; log 23). -/
def State.scanned (s : State) (group sb : Nat) (use : SbUse) : State :=
  (List.range 16).foldl (fun u m => u.addReads group sb m (ceilDiv (s.flash.pagesPer group use) 64)) s

/-- Counting the reads of a scan leaves the rows of a block as they are, so each count may read them anew. -/
theorem scanned_eq (s : State) (group sb : Nat) (use : SbUse) :
    (List.range 16).foldl (fun u m => u.addReads group sb m (ceilDiv (u.flash.pagesPer group use) 64)) s = s.scanned group sb use := by
  have hkept (n : Nat) (u : State) (m : Nat) : (u.addReads group sb m (ceilDiv n 64)).flash.pagesPer group use = u.flash.pagesPer group use :=
    addReads_pagesPer u group sb m _ group use
  unfold State.scanned
  exact foldl_reads (fun u => u.flash.pagesPer group use) hkept (List.range 16) s

/-- The corrected bits from which a scan queues a superblock of the group for refresh (R345). -/
def State.refreshLimit (s : State) (group : Nat) : Nat := ((s.flash.profileOf group).map (·.refreshBits)).getD 0

/-- Whether the worst codeword of a scan queues its superblock for refresh: it needed retry, or corrected bits up to the limit (R345). -/
def dueForRefresh (limit : Nat) : CwOutcome → Bool
  | .hard n => decide (limit ≤ n)
  | _ => true

/-- A codeword that needed more than hard decoding is always due. -/
theorem dueForRefresh_of_ne_hard {limit : Nat} {out : CwOutcome} (h : ∀ n, out ≠ .hard n) : dueForRefresh limit out = true := by
  cases out with
  | hard n => exact absurd rfl (h n)
  | _ => rfl

section

variable {s : State} {group : Nat} {x : Superblock}

section

variable {sb : Nat} (hx : s.sb? group sb = some x)
include hx

/-- A block whose read count has reached the threshold queues its superblock for refresh (R344). -/
theorem exec_readCountThreshold {member : Nat} (hreads : s.refreshAt group ≤ x.reads.getD member 0) :
    exec (.readCountThreshold group sb member) s = .next (s.queueRefresh group sb) :=
  congrArg Host.Outcome.next (by simp only [hx, hreads, if_true])

/-- A scan of a closed superblock counts its reads, and queues the superblock where its worst codeword is due (R344, R345). -/
theorem exec_retentionScan (hclosed : x.state = .closed) (worst : CwOutcome) :
    exec (.retentionScan group sb worst) s =
      .next (
        let t := s.scanned group sb x.use
        if dueForRefresh (t.refreshLimit group) worst then t.queueRefresh group sb else t) := by
  refine congrArg Host.Outcome.next ?_
  simp only [hx, hclosed, if_true, scanned_eq]
  cases worst <;> rfl

/-- SUPERBLOCK_REFRESH starts the collection of a closed data superblock that is queued (R341, R345). -/
theorem exec_superblockRefresh_closed (hfree : s.flashFree = true) (hdue : x.refresh = true) (huse : x.use = .data) (hclosed : x.state = .closed)
    (hidle : s.busySb x = false) : exec (.superblockRefresh group sb) s = .next (s.collect x).settleErases :=
  congrArg Host.Outcome.next (by
    simp only [hx, hfree, hdue, huse, hclosed, hidle, decide_true, Bool.not_false, Bool.and_self, if_true])

/-- SUPERBLOCK_REFRESH of a superblock under collection starts the copies that are left (R330, R341). -/
theorem exec_superblockRefresh_collecting (hfree : s.flashFree = true) (hdue : x.refresh = true) (hcollecting : x.state = .collecting) :
    exec (.superblockRefresh group sb) s = .next (s.pushCopies x).settleErases := by
  have hnotClosed : decide (SbState.collecting = SbState.closed) = false := rfl
  exact congrArg Host.Outcome.next (by
    simp only [hx, hfree, hdue, hcollecting, hnotClosed, decide_true, Bool.and_false, Bool.false_and, Bool.and_self, Bool.false_eq_true, if_false,
      if_true])

/-- The end of an erase on channels that no test has borrowed leaves the superblock blank and free (R333, R344, R349). -/
theorem exec_nandEraseDone (herasing : x.state = .erasing) (hfree : s.flashFree = true)
    (hchannels : (List.range 16).all (fun m => !s.borrowed (16 * group + m)) = true) :
    exec (.nandEraseDone group sb) s = .next (s.erased x) := by
  have hgo : (!(List.range 16).any (fun m => s.borrowed (16 * group + m))) = true := by rw [List.not_any_eq_all_not]; exact hchannels
  exact congrArg Host.Outcome.next (by simp only [hx, herasing, hfree, hgo, decide_true, Bool.and_self, if_true])

end

/-- GC_COLLECT goes on with the superblock that is being collected or dissolved (R330, R340). -/
theorem exec_gcCollect_goesOn (hfree : s.flashFree = true)
    (hx : s.flash.sbs.find? (fun x => x.group = group && (x.state = .collecting || x.state = .dissolving)) = some x) :
    exec (.gcCollect group) s = .next (s.pushCopies x).settleErases :=
  congrArg Host.Outcome.next (by simp only [hfree, Bool.not_true, Bool.false_eq_true, if_false, hx])

/-- GC_COLLECT starts the collection of the victim where none is under way (R340). -/
theorem exec_gcCollect_victim (hfree : s.flashFree = true)
    (hnone : s.flash.sbs.find? (fun x => x.group = group && (x.state = .collecting || x.state = .dissolving)) = none)
    (hx : s.victim group = some x) : exec (.gcCollect group) s = .next (s.collect x).settleErases :=
  congrArg Host.Outcome.next (by simp only [hfree, Bool.not_true, Bool.false_eq_true, if_false, hnone, hx])

/-- WEAR_LEVEL relocates the least erased closed superblock where the spread of erases is beyond the threshold (R341, R343). -/
theorem exec_wearLevel {closed : List Superblock} {lo hi : Superblock}
    (hclosed : s.flash.sbs.filter (fun x => x.group = group && x.use = .data && x.state = .closed && !s.busySb x) = closed)
    (hlo : leastBy (fun a b => decide (a.eraseCount < b.eraseCount)) closed = some lo)
    (hhi : leastBy (fun a b => decide (b.eraseCount < a.eraseCount)) closed = some hi)
    (hfree : s.flashFree = true)
    (hspread : s.cfg.tunables.getD 4 5 * ((s.flash.profileOf group).map (·.peRated)).getD 0 < 100 * (hi.eraseCount - lo.eraseCount)) :
    exec (.wearLevel group) s = .next (s.collect lo).settleErases :=
  congrArg Host.Outcome.next (by simp only [hclosed, hlo, hhi, hfree, hspread, decide_true, Bool.and_self, if_true])

end

/-- Settles O35: a scan takes its worst codeword from the row and counts its reads for every member (log 23). -/
theorem flashBackgroundCompletes : Obligations.FlashBackgroundCompletes := by
  intro s group
  refine ⟨fun x sb hx => ⟨fun member hreads => exec_readCountThreshold hx hreads, fun hclosed => ?_,
      fun hfree hdue huse hclosed hidle => exec_superblockRefresh_closed hx hfree hdue huse hclosed hidle,
      fun hfree hdue hcollecting => exec_superblockRefresh_collecting hx hfree hdue hcollecting,
      fun herasing hfree hchannels => exec_nandEraseDone hx herasing hfree hchannels⟩,
    fun hfree => ⟨fun x hx => exec_gcCollect_goesOn hfree hx, fun x hnone hx => exec_gcCollect_victim hfree hnone hx⟩,
    fun lo hi hlo hhi hfree hspread => exec_wearLevel rfl hlo hhi hfree hspread⟩
  intro t limit
  have hscan := exec_retentionScan hx hclosed
  exact ⟨fun n hn => (hscan (.hard n)).trans (congrArg Host.Outcome.next (if_pos (decide_eq_true hn))),
    fun n hn => (hscan (.hard n)).trans (congrArg Host.Outcome.next (if_neg fun h => Nat.not_le.2 hn (of_decide_eq_true h))),
    fun out hout => (hscan out).trans (congrArg Host.Outcome.next (if_pos (dueForRefresh_of_ne_hard hout)))⟩

/-! ### The journal, its checkpoints and recalibration (R308, R338, R339) -/

section

variable {s : State}

/-- JOURNAL_PIECE_WRITE makes the records of a die that wait for no program durable, up to a piece of them, where each finds its place (R338). -/
theorem exec_journalPieceWrite {die : Nat} {mine ready rs : List JRec} {t : State} (hfree : s.flashFree = true)
    (hmine : s.flash.jbuf.filter (fun r => r.die = die) = mine) (hready : mine.filter (fun r => !s.recWaits r) = ready)
    (hw : s.writeRecs (ready.take pieceRecs) = (t, rs)) (hplaced : rs.all (fun r => r.loc != 0) = true) :
    exec (.journalPieceWrite die) s =
      .next ({ t with flash := { t.flash with
        jdur := t.flash.jdur ++ rs
        jbuf := t.flash.jbuf.filter (fun r => r.die ≠ die) ++ mine.filter s.recWaits ++ ready.drop pieceRecs } } : State).settleErases := by
  have hall : rs.any (fun r => r.loc = 0) = false := by simpa using hplaced
  show execJournalPieceWrite die s = _
  simp only [execJournalPieceWrite, hfree, Bool.not_true, Bool.false_eq_true, if_false, hmine, hready, hw, hall]

/-- MAP_CHECKPOINT of a segment whose records are all written and whose pages all find their place writes it to the older of its areas, and frees the
journal records that every segment's checkpoint covers (R339). -/
theorem exec_mapCheckpoint {ns segment units : Nat} {n : Ns} {gids : List Nat} {t : State} {ents : List (Nat × MapEntry)} {w : State × List Nat}
    (hns : s.ns? ns = some n) (hfree : s.flashFree = true) (hseg : segment < n.segments)
    (hgids : (s.flash.jbuf.filter (fun r => r.kind == 0 && r.ns == ns && segOf r.unit == segment)).map (·.gid) = gids)
    (ht : s.journalOut (fun r => decide (r.gid ∈ gids)) = t)
    (hents : (t.flash.durableMap.filter (fun e => e.1.1 == ns && segOf e.1.2 == segment && e.2 != MapEntry.unmapped)).map (fun e => (e.1.2, e.2)) = ents)
    (hunits : min (2 ^ 20) (ceilDiv n.capacity 4 - segment * 2 ^ 20) = units)
    (hw : State.programSlc .checkpoint (chunks 16384 (ceilDiv (5 * units) 16384 + 1) (segBytes ents (segment * 2 ^ 20) units)) t = w)
    (hplaced : 0 ∉ w.2) (hout : w.1.flash.jbuf.any (fun r => decide (r.gid ∈ gids)) = false) :
    exec (.mapCheckpoint ns segment) s = .next (
      let u := w.1
      let area := !((u.flash.ckpt? ns segment).map (·.area)).getD true
      ({ u with flash := ({ u.flash with
        ckpts := u.flash.ckpts.filter (fun x => !(x.ns = ns && x.seg == segment && x.area == area)) ++
          [{ ns := ns, seg := segment, area := area, seq := u.flash.coveredSeq ns segment, gid := u.flash.nextGid, pages := w.2, ents := ents }] } :
            FlashSt).freeJournal } : State).settleErases) := by
  have hgo : (!s.flashFree || decide (n.segments ≤ segment)) = false := by rw [hfree, decide_eq_false (Nat.not_le.2 hseg)]; rfl
  have hwritten : (decide (0 ∈ w.2) || w.1.flash.jbuf.any (fun r => decide (r.gid ∈ gids))) = false := by
    rw [decide_eq_false hplaced, hout]; rfl
  refine congrArg Host.Outcome.next ?_
  rw [hns]
  refine (if_neg (Bool.eq_false_iff.1 hgo)).trans ?_
  -- what is written is rewritten as a whole: to reduce it would cut out the bytes of a segment page by page
  subst hgids ht hents hunits
  obtain ⟨u, pages⟩ := w
  extract_lets gids t ents units
  have hpages : State.programSlc .checkpoint (chunks 16384 (ceilDiv (5 * units) 16384 + 1) (segBytes ents (segment * 2 ^ 20) units)) t = (u, pages) := hw
  rw [hpages]
  exact if_neg (Bool.eq_false_iff.1 hwritten)

/-- CHANNEL_RECALIBRATE of a channel in use notes when its training took place (R308). -/
theorem exec_channelRecalibrate {channel : Nat} (hused : s.flash.groupState.getD (channel / 16) 0 = 1) :
    exec (.channelRecalibrate channel) s = .next { s with flash := { s.flash with recal := ainsert channel s.now s.flash.recal } } :=
  congrArg Host.Outcome.next (if_pos hused)

end

/-- Settles O36: a piece takes 2,728 records of its die (log 90), in order, without those that wait for slots of their own commit (log 79). -/
theorem journalStepsComplete : Obligations.JournalStepsComplete := fun _ =>
  ⟨fun _ _ _ hfree hw hplaced => exec_journalPieceWrite hfree rfl rfl hw hplaced,
    fun _ _ _ hns hfree hseg hplaced hout => exec_mapCheckpoint hns hfree hseg rfl rfl rfl rfl rfl hplaced hout,
    fun _ hused => exec_channelRecalibrate hused⟩

/-! ### Faults of units, processors and clocks (R351, R354, R355, R598, R618, R619, R624, R625, R628) -/

/-- The state after a single fault: the unit is contained, which costs `hit` commands and those that the containment kills, and the fault recorded and
told (R619). -/
def State.faultContained (s : State) (unit hit : Nat) : State :=
  ((s.containUnit unit).1.recordFault unit 1 (hit + (s.containUnit unit).2)).unitEvent unit

/-- Whether a compute die at one end of a mesh link is cut off from the others. -/
def State.linkCuts (s : State) (unit : Nat) : Bool := s.dieCut (unitIdx unit / 8) || s.dieCut (unitIdx unit % 8)

/-- Processors of the control complex in service. -/
def State.processorsUp (s : State) : Nat := (List.range 8).countP (fun i => !s.unitDown 0xE i)

/-- Whether a fault of the unit is device-class in itself: a die's, a stack's or the hub die's, or SCLK's (R624). -/
def deviceClass (unit : Nat) : Prop := unitKind unit ∈ [0xA, 0xB, 0xD] ∨ unit = 0 ∨ unit = 2

/-- What a single fault comes to: it stops the device where it cuts off a die or leaves fewer than four processors (R624). -/
def State.faultOutcome (t : State) (unit : Nat) : State :=
  if unitKind unit == 9 && t.linkCuts unit then
    t.deviceFaultOf (0xA000 + (if t.dieCut (unitIdx unit / 8) then unitIdx unit / 8 else unitIdx unit % 8)) true
  else if unitKind unit == 0xE && decide (t.processorsUp < 4) then t.deviceFaultOf unit true
  else t

section

variable {s : State} {unit : Nat} (hpow : s.power.powered = true) (hlive : s.silent = false) (hunit : s.unitExists unit = true)
  (hup : unit ∉ s.health.log.outOfService)
include hpow hlive hunit hup

/-- A fault of a device-class unit stops the device (R624, R625). -/
theorem unitFault_deviceClass (hclass : deviceClass unit) (hit : Nat) : s.unitFault unit hit = s.deviceFaultOf unit true := by
  have hcond : (unitKind unit == 0xA || unitKind unit == 0xB || unitKind unit == 0xD || unit == 0 || unit == 2) = true := by
    simpa [deviceClass, or_assoc] using hclass
  simp only [State.unitFault, hpow, hlive, hunit, hup, hcond, Bool.not_true, decide_false, Bool.or_self, Bool.false_eq_true, if_false, if_true,
    State.deviceFault]

/-- A fault of another unit is contained and recorded, and comes to what the state after that says (R619, R624). -/
theorem unitFault_single (hclass : ¬ deviceClass unit) (hit : Nat) :
    s.unitFault unit hit = (s.faultContained unit hit).faultOutcome unit := by
  have hcond : (unitKind unit == 0xA || unitKind unit == 0xB || unitKind unit == 0xD || unit == 0 || unit == 2) = false := by
    simpa [deviceClass, and_assoc] using hclass
  simp only [State.unitFault, hpow, hlive, hunit, hup, hcond, Bool.not_true, decide_false, Bool.or_self, Bool.false_eq_true, if_false,
    State.deviceFault]
  rfl

end

section

variable {t : State} {unit : Nat}

/-- A mesh link that cuts off a die stops the device with that die's fault (R624). -/
theorem faultOutcome_cuts (hk : unitKind unit = 9) (hcut : t.linkCuts unit = true) :
    t.faultOutcome unit = t.deviceFaultOf (0xA000 + (if t.dieCut (unitIdx unit / 8) then unitIdx unit / 8 else unitIdx unit % 8)) true :=
  if_pos (by rw [hk, hcut]; rfl)

/-- A processor that leaves fewer than four stops the device (R624). -/
theorem faultOutcome_fewProcessors (hk : unitKind unit = 0xE) (hfew : t.processorsUp < 4) : t.faultOutcome unit = t.deviceFaultOf unit true :=
  (if_neg (by rw [hk]; exact Bool.false_ne_true)).trans (if_pos (by rw [hk, decide_eq_true hfew]; rfl))

/-- Any other single fault ends with its containment. -/
theorem faultOutcome_stays (hcut : unitKind unit = 9 → t.linkCuts unit = false) (hproc : unitKind unit = 0xE → 4 ≤ t.processorsUp) :
    t.faultOutcome unit = t :=
  (if_neg (by simpa using hcut)).trans (if_neg (by simpa using hproc))

end

section

variable {s : State} (hpow : s.power.powered = true)
include hpow

section

variable {proc : Nat} {cmds hit : List CmdId} {t u : State} {recent : Nat} (hlive : s.silent = false) (hproc : proc < 8)
  (hup : 0xE000 + proc ∉ s.health.log.outOfService) (hhit : cmds.filter (fun id => id ∈ s.runningIds) = hit)
  (ht : hit.foldl (fun u id => u.faultKill id (0xE000 + proc)) s = t)
  (hu : { t with health := { t.health with watchdog := t.health.watchdog ++ [(proc, t.now)] } } = u)
  (hrecent : (t.health.watchdog.filter (fun w => w.1 = proc && decide (t.now < w.2 + 3600000000))).length = recent)
include hlive hproc hup hhit ht hu hrecent

/-- A processor that its watchdog resets costs its commands; at the third reset within an hour it goes out of service (R619, R628). -/
theorem exec_watchdogExpiry :
    exec (.watchdogExpiry proc cmds) s =
      .next (if recent < 2 then u.recordFault (0xE000 + proc) 0 hit.length else u.unitFault (0xE000 + proc) hit.length) := by
  have hgo : (!s.power.powered || s.silent || decide (8 ≤ proc) || decide (0xE000 + proc ∈ s.health.log.outOfService)) = false := by
    rw [hpow, hlive, decide_eq_false (Nat.not_le.2 hproc), decide_eq_false hup]; rfl
  have hthird : recent + 1 < 3 ↔ recent < 2 := Nat.add_lt_add_iff_right (n := recent) (m := 2) (k := 1)
  exact congrArg Host.Outcome.next (by simp only [hgo, hhit, ht, hu, hrecent, hthird, Bool.false_eq_true, if_false])

end

/-- What a reference clock drives goes down with it (R598). -/
def State.withoutClock (t : State) : RefClock → State
  | .pclk0 => t.linkDown 0
  | .pclk1 => if t.host.splitSampled then t.linkDown 1 else t
  | .fclk => ((List.range 32).filter t.lportEnabled).foldl State.portDown t
  | .sclk => t.deviceFault 2
  | .aclk => t

/-- A reference clock of the powered package that stops takes down what it drives (R598). -/
theorem exec_clockLoss (clk : RefClock) :
    exec (.clockLoss clk) s = .next (({ s with power := { s.power with clocks := ainsert clk false s.power.clocks } } : State).withoutClock clk) := by
  refine congrArg Host.Outcome.next ?_
  simp only [hpow, Bool.not_true, Bool.false_eq_true, if_false]
  cases clk <;> rfl

end

/-- Settles O40: a single fault is contained and then judged by what it leaves; clocks and processors by what they drive. -/
theorem faultsComplete : Obligations.FaultsComplete := by
  intro s unit hpow hlive
  refine ⟨fun hunit hup hkind h0 h2 => ?_, fun hunit hup hclass => congrArg Host.Outcome.next (unitFault_deviceClass hpow hlive hunit hup hclass 0), rfl,
    fun proc cmds hproc hup => ?_, fun clk => ?_⟩
  · intro c t a b
    have hclass : ¬ deviceClass unit := not_or.2 ⟨hkind, not_or.2 ⟨h0, h2⟩⟩
    have ht : s.faultContained unit 0 = t := by simp only [State.faultContained, Nat.zero_add]; rfl
    have hfault : s.unitFault unit = t.faultOutcome unit := ht ▸ unitFault_single hpow hlive hunit hup hclass 0
    refine ⟨fun hcut hproc => ?_, fun hk hcut => congrArg Host.Outcome.next (hfault.trans (faultOutcome_cuts hk hcut)),
      fun hk hfew => congrArg Host.Outcome.next (hfault.trans (faultOutcome_fewProcessors hk hfew))⟩
    have hstays : s.unitFault unit = t := hfault.trans (faultOutcome_stays hcut hproc)
    have hnamed (v : Nat) (h : unit = v) : s.unitFault v = t := h ▸ hstays
    exact ⟨congrArg Host.Outcome.next hstays, fun channel lun h => congrArg Host.Outcome.next (hnamed _ h),
      fun channel h => congrArg Host.Outcome.next (hnamed _ h)⟩
  · intro hit t u recent
    have hexpiry := exec_watchdogExpiry hpow (cmds := cmds) hlive hproc hup rfl rfl rfl rfl
    exact ⟨fun hfew => hexpiry.trans (congrArg Host.Outcome.next (if_pos hfew)),
      fun hmany => hexpiry.trans (congrArg Host.Outcome.next (if_neg (Nat.not_lt.2 hmany)))⟩
  · intro t
    have hloss := exec_clockLoss hpow clk
    refine ⟨?_, ?_, ?_, ?_, ?_⟩
    · rintro rfl; exact hloss
    · rintro rfl hsplit; exact hloss.trans (congrArg Host.Outcome.next (if_pos hsplit))
    · rintro rfl; exact hloss
    · rintro rfl; exact hloss
    · rintro rfl; exact hloss

/-! ### Before the first start (R346, R411, R450, R483, R484, R490, R545, R614, R615, R671) -/

/-- Settles O60: each value as the reset state has it. The variant, and every value that the manual leaves open, are the model's choice (logs 2 and 3). -/
theorem resetValues : Obligations.ResetValues :=
  ⟨rfl, rfl, rfl, rfl, fun _ => rfl, rfl, rfl, rfl, rfl, rfl, rfl, rfl, rfl, rfl, rfl, rfl, rfl, rfl, rfl⟩

end Sys2Proof.Machine
end

section
/-!
PROOFS. Power loss and resets: what a loss signal and a package reset come to in each state of the power-loss sequence, and the rows of the power pins,
limits and resets that use them.
-/
namespace Sys2Proof.Machine

open Sys2Proof

/-! ### Power, flush limits and resets (R357, R360, R361, R362, R379, R380, R592, R606, R607, R608, R615, R616) -/

section

variable {s : State}

/-- A loss signal while storage is ready starts the flush (R360). -/
theorem lossSignal_starts (hidle : (s.power.flushing || s.power.flushed || s.power.draining) = false) (hready : s.power.storageReady = true) :
    s.lossSignal = s.endExcursions.startFlush false := by
  obtain ⟨hflush, hdrain⟩ := Bool.or_eq_false_iff.1 hidle
  simp only [State.lossSignal, hflush, hdrain, hready, Bool.false_eq_true, if_false, if_true]

/-- A loss signal turns a drain into the flush, whose time limit counts from it (R357, R607). -/
theorem lossSignal_overDrain (hflush : (s.power.flushing || s.power.flushed) = false) (hdrain : s.power.draining = true) :
    s.lossSignal = { s with power := { s.power with draining := false, flushing := true }
                            flash := { s.flash with area := { s.flash.area with deadline := some (s.now + 1000000) } } } := by
  simp only [State.lossSignal, hflush, hdrain, Bool.false_eq_true, if_false, if_true]

/-- With PWRGD up outside the power-loss sequence and FLUSHED, every clock supplied, the package starts up (R361, R594, R615). -/
theorem exec_powerOn_starts (board : Board) (hdown : s.power.pwrgd = false)
    (hidle : (s.power.flushing || s.power.flushed || s.power.draining) = false) :
    exec (.powerOn board) s =
      .next ({ (s.boardFinds board) with
        power := { (s.boardFinds board).power with pwrgd := true, powered := true, clocks := s.power.clocks.map (fun c => (c.1, true)) } } : State).startUp := by
  have hfound : ((s.boardFinds board).power.flushing || (s.boardFinds board).power.flushed || (s.boardFinds board).power.draining) = false := hidle
  exact congrArg Host.Outcome.next (by simp only [hdown, hfound, Bool.false_eq_true, if_false])

/-- A limit ends the flush that runs, with the limit's mark (R357, R380). -/
theorem exec_flushLimitReached (hflush : s.power.flushing = true) (limit : FlushLimit) :
    exec (.flushLimitReached limit) s =
      .next (({ s with flash := { s.flash with area := { s.flash.area with limit := some limit } } } : State).endFlush (match limit with
        | .time => 1
        | .energy => 2
        | .power => 3)) :=
  congrArg Host.Outcome.next (if_pos hflush)

/-- Replay starts once the admin queues and the dies are up (R616). -/
theorem exec_replayStart (hadmin : s.power.adminReady = true) (hcompute : s.power.computeReady = true) (hstorage : s.power.storageReady = false)
    (hreplay : s.power.replaying = false) (hlive : s.silent = false) :
    exec .replayStart s = .next { s with power := { s.power with plpN := true, replaying := true } } :=
  congrArg Host.Outcome.next (if_pos (by simp only [hadmin, hcompute, hstorage, hreplay, hlive, Bool.not_false, Bool.and_self]))

section

variable (hpow : s.power.powered = true)
include hpow

/-- A package reset waits for the flush or drain that runs (R607). -/
theorem packageReset_waits (hruns : (s.power.flushing || s.power.draining) = true) :
    s.packageReset = { s with power := { s.power with resetWaits := true } } := by
  simp only [State.packageReset, hpow, hruns, Bool.not_true, Bool.false_eq_true, if_false, if_true]

/-- A package reset starts up at once where no data waits (R606, R625). -/
theorem packageReset_starts (hruns : (s.power.flushing || s.power.draining) = false)
    (hclean : (s.power.flushed || s.power.fault || !s.power.storageReady) = true) : s.packageReset = s.startUp := by
  simp only [State.packageReset, hpow, hruns, hclean, Bool.not_true, Bool.false_eq_true, if_false, if_true]

/-- A package reset with data that may wait starts a drain, and waits for it (R607). -/
theorem packageReset_drains (hruns : (s.power.flushing || s.power.draining) = false)
    (hdirty : (s.power.flushed || s.power.fault || !s.power.storageReady) = false) :
    s.packageReset = { (s.startFlush true) with power := { (s.startFlush true).power with resetWaits := true } } := by
  simp only [State.packageReset, hpow, hruns, hdirty, Bool.not_true, Bool.false_eq_true, if_false]

/-- What the assertion of a released PERST_N comes to: in split mode a port reset, or a package reset where the device holds itself FLUSHED; otherwise
PERST0_N alone counts, and resets the package (R606, R608). -/
theorem exec_perstAssert {port : Nat} {board : Board} {t : State} (hreleased : (s.port port).perstN = true)
    (ht : (s.boardSays board).updPort port (fun x => { x with perstN := false }) = t) :
    exec (.perstAssert port board) s =
      .next (if s.host.splitSampled then if s.power.flushed then t.packageReset else t.portReset port
        else if port = 0 then t.packageReset else t) := by
  refine congrArg Host.Outcome.next ?_
  simp only [ht, hpow, hreleased, Bool.not_true, Bool.or_self, Bool.false_eq_true, if_false]
  cases s.host.splitSampled with
  | true => simp
  | false => by_cases hport : port = 0 <;> simp [hport]

/-- The first release of PERST_N after a package reset samples PCIE_SPLIT (R609, R611). -/
theorem exec_perstRelease_samples {port : Nat} {t : State} (hpending : s.host.splitPending = true)
    (ht : s.updPort port (fun x => if x.perstN then x else { x with perstN := true, releasedAt := s.now }) = t) :
    exec (.perstRelease port) s = .next { t with host := { t.host with splitSampled := s.host.splitStrap, splitPending := false } } := by
  subst ht
  exact congrArg Host.Outcome.next (if_pos (by rw [hpow, updPort_host, hpending]; rfl))

end

/-- A PF that writes PKG_RESET with its key to DEV_CTRL resets the package (R607). -/
theorem exec_pkgReset {f : Fn} {value : W32} (board : Board) (halive : s.fnAlive f = true) (hpf : isVf f = false)
    (hset : bitAt value.toNat 0 = true) (hkey : bits value.toNat 8 8 = 0xA5) :
    exec (.pkgReset f value board) s = .next (s.boardSays board).packageReset :=
  congrArg Host.Outcome.next (if_pos (by simp only [halive, hpf, hset, hkey, Bool.not_false, beq_self_eq_true, Bool.and_self]))

end

/-- Settles O41: `lossSignal` and `packageReset` are taken apart once, and each pin's row is a use of them. All steps of a start-up in the one row and the
conditions of REPLAY_START (log 20), and the marks of the flush's deadline (log 32), are the model's choices. -/
theorem powerAndResetComplete : Obligations.PowerAndResetComplete := by
  intro s board
  refine ⟨fun hdown hidle => exec_powerOn_starts board hdown hidle, fun hidle hready => ?_, fun hflush hdrain => ?_, fun hflush limit => ?_, rfl,
    fun hadmin hcompute hstorage hreplay hlive => exec_replayStart hadmin hcompute hstorage hreplay hlive, fun hpow hruns => ?_,
    fun port hpow => ?_, fun hpow hruns => ?_, fun port hpow hpending => exec_perstRelease_samples hpow hpending rfl⟩
  · exact ⟨congrArg Host.Outcome.next (lossSignal_starts hidle hready), congrArg Host.Outcome.next (lossSignal_starts hidle hready)⟩
  · exact congrArg Host.Outcome.next (lossSignal_overDrain hflush hdrain)
  · have hends := exec_flushLimitReached hflush limit
    refine ⟨?_, ?_, ?_⟩ <;> rintro rfl <;> exact hends
  · intro t
    refine ⟨fun hclean => ?_, fun hdirty => congrArg Host.Outcome.next (packageReset_drains (s := t) hpow hruns hdirty)⟩
    have hreset : t.packageReset = t.startUp := packageReset_starts hpow hruns hclean
    exact ⟨congrArg Host.Outcome.next hreset,
      fun f value halive hpf hset hkey => (exec_pkgReset board halive hpf hset hkey).trans (congrArg Host.Outcome.next hreset)⟩
  · intro t hreleased
    have hassert := exec_perstAssert (board := board) hpow hreleased rfl
    refine ⟨fun hlive hsplit => ?_, fun hflushed hsplit => ?_, fun hsplit hport => ?_, fun hsplit hport => ?_⟩
    · rw [hassert, hsplit, hlive, if_pos rfl, if_neg Bool.false_ne_true]
    · rw [hassert, hsplit, hflushed, if_pos rfl, if_pos rfl]
    · rw [hassert, hsplit, if_neg Bool.false_ne_true, if_pos hport]
    · rw [hassert, hsplit, if_neg Bool.false_ne_true, if_neg hport]
  · exact congrArg Host.Outcome.next (packageReset_waits (s := s.boardSays board) hpow hruns)

end Sys2Proof.Machine
end

section
/-!
PROOFS. Accounts, semaphores, telemetry and the frames that are no Longshore packets: what one increment and a clear do to an account, then each command in
each of its cases.
-/
namespace Sys2Proof.Machine

open Sys2Proof

/-! ### Elements of a list, and bits, after one is set -/

theorem setAt_eq_set {α : Type} (i : Nat) (v : α) (l : List α) : setAt i v l = l.set i v := by
  induction l generalizing i with
  | nil => cases i <;> rfl
  | cons x l ih =>
    cases i with
    | zero => rfl
    | succ i => exact congrArg (x :: ·) (ih i)

theorem getD_setAt_same {α : Type} {i : Nat} {l : List α} (h : i < l.length) (v d : α) : (setAt i v l).getD i d = v := by
  simp [setAt_eq_set, h]

theorem getD_setAt_other {α : Type} {i j : Nat} (h : j ≠ i) (v d : α) (l : List α) : (setAt i v l).getD j d = l.getD j d := by
  simp [setAt_eq_set, List.getElem?_set_ne h.symm]

theorem bitAt_or_pow_same (v i : Nat) : bitAt (v ||| 2 ^ i) i = true := by
  simp [bitAt, Nat.testBit_or, Nat.testBit_two_pow_self]

theorem bitAt_or_pow_other {i j : Nat} (h : j ≠ i) (v : Nat) : bitAt (v ||| 2 ^ i) j = bitAt v j := by
  simp [bitAt, Nat.testBit_or, Nat.testBit_two_pow_of_ne h.symm]

/-! ### Counters of an account (R418) -/

section

variable {a : Acct} {i n mask : Nat}

theorem Acct.add_fits (h : a.counters.getD i 0 + n ≤ 2 ^ 64 - 1) :
    a.add i n = ({ a with counters := setAt i (a.counters.getD i 0 + n) a.counters }, false) :=
  if_pos h

theorem Acct.add_saturates (h : 2 ^ 64 - 1 < a.counters.getD i 0 + n) :
    a.add i n = ({ counters := setAt i (2 ^ 64 - 1) a.counters, saturated := a.saturated ||| 2 ^ i }, !bitAt a.saturated i) :=
  if_neg (Nat.not_le.2 h)

/-- An increment of one counter leaves the others as they are. -/
theorem Acct.add_other {j : Nat} (h : j ≠ i) : (a.add i n).1.counters.getD j 0 = a.counters.getD j 0 := by
  rcases Nat.lt_or_ge (2 ^ 64 - 1) (a.counters.getD i 0 + n) with hover | hfits
  · rw [add_saturates hover, getD_setAt_other h]
  · rw [add_fits hfits, getD_setAt_other h]

theorem Acct.clear_counter (h : bitAt mask i = true) : (a.clear mask).counters.getD i 0 = 0 := by
  simp only [Acct.clear, List.getD_eq_getElem?_getD, List.getElem?_map, List.getElem?_zipIdx, Option.map_map]
  cases a.counters[i]? with
  | none => rfl
  | some v => simp [h]

theorem Acct.clear_flag (h : bitAt mask i = true) : bitAt (a.clear mask).saturated i = false := by
  have hlow : mask % 2 ^ 27 < 2 ^ 27 := Nat.mod_lt _ (by decide)
  simp only [bitAt] at h
  simp only [bitAt, Acct.clear, Nat.testBit_and, Nat.sub_sub, Nat.add_comm 1, Nat.testBit_two_pow_sub_succ hlow, Nat.testBit_mod_two_pow, h,
    Bool.and_true, Bool.and_not_self, Bool.and_false]

end

/-- Settles O56: an increment that fits and one that does not are told apart once, for the counter, its flag and its event; the charge of an account is that
increment. -/
theorem countersSaturateOnce : Obligations.CountersSaturateOnce := by
  intro a i n hlen hi _
  have hin : i < a.counters.length := hlen.symm ▸ hi
  refine ⟨fun hfits => ?_, fun hover => ?_, fun j hj => Acct.add_other hj, fun mask hm => ⟨Acct.clear_counter hm, Acct.clear_flag hm⟩, ?_, ?_⟩
  · rw [Acct.add_fits hfits]
    exact ⟨getD_setAt_same hin _ 0, rfl, rfl⟩
  · rw [Acct.add_saturates hover]
    exact ⟨getD_setAt_same hin _ 0, bitAt_or_pow_same _ i, rfl, fun j hj => bitAt_or_pow_other hj _⟩
  · rintro s rfl; rfl
  · rintro s p rfl; rfl

/-! ### Semaphore commands (R405, R406, R407, R410, R411) -/

/-- A new semaphore: free, with nobody waiting. -/
def Sem.fresh (h p : Nat) : Sem := { handle := h, part := p, holder := none, abandoned := false, waiters := [] }

/-- The semaphore with one more waiter, in the order of the doorbells (R407). -/
def State.withWaiter (s : State) (w : Waiter) (y : Sem) : Sem := { y with waiters := insertBy (fun a b => s.rangBefore a.id b.id) w y.waiters }

section

variable {s : State} {id : CmdId} {o : Outst}

/-- A partition with room for one more semaphore gets one (R405). -/
theorem exec_semCreate (hs : s.startable id (.semCreate id) = some o) (hr : (o.hold || decide (4 ≤ o.rbufLen)) = true)
    (hroom : (s.sems.filter (fun x => x.part = ioPart o)).length < 64) :
    exec (.semCreate id) s =
      .next (s.ends { (s.newHandle (ioPart o)).1 with sems := (s.newHandle (ioPart o)).1.sems ++ [Sem.fresh (s.newHandle (ioPart o)).2 (ioPart o)] }
        o .ok 0 (leBytes 4 (s.newHandle (ioPart o)).2)) :=
  congrArg Host.Outcome.next (startCmd_now hs (by
    simp only [needRbuf_of hr, need_of (decide_eq_true hroom), bind_ok, okResult, Sem.fresh]))

/-- A partition that has 64 gets no more (R405). -/
theorem exec_semCreate_full (hs : s.startable id (.semCreate id) = some o) (hr : (o.hold || decide (4 ≤ o.rbufLen)) = true)
    (hfull : 64 ≤ (s.sems.filter (fun x => x.part = ioPart o)).length) :
    exec (.semCreate id) s = .next (s.complete o .resourceExhausted 0xFFFF []) :=
  congrArg Host.Outcome.next (startCmd_fails hs (by
    simp only [needRbuf_of hr, decide_eq_false (Nat.not_lt.2 hfull), need_false, bind_ok, bind_error, failWith]))

section

variable {sem donateMax timeout : Nat} {x : Sem} (hs : s.startable id (.semAcquire id sem donateMax timeout) = some o) (hd : donateMax ≤ 64)
  (ht : timeout ≤ 10000000) (hi : s.semIdent (ioPart o) sem = .ok x) (hr : (o.hold || decide (4 ≤ o.rbufLen)) = true)

include hd ht hi hr

/-- The checks of a SEM_ACQUIRE pass, and what follows is said of the semaphore found. -/
theorem semAcquire_passes (rest : Sem → Chk (State × Done)) :
    (do
      inRange (decide (donateMax ≤ 64)) 0x0C
      inRange (decide (timeout ≤ 10000000)) 0x10
      let y ← s.semIdent (ioPart o) sem
      needRbuf o 4
      rest y) = rest x := by
  simp only [inRange_of (decide_eq_true hd), inRange_of (decide_eq_true ht), hi, needRbuf_of hr, bind_ok]

include hs

/-- An acquire takes a free semaphore in its turn, and answers whether it was abandoned (R406, R410). -/
theorem exec_semAcquire_takes (hfree : x.holder = none) (hturn : s.semTurn o sem = true) :
    exec (.semAcquire id sem donateMax timeout) s =
      .next (s.ends (s.updSem sem (fun y => { y with holder := some (qCtx id.queue), abandoned := false })) o .ok 0
        (leBytes 4 (if x.abandoned then 1 else 0))) :=
  congrArg Host.Outcome.next (startCmd_now hs ((semAcquire_passes hd ht hi hr _).trans (by
    simp only [hfree, hturn, Bool.not_true, Bool.false_eq_true, if_false, okResult])))

/-- An acquire of a free semaphore whose turn has not come is left to try again (R407, log 38). -/
theorem exec_semAcquire_early (hfree : x.holder = none) (hturn : s.semTurn o sem = false) :
    exec (.semAcquire id sem donateMax timeout) s = .next s :=
  congrArg Host.Outcome.next (startCmd_waits (t := s) hs ((semAcquire_passes hd ht hi hr _).trans (by
    simp only [hfree, hturn, Bool.not_false, if_true])))

/-- An acquire of a semaphore that another context holds takes its place among the waiters (R406, R407). -/
theorem exec_semAcquire_waits {c : Nat} (hheld : x.holder = some c) (hother : c ≠ qCtx id.queue) :
    exec (.semAcquire id sem donateMax timeout) s =
      .next (s.goesOn (s.updSem sem
        (s.withWaiter { id := id, ctx := qCtx id.queue, donateMax := donateMax, donations := 0, timeout := timeout })) o 4) :=
  congrArg Host.Outcome.next (startCmd_runs hs ((semAcquire_passes hd ht hi hr _).trans (by
    simp only [hheld, need_of (bne_iff_ne.2 hother), bind_ok]
    rfl)))

/-- An acquire of a semaphore that its own context holds is refused (R406). -/
theorem exec_semAcquire_own (hown : x.holder = some (qCtx id.queue)) :
    exec (.semAcquire id sem donateMax timeout) s = .next (s.complete o .resourceBusy 0 []) :=
  congrArg Host.Outcome.next (startCmd_fails hs ((semAcquire_passes hd ht hi hr _).trans (by
    simp only [hown, bne_self_eq_false, need_false, bind_error, failWith])))

end

section

variable {sem : Nat} {x : Sem} (hs : s.startable id (.semRelease id sem) = some o) (hh : o.hold = false) (hi : s.semIdent (ioPart o) sem = .ok x)

include hs hh hi

/-- The holder's release passes the semaphore on (R407). -/
theorem exec_semRelease (hown : x.holder = some (qCtx id.queue)) :
    exec (.semRelease id sem) s = .next (((s.updSem sem (fun y => { y with holder := none })).passSem sem).complete o .ok 0 []) :=
  congrArg Host.Outcome.next (startCmd_completes hs hh (by
    simp only [noHold_of hh, hi, hown, beq_self_eq_true, need_true, bind_ok, okDone]))

/-- A release by another context than the holder is refused (R407). -/
theorem exec_semRelease_notHolder (hother : x.holder ≠ some (qCtx id.queue)) :
    exec (.semRelease id sem) s = .next (s.complete o .semNotHolder (x.holder.getD 0xFFFF) []) :=
  congrArg Host.Outcome.next (startCmd_fails hs (by
    simp only [noHold_of hh, hi, beq_eq_false_iff_ne.2 hother, need_false, bind_ok, bind_error, failWith]))

end

end

/-- Settles O9, command by command. Waiters stand in the order of the doorbells, and an acquire whose turn has not come tries again (log 38). -/
theorem semaphoreCommandsComplete : Obligations.SemaphoreCommandsComplete := by
  intro s id o
  refine ⟨fun hs hr => ⟨exec_semCreate hs hr, exec_semCreate_full hs hr⟩, fun sem x hi => ⟨fun donateMax timeout hs hd ht hr => ?_, fun hh => ?_⟩⟩
  · refine ⟨exec_semAcquire_takes hs hd ht hi hr, exec_semAcquire_early hs hd ht hi hr, ?_, exec_semAcquire_own hs hd ht hi hr⟩
    rintro c w hheld hother rfl
    exact exec_semAcquire_waits hs hd ht hi hr hheld hother
  · refine ⟨fun hs => ⟨exec_semRelease hs hh hi, exec_semRelease_notHolder hs hh hi⟩, fun hs => ⟨?_, fun hbusy => exec_semDestroy_busy hs hh hi ?_⟩⟩
    · rintro ⟨hfree, halone⟩
      exact exec_semDestroy_idle hs hh hi (by rw [hfree, halone]; rfl)
    · rwa [Bool.or_eq_true, Option.isSome_iff_ne_none, Bool.not_eq_true', List.isEmpty_eq_false_iff]

/-! ### The end of a wait (R406) -/

section

variable {s : State} {id : CmdId}

/-- A wait with a timeout leaves its place as the timeout passes. -/
theorem exec_semTimeout_ends (h : s.sems.any (fun x => x.waiters.any (fun w => w.id = id && w.timeout != 0)) = true) :
    exec (.semTimeout id) s =
      .next (({ s with sems := s.sems.map (fun x => { x with waiters := x.waiters.filter (fun w => w.id ≠ id) }) } : State).completeId id .semTimeout 0 []) :=
  congrArg Host.Outcome.next (if_pos h)

/-- A wait without a timeout goes on. -/
theorem exec_semTimeout_goesOn (h : s.sems.all (fun x => x.waiters.all (fun w => w.id ≠ id || w.timeout == 0)) = true) :
    exec (.semTimeout id) s = .next s := by
  have hnone : s.sems.any (fun x => x.waiters.any (fun w => w.id = id && w.timeout != 0)) = false := by
    simpa [List.any_eq_false, List.all_eq_true, imp_iff_not_or] using h
  exact congrArg Host.Outcome.next (if_neg (Bool.eq_false_iff.1 hnone))

end

/-- Settles O10: the wait of a name ends or goes on as it has a timeout or none. -/
theorem semaphoreWaitTimesOut : Obligations.SemaphoreWaitTimesOut := fun _ _ => ⟨exec_semTimeout_ends, exec_semTimeout_goesOn⟩

end Sys2Proof.Machine
end

section
/-!
PROOFS. Frames on a port that is up and are no Longshore packets: how one that comes is counted, and how an answer to it is (R416, R425, R428, R429).
-/
namespace Sys2Proof.Machine

open Sys2Proof

/-- The state that has counted a received frame of `n` bytes on a port (R428). -/
def State.frameReceived (s : State) (l n : Nat) : State := ((s.countPort l 1 1).countPort l 3 n).chargeDevice 19 n

/-- The state that has sent the frame `e`, of `n` bytes, on a port and has counted it (R428). -/
def State.frameSent (s : State) (l n : Nat) (e : Out) : State :=
  ((({ s with out := s.out ++ [e] } : State).countPort l 0 1).countPort l 2 n).chargeDevice 18 n

section

variable {s : State} {l : Nat} (hup : s.lportState l = 3)

include hup

/-- A frame that the port cannot use is received and dropped. -/
theorem exec_frameDiscard (bytes : Nat) : exec (.frameDiscard l bytes) s = .next ((s.frameReceived l bytes).countPort l 6 1) :=
  congrArg Host.Outcome.next (if_neg (not_not.2 hup))

/-- A solicitation is answered if it is for the port's address, and dropped otherwise. -/
theorem exec_neighborSolicitation {target n : Nat} {t : State} (hn : icmpFrame (s.lport l) 32 = n) (ht : s.frameReceived l n = t) :
    exec (.neighborSolicitation l target) s =
      .next (if (t.lport l).set && (t.lport l).ipv6 = target then t.frameSent l n (.neighborAdvert l target (t.lport l).mac) else t.countPort l 6 1) := by
  subst hn ht
  exact congrArg Host.Outcome.next (if_neg (not_not.2 hup))

/-- An echo request is answered if it is for the port's address and the answer is not too long to be sent, and dropped otherwise. -/
theorem exec_echoRequest {dest n : Nat} {data : Bytes} {t : State} (hn : icmpFrame (s.lport l) (8 + data.length) = n) (ht : s.frameReceived l n = t) :
    exec (.echoRequest l dest data) s =
      .next (if (t.lport l).set && (t.lport l).ipv6 = dest && decide (48 + data.length ≤ 4096) then t.frameSent l n (.echoReply l dest data)
        else t.countPort l 6 1) := by
  subst hn ht
  exact congrArg Host.Outcome.next (if_neg (not_not.2 hup))

end

/-- Settles O22, frame by frame: each is received and counted, and then answered or dropped. The charge of a frame's bytes to the device's account is the
model's choice (logs 16 and 48), and 4,096 bytes is R433's longest packet. -/
theorem portFramesComplete : Obligations.PortFramesComplete := by
  intro s l hup
  refine ⟨exec_frameDiscard hup, fun target => ?_, fun dest data => ?_⟩
  · intro n t
    have hsolicited := exec_neighborSolicitation (target := target) hup rfl rfl
    refine ⟨fun hset haddr => hsolicited.trans (congrArg Host.Outcome.next (if_pos ?_)), fun hother =>
      hsolicited.trans (congrArg Host.Outcome.next (if_neg ?_))⟩
    · exact Bool.and_eq_true_iff.2 ⟨hset, decide_eq_true haddr⟩
    · exact fun h => hother (of_decide_eq_true (Bool.and_eq_true_iff.1 h).2)
  · intro n t
    have hasked := exec_echoRequest (dest := dest) (data := data) hup rfl rfl
    refine ⟨fun hset haddr hshort => hasked.trans (congrArg Host.Outcome.next (if_pos ?_)), fun hother =>
      hasked.trans (congrArg Host.Outcome.next (if_neg fun h => ?_))⟩
    · simp only [Bool.and_eq_true, decide_eq_true_eq]
      exact ⟨⟨hset, haddr⟩, hshort⟩
    · simp only [Bool.and_eq_true, decide_eq_true_eq] at h
      obtain ⟨⟨_, haddr⟩, hshort⟩ := h
      exact hother.elim (absurd haddr) (absurd hshort ∘ Nat.not_le.2)

end Sys2Proof.Machine
end

section
/-!
PROOFS. Telemetry: the information commands, the accounts as a command reads and clears them, held results, and the wait for an event.
-/
namespace Sys2Proof.Machine

open Sys2Proof

section

variable {s : State} {id : CmdId} {o : Outst}

/-- A command that checks nothing but the room of its result buffer ends with its answer. -/
theorem startCmd_answers {c : Instr} {body : State → Outst → Chk (State × Done)} {n : Nat} {bs : Bytes} (hs : s.startable id c = some o)
    (hr : (o.hold || decide (n ≤ o.rbufLen)) = true) (hb : body s o = (do needRbuf o n; okResult s bs)) :
    s.startCmd id c body = s.ends s o .ok 0 bs :=
  startCmd_now hs (by rw [hb, needRbuf_of hr, bind_ok, okResult])

/-! ### Information commands (R538, R539, R544, R630, R632) -/

theorem exec_healthLog (hs : s.startable id (.healthLog id) = some o) (hr : (o.hold || decide (0xC20 ≤ o.rbufLen)) = true) :
    exec (.healthLog id) s = .next (s.ends s o .ok 0 s.healthBytes) :=
  congrArg Host.Outcome.next (startCmd_answers hs hr rfl)

theorem exec_memInfo (hs : s.startable id (.memInfo id) = some o) (hr : (o.hold || decide (32 * Variant.dies s.variant ≤ o.rbufLen)) = true) :
    exec (.memInfo id) s = .next (s.ends s o .ok 0 s.memInfo) :=
  congrArg Host.Outcome.next (startCmd_answers hs hr rfl)

theorem exec_storeInfo (hs : s.startable id (.storeInfo id) = some o) (hr : (o.hold || decide (64 ≤ o.rbufLen)) = true) :
    exec (.storeInfo id) s = .next (s.ends s o .ok 0 s.storeInfo) :=
  congrArg Host.Outcome.next (startCmd_answers hs hr rfl)

/-- The health log is saved while the package has power and no power-loss sequence runs (R544, R632). -/
theorem exec_healthLogSave (hpow : s.power.powered = true) (hflushing : s.power.flushing = false) (hflushed : s.power.flushed = false) :
    exec .healthLogSave s = .next { s with health := { s.health with saved := s.health.log } } :=
  congrArg Host.Outcome.next (if_pos (by simp only [hpow, hflushing, hflushed, Bool.not_false, Bool.and_self]))

/-! ### Accounts (R417, R418, R537) -/

section

variable {scope p c : Nat} (hf : acctFields scope p c = .ok ()) (hi : s.acctIdent o scope p c = .ok ())

include hf hi

theorem exec_acctRead (hs : s.startable id (.acctRead id scope p c) = some o) (hr : (o.hold || decide (224 ≤ o.rbufLen)) = true) :
    exec (.acctRead id scope p c) s = .next (s.ends s o .ok 0 (s.acctOf scope p c).bytes) :=
  congrArg Host.Outcome.next (startCmd_answers hs hr (by simp only [hf, hi, bind_ok]))

theorem exec_acctClear {mask : Nat} (hs : s.startable id (.acctClear id scope p c mask) = some o) (hh : o.hold = false) (hm : mask < 2 ^ 27) :
    exec (.acctClear id scope p c mask) s = .next ((s.updAcct scope p c (fun a => a.clear mask)).complete o .ok 0 []) :=
  congrArg Host.Outcome.next (startCmd_completes hs hh (by
    simp only [noHold_of hh, hf, inRange_of (decide_eq_true hm), hi, bind_ok, okDone]))

end

/-! ### Held results (R513, R514, R515) -/

/-- The tag is checked only where it is what names the result (R513). -/
theorem tagInRange_of {flags tag : Nat} (h : bitAt flags 0 = false ∨ tag < 32) :
    inRange (!bitAt flags 0 || decide (tag < 32)) 0x0D = .ok () :=
  inRange_of (by rwa [Bool.or_eq_true, Bool.not_eq_true', decide_eq_true_eq]) _

/-- The state in which a RESULT_READ has read what it takes of a held result from the room that the result stands in, if it has one (R222, R512). -/
def State.resultProbed (s : State) (o : Outst) (h : Held) (offset : Nat) : State :=
  if h.room = 0 then s else s.probe (h.room + offset) (min o.rbufLen (h.bytes.length - offset))

/-- The state in which a held result is marked as read, and the command that reads it as doing so again or not (R513). -/
def State.resultSeen (w : State) (id : CmdId) (h : Held) : State :=
  ({ w with host := { w.host with held := mapIf (fun x => x.handle = h.handle) (fun x => { x with readBefore := true }) w.host.held } } : State).updOutst id
    (fun x => { x with again := h.readBefore })

/-- The state without a held result, its room freed (R514). -/
def State.resultFreed (s : State) (handle : Nat) : State :=
  ({ s with host := { s.host with held := s.host.held.filter (fun x => x.handle ≠ handle) } } : State).sweep

section

variable {handle flags tag : Nat} {h : Held} (htag : bitAt flags 0 = false ∨ tag < 32) (hnamed : s.named o handle flags tag = .result h)
  (hturn : s.resultTurn o h = true) (hh : o.hold = false)

include htag hnamed hturn hh

/-- A read of a held result whose bytes are not poisoned answers them from its offset (R513, R224). -/
theorem exec_resultRead {offset : Nat} (hs : s.startable id (.resultRead id handle flags tag offset) = some o) (hoff : offset ≤ h.bytes.length)
    (hclean : h.room = 0 ∨ (s.resultProbed o h offset).poisoned (h.room + offset) (min o.rbufLen (h.bytes.length - offset)) = false) :
    exec (.resultRead id handle flags tag offset) s =
      .next (((s.resultProbed o h offset).resultSeen id h).complete o .ok 0 ((h.bytes.drop offset).take o.rbufLen)) := by
  have hgood : ¬ (h.room != 0 && (s.resultProbed o h offset).poisoned (h.room + offset) (min o.rbufLen (h.bytes.length - offset))) = true := by
    rw [Bool.and_eq_true, bne_iff_ne, not_and_or, not_not, Bool.not_eq_true]
    exact hclean
  refine congrArg Host.Outcome.next (startCmd_completes hs hh ?_)
  simp only [noHold_of hh, tagInRange_of htag, hnamed, hturn, need_of (decide_eq_true hoff), Bool.not_true, Bool.false_eq_true, if_false, bind_ok]
  exact if_neg hgood

/-- A release frees the result that it names (R514). -/
theorem exec_resultRelease (hs : s.startable id (.resultRelease id handle flags tag) = some o) :
    exec (.resultRelease id handle flags tag) s = .next ((s.resultFreed h.handle).complete o .ok 0 []) :=
  congrArg Host.Outcome.next (startCmd_completes hs hh (by
    simp only [noHold_of hh, tagInRange_of htag, hnamed, hturn, Bool.not_true, Bool.false_eq_true, if_false, bind_ok, okDone, State.resultFreed]))

end

/-- A held result whose time is over is freed, unless its entry still waits for a takeover (R514, R517). -/
theorem exec_resultTimeout {h : Nat} {x : Held} (hx : s.host.held.find? (fun y => y.handle = h) = some x) (hdone : x.isDone = true)
    (hposted : (s.queue x.id.queue).heldCpls.any (fun k => k.held && k.handle == h) = false) :
    exec (.resultTimeout h) s = .next (s.resultFreed h) := by
  show execResultTimeout h s = _
  simp only [execResultTimeout, hx, hdone, hposted, Bool.not_false, Bool.and_self, if_true, State.resultFreed]

/-! ### The wait for an event (R507) -/

theorem feedEvent_nothing {q : QId} (h : (s.queue q).events = []) : s.feedEvent q = s := by
  simp only [State.feedEvent, h]

/-- An EVENT_WAIT that finds no event waits for one; its completion entry is charged as it starts to wait (log 13). -/
theorem exec_eventWait_waits (hs : s.startable id (.eventWait id) = some o) (hh : o.hold = false)
    (hnone : ((s.chargeQueue id.queue 17 32).queue id.queue).events = []) :
    exec (.eventWait id) s = .next ((s.chargeQueue id.queue 17 32).markRunning id) := by
  have hstart : s.startCmd id (.eventWait id) (fun s o => do noHold o; .ok (s.chargeQueue id.queue 17 32, .runs 0)) =
      (s.chargeQueue id.queue 17 32).markRunning id :=
    startCmd_marks (room := 0) hs hh (by simp only [noHold_of hh, bind_ok])
  refine congrArg Host.Outcome.next ((if_neg ?_).trans ?_)
  · simp [hs]
  · rw [hstart]
    exact feedEvent_nothing hnone

end

/-- Settles O27, command by command: each passes its checks and ends, but for an EVENT_WAIT that waits, charged as it starts to (log 13). Turns on a
held result go by doorbell among the commands fetched (log 14). -/
theorem telemetryCommandsComplete : Obligations.TelemetryCommandsComplete := by
  intro s id o
  refine ⟨exec_healthLog, exec_memInfo, exec_storeInfo,
    fun scope p c hf hi => ⟨exec_acctRead hf hi, fun mask hs hh hm => exec_acctClear hf hi hs hh hm⟩,
    fun handle flags tag h htag hnamed hturn hh => ⟨fun offset hs hoff => ?_, exec_resultRelease htag hnamed hturn hh⟩,
    exec_eventWait_waits, exec_healthLogSave, fun h x hx => exec_resultTimeout hx⟩
  intro n w hclean
  exact exec_resultRead htag hnamed hturn hh hs hoff hclean

end Sys2Proof.Machine
end

section
/-!
PROOFS. Packets: the bytes that a command's opcode and fields spell, and the command that they are read as (R496, R522, R523).
-/
namespace Sys2Proof.Machine

open Sys2Proof

/-! ### Fields of a packet (R496, R523) -/


/-- Bytes `off` to `off + n - 1` of a packet's command fields. -/
def frameBytes (fs : List (Nat × Nat × Nat)) (off n : Nat) : Bytes := (List.range n).map (fun i => fieldByte fs (off + i))

/-- Fields that follow one another without overlap, from offset `lo` on. -/
def FieldsFrom (lo : Nat) : List (Nat × Nat × Nat) → Prop
  | [] => True
  | (off, n, _) :: rest => lo ≤ off ∧ FieldsFrom (off + n) rest

@[simp] theorem fieldsFrom_nil (lo : Nat) : FieldsFrom lo [] := trivial

@[simp] theorem fieldsFrom_cons (lo off n v : Nat) (rest : List (Nat × Nat × Nat)) :
    FieldsFrom lo ((off, n, v) :: rest) ↔ lo ≤ off ∧ FieldsFrom (off + n) rest := Iff.rfl

/-- A byte below the first field is reserved, and zero. -/
theorem fieldByte_before {lo i : Nat} {fs : List (Nat × Nat × Nat)} (h : FieldsFrom lo fs) (hi : i < lo) : fieldByte fs i = 0 := by
  induction fs generalizing lo with
  | nil => rfl
  | cons f rest ih =>
    obtain ⟨off, n, v⟩ := f
    obtain ⟨hlo, hrest⟩ := h
    have hskip : fieldByte ((off, n, v) :: rest) i = fieldByte rest i := by
      simp only [fieldByte, List.find?_cons, Nat.not_le.2 (hi.trans_le hlo), decide_false, Bool.false_and]
    rw [hskip]
    exact ih hrest (by omega)

/-- The bytes of a number, place by place. -/
theorem leBytes_eq_map (n v : Nat) : leBytes n v = (List.range n).map (fun i => BitVec.ofNat 8 (v / 256 ^ i)) := by
  induction n generalizing v with
  | zero => rfl
  | succ n ih =>
    simp only [leBytes, ih, List.range_succ_eq_map, List.map_cons, List.map_map, Nat.pow_zero, Nat.div_one, Function.comp_def, Nat.pow_succ',
      Nat.div_div_eq_div_mul]

/-- The bytes of the first field, and reserved ones after it, spell its value. -/
theorem frameBytes_head {off k n v : Nat} {rest : List (Nat × Nat × Nat)} (hv : v < 256 ^ k) (hk : k ≤ n) (hrest : FieldsFrom (off + n) rest) :
    ofLe (frameBytes ((off, k, v) :: rest) off n) = v := by
  have hbytes : frameBytes ((off, k, v) :: rest) off n = leBytes n v := by
    rw [leBytes_eq_map, frameBytes]
    refine List.map_congr_left fun i hi => ?_
    have hin : i < n := List.mem_range.1 hi
    by_cases hik : i < k
    · simp [fieldByte, hik]
    · have hzero : v / 256 ^ i = 0 := Nat.div_eq_of_lt (hv.trans_le (Nat.pow_le_pow_right (by decide) (Nat.not_lt.1 hik)))
      have hnext : fieldByte ((off, k, v) :: rest) (off + i) = fieldByte rest (off + i) := by simp [fieldByte, hik]
      rw [hnext, fieldByte_before hrest (by omega), hzero]
      rfl
  rw [hbytes]
  exact ofLe_leBytes (hv.trans_le (Nat.pow_le_pow_right (by decide) hk))

/-- Bytes past the first field are those of the fields that follow. -/
theorem frameBytes_tail {o k off v : Nat} (n : Nat) (rest : List (Nat × Nat × Nat)) (h : o + k ≤ off) :
    frameBytes ((o, k, v) :: rest) off n = frameBytes rest off n := by
  refine List.map_congr_left fun i _ => ?_
  simp only [fieldByte, List.find?_cons, Nat.not_lt.2 (h.trans (Nat.le_add_right off i)), decide_false, Bool.and_false]

/-- A field of a packet's command fields lies in the bytes that spell them. -/
theorem field_frame {N off n : Nat} (g : Nat → Byte) (rest : Bytes) (h : off + n ≤ N) :
    field ((List.range N).map g ++ rest) off n = ofLe ((List.range n).map (fun i => g (off + i))) := by
  have hslice : slice ((List.range N).map g ++ rest) off n = (List.range n).map (fun i => g (off + i)) := by
    have hdrop : ((((List.range N).map g ++ rest).drop off).take n) = (List.range n).map (fun i => g (off + i)) := by
      refine List.ext_getElem ?_ fun i h1 h2 => ?_
      · simp; omega
      · have hi : i < n := by simpa using h2
        simp [show off + i < N by omega]
    simp only [slice, hdrop, List.length_map, List.length_range, Nat.sub_self, List.replicate_zero, List.append_nil]
  rw [field, hslice]

section

variable (op flags tag mask : Nat) (fs : List (Nat × Nat × Nat)) (ibuf ibufLen rbuf rbufLen : Nat)

/-- The opcode is byte 0. -/
theorem packetBytes_op (h : op < 256) : field (packetBytes op flags tag mask fs ibuf ibufLen rbuf rbufLen) 0 1 = op := by
  simp only [packetBytes, List.append_assoc]
  exact field_leBytes _ h

/-- The command fields stand in bytes 8 to 31. -/
theorem packetBytes_frame {off n : Nat} (h8 : 8 ≤ off) (h32 : off + n ≤ 32) :
    field (packetBytes op flags tag mask fs ibuf ibufLen rbuf rbufLen) off n = ofLe (frameBytes fs off n) := by
  simp only [packetBytes, List.append_assoc]
  rw [field_past_leBytes _ _ _ (by omega), field_past_leBytes _ _ _ (by omega), field_past_leBytes _ _ _ (by omega),
    field_past_zeros _ _ (by omega), field_past_leBytes _ _ _ (by omega), field_frame _ _ (by omega), frameBytes]
  refine congrArg ofLe (List.map_congr_left fun i _ => congrArg (fieldByte fs) ?_)
  omega

theorem packetBytes_length : (packetBytes op flags tag mask fs ibuf ibufLen rbuf rbufLen).length = 64 := by
  simp only [packetBytes, List.length_append, leBytes_length, zeros_length, List.length_map, List.length_range, Nat.reduceAdd]

end

/-! ### The command that a packet spells (R522, R523) -/

/-- A packet whose opcode and command fields are those of `op` and `fs`. -/
structure Spells (pkt : Bytes) (op : Nat) (fs : List (Nat × Nat × Nat)) : Prop where
  opcode : field pkt 0 1 = op
  frame : ∀ off n, 8 ≤ off → off + n ≤ 32 → field pkt off n = ofLe (frameBytes fs off n)

section

variable {c : Instr} {id : CmdId} {op : Nat} {fs : List (Nat × Nat × Nat)} {pkt : Bytes}

/-- Opcodes are of one byte. -/
theorem commandFields_op (hc : commandFields c = some (id, op, fs)) : op < 256 := by
  cases c <;> cases hc <;> decide

theorem toNat_lt_eightBytes (v : W64) : v.toNat < 18446744073709551616 := v.isLt

/-- A packet that spells a well-formed command is read as it, opcode by opcode. -/
theorem buildCommand_of_spells (hp : Spells pkt op fs) (hw : c.wf = true) (hc : commandFields c = some (id, op, fs)) : buildCommand pkt id = c := by
  obtain ⟨hop, hread⟩ := hp
  unfold buildCommand
  dsimp only
  rw [hop]
  cases c <;> cases hc
  -- a command without fields is read once its opcode is
  all_goals
    simp only [Instr.wf, fits, Bool.and_eq_true, decide_eq_true_eq, Nat.reducePow] at hw
    conv_lhs => whnf
    try simp [hread, frameBytes_head, frameBytes_tail, toNat_lt_eightBytes, hw]

end

theorem packetBytes_spells (op flags tag mask : Nat) (fs : List (Nat × Nat × Nat)) (ibuf ibufLen rbuf rbufLen : Nat) (h : op < 256) :
    Spells (packetBytes op flags tag mask fs ibuf ibufLen rbuf rbufLen) op fs :=
  ⟨packetBytes_op (h := h) .., fun _ _ h8 h32 => packetBytes_frame (h8 := h8) (h32 := h32) ..⟩

/-- Settles O49: the packet's opcode and command fields are those that it was spelled from, and a packet with these is read as the command. -/
theorem packetRoundTrip : Obligations.PacketRoundTrip := fun _ _ _ _ _ _ _ _ _ _ _ hw hc =>
  ⟨buildCommand_of_spells (packetBytes_spells (h := commandFields_op hc) ..) hw hc, packetBytes_length ..⟩

end Sys2Proof.Machine
end

section
/-!
PROOFS. Statements about every command: what a step runs, that each ends in a next state, what a packet command does that may not start or that asks to hold
a result it has not, and the microsecond of an idle step.
-/
namespace Sys2Proof.Machine

open Sys2Proof

/-! ### One step -/

/-- Settles O44: it is what `step` does with a queue that is not empty. -/
theorem stepRunsFront : Obligations.StepRunsFront := by
  intro s c rest h
  rw [step, h]

/-- Every meaning is a next state. -/
theorem exec_next (c : Instr) (s : State) : ∃ t, exec c s = .next t := by
  cases c
  all_goals exact ⟨_, rfl⟩

/-- Settles O46: an idle step ends in the next microsecond, and a command where its meaning does. -/
theorem everyStepIsSafe : Obligations.EveryStepIsSafe := by
  intro s
  unfold StepsSafely
  cases hp : s.pending with
  | nil => exact ⟨s.tick, by rw [step, hp]⟩
  | cons c rest =>
    rw [stepRunsFront s c rest hp]
    exact exec_next c _

/-! ### Commands that may not start (R502, R503, R522) -/

section

variable {s : State} {id : CmdId} {c : Instr} {body : State → Outst → Chk (State × Done)}

theorem startNs_none {ns : Nat} (h : s.startable id c = none) : s.startNs id ns c body = s := by
  rw [State.startNs, startCmd_none h, ite_self]

theorem startConfig_none (h : s.startable id c = none) : s.startConfig id c body = s := by
  rw [State.startConfig]
  cases s.outst? id with
  | none => rfl
  | some o => rw [startCmd_none h]; exact ite_self s

/-- A CFL_PROTECT that may not start, and whose level is not being lowered, changes nothing. -/
theorem exec_cflProtect_idle {level : Nat} (h : s.startable id (.cflProtect id level) = none) (hl : s.cfl.lowerCmd ≠ some id) :
    exec (.cflProtect id level) s = .next s := by
  refine congrArg Host.Outcome.next ((if_neg ?_).trans (startConfig_none h))
  simp [hl]

/-- A ROMX_UPDATE that may not start, and whose image is not being written, changes nothing. -/
theorem exec_romxUpdate_idle (h : s.startable id (.romxUpdate id) = none) (hu : s.sec.updating.map (·.1) ≠ some id) :
    exec (.romxUpdate id) s = .next s := by
  show execRomxUpdate id s = _
  cases hw : s.sec.updating with
  | none => simp only [execRomxUpdate, h, hw, startConfig_none h]
  | some u =>
    have hother : u.1 ≠ id := fun e => hu (by rw [hw, Option.map_some, e])
    simp only [execRomxUpdate, h, hw, if_neg hother]

theorem exec_eventWait_idle (h : s.startable id (.eventWait id) = none) : exec (.eventWait id) s = .next s :=
  congrArg Host.Outcome.next (if_pos (by rw [h]; rfl))

end

/-- Settles O47: each packet command goes through `State.startCmd`, alone or behind the turn of R39 or the hold of R566, but for the three whose rows look
first at what they have begun. A row for a command that is not fetched and waiting leaves the state as it is by the model's choice (log 1). -/
theorem commandNotReadyChangesNothing : Obligations.CommandNotReadyChangesNothing := by
  intro s c id op fs hc h hlower hupdate
  cases c <;> cases hc
  case cflProtect => exact exec_cflProtect_idle h hlower
  case romxUpdate => exact exec_romxUpdate_idle h hupdate
  case eventWait => exact exec_eventWait_idle h
  case cfgWrite | setOpp | partCreate | partModify | partDestroy | attest => exact congrArg Host.Outcome.next (startConfig_none h)
  case blockRead | blockWrite | blockTrim | nsCreate | nsDestroy | objCreate | objWrite | objRead | objDelete | idxCreate | idxQuery | idxInsert | idxDelete |
      idxMerge | idxInfo | idxDestroy => exact congrArg Host.Outcome.next (startNs_none h)
  all_goals exact congrArg Host.Outcome.next (startCmd_none h)

/-! ### HOLD_RESULT on a command without result data (R525, R529) -/

section

variable {s : State} {id : CmdId} {c : Instr} {o : Outst} {k : State → Outst → Unit → Chk (State × Done)} (hh : o.hold = true)

include hh

/-- A command that looks first at HOLD_RESULT ends with the packet offset of FLAGS. -/
theorem startCmd_held {body : State → Outst → Chk (State × Done)} {rest : Unit → Chk (State × Done)} (hb : body s o = noHold o >>= rest)
    (h : s.startable id c = some o) :
    s.startCmd id c body = s.complete o .paramInvalid 0x01 [] :=
  startCmd_error (f := { status := .paramInvalid, detail := 0x01 }) h (by rw [hb, noHold_held hh, bind_error])

theorem exec_held (hc : exec c s = .next (s.startCmd id c (fun s o => noHold o >>= k s o))) (h : s.startable id c = some o) :
    exec c s = .next (s.complete o .paramInvalid 0x01 []) :=
  hc.trans (congrArg Host.Outcome.next (startCmd_held hh rfl h))

theorem exec_held_config (ht : s.configTurn o = true) (hc : exec c s = .next (s.startConfig id c (fun s o => noHold o >>= k s o)))
    (h : s.startable id c = some o) : exec c s = .next (s.complete o .paramInvalid 0x01 []) :=
  hc.trans (congrArg Host.Outcome.next ((startConfig_turn h ht).trans (startCmd_held hh rfl h)))

theorem exec_held_ns {ns : Nat} (hn : s.nsHeld ns = false) (hc : exec c s = .next (s.startNs id ns c (fun s o => noHold o >>= k s o)))
    (h : s.startable id c = some o) : exec c s = .next (s.complete o .paramInvalid 0x01 []) :=
  hc.trans (congrArg Host.Outcome.next ((startNs_free hn).trans (startCmd_held hh rfl h)))

/-- PROG_RUN looks at its slice before its checks (R394). -/
theorem exec_held_progRun {prog : Nat} {seed : W64} (h : s.startable id (.progRun id prog seed) = some o) (hs : s.sliceAllows id = true) :
    exec (.progRun id prog seed) s = .next (s.complete o .paramInvalid 0x01 []) := by
  have hslice : ¬ (!s.sliceAllows id) = true := by rw [hs]; decide
  exact congrArg Host.Outcome.next (startCmd_held hh (if_neg hslice) h)

theorem exec_held_cflProtect {level : Nat} (ht : s.configTurn o = true) (h : s.startable id (.cflProtect id level) = some o) :
    exec (.cflProtect id level) s = .next (s.complete o .paramInvalid 0x01 []) :=
  exec_held_config hh ht (congrArg Host.Outcome.next (if_neg (by rw [h]; simp))) h

theorem exec_held_romxUpdate (ht : s.configTurn o = true) (h : s.startable id (.romxUpdate id) = some o) :
    exec (.romxUpdate id) s = .next (s.complete o .paramInvalid 0x01 []) := by
  show execRomxUpdate id s = _
  simp only [execRomxUpdate, h]
  exact congrArg Host.Outcome.next ((startConfig_turn h ht).trans (startCmd_held hh rfl h))

end

/-- Settles O52: HOLD_RESULT is the first check of each command, behind the turn of R39, the hold of R566 and, for PROG_RUN, its slice. -/
theorem heldWithoutResultRefused : Obligations.HeldWithoutResultRefused := by
  intro s id o hh
  refine ⟨exec_held hh rfl, fun _ _ => exec_held hh rfl, fun _ _ => exec_held hh rfl, fun _ _ _ => exec_held hh rfl, fun _ _ _ => exec_held hh rfl,
    exec_held hh rfl, fun _ => exec_held hh rfl, fun _ _ _ => exec_held hh rfl, fun _ _ => exec_held hh rfl, fun _ => exec_held hh rfl,
    fun _ => exec_held hh rfl, fun _ => exec_held hh rfl, fun _ _ => exec_held hh rfl, fun _ _ => exec_held_progRun hh, fun _ => exec_held hh rfl,
    fun _ => exec_held hh rfl, fun _ => exec_held hh rfl, fun _ => exec_held hh rfl, fun _ => exec_held hh rfl, fun _ => exec_held hh rfl,
    fun _ => exec_held hh rfl, fun _ => exec_held hh rfl, fun _ => exec_held hh rfl, exec_held hh rfl, exec_held hh rfl,
    fun _ _ _ => exec_held hh rfl, fun _ _ _ _ => exec_held hh rfl, fun _ _ _ _ => exec_held hh rfl, fun _ _ _ => exec_held hh rfl, fun ht => ?_,
    fun ns hn => ?_⟩
  · exact ⟨exec_held_config hh ht rfl, fun _ => exec_held_config hh ht rfl, fun _ => exec_held_config hh ht rfl, fun _ => exec_held_config hh ht rfl,
      fun _ => exec_held_config hh ht rfl, fun _ => exec_held_cflProtect hh ht, exec_held_romxUpdate hh ht⟩
  · exact ⟨fun _ _ => exec_held_ns hh hn rfl, fun _ _ => exec_held_ns hh hn rfl, fun _ _ _ _ _ => exec_held_ns hh hn rfl, exec_held_ns hh hn rfl,
      fun _ _ _ => exec_held_ns hh hn rfl, fun _ _ => exec_held_ns hh hn rfl, fun _ => exec_held_ns hh hn rfl, exec_held_ns hh hn rfl,
      fun _ => exec_held_ns hh hn rfl, fun _ => exec_held_ns hh hn rfl, exec_held_ns hh hn rfl⟩

/-! ### An idle step (log 5) -/

section

variable {s : State}

theorem advance_now (s : State) : s.advance.now = s.now + 1 := by
  unfold State.advance; split <;> rfl

@[simp] theorem advance_integ (s : State) : s.advance.integ = s.integ := by
  unfold State.advance; split <;> rfl

@[simp] theorem advance_cfl (s : State) : s.advance.cfl = s.cfl := by
  unfold State.advance; split <;> rfl

theorem advance_unpowered (h : s.power.powered = false) : s.advance = { s with now := s.now + 1 } :=
  if_neg (by rw [h]; decide)

/-- With supply the clocks move on and UPTIME_US with them; nothing else of the power state does. -/
theorem advance_power (h : s.power.powered = true) :
    s.advance.power = { s.power with uptimeUs := (s.power.uptimeUs + 1) % 2 ^ 64 } := by
  rw [State.advance, if_pos h]

/-- Nothing that a checker has found waits to take effect. -/
theorem settleFaults_none (h : s.integ.due = []) : s.settleFaults = s := by
  simp only [State.settleFaults, h, List.foldl_nil]
  rw [← h]

theorem tick_unpowered (hd : s.integ.due = []) (h : s.power.powered = false) : s.tick = { s with now := s.now + 1 } := by
  have hdue : s.advance.integ.due = [] := by rw [advance_integ, hd]
  have hpassed : s.advance.settleFaults = { s with now := s.now + 1 } := (settleFaults_none hdue).trans (advance_unpowered h)
  have hoff : (!s.power.powered) = true := by rw [h]; rfl
  simp only [State.tick, hpassed]
  exact if_pos hoff

theorem tick_powered (hd : s.integ.due = []) (h : s.power.powered = true) (hq : (s.power.flushing || s.power.draining || s.power.replaying) = false)
    (hl : s.cfl.lowering = none) : s.tick = s.advance.logEntries := by
  have hdue : s.advance.integ.due = [] := by rw [advance_integ, hd]
  simp only [Bool.or_eq_false_iff] at hq
  obtain ⟨⟨hflush, hdrain⟩, hreplay⟩ := hq
  simp [State.tick, settleFaults_none hdue, advance_power h, h, hflush, hdrain, hreplay, hl]

end

/-- Settles O45: the clocks move on, and none of the branches of `State.tick` is taken but the last. -/
theorem idleStepIsOneMicrosecond : Obligations.IdleStepIsOneMicrosecond := by
  intro s hp
  refine ⟨by rw [step, hp], advance_now s, fun h => ?_, tick_unpowered, tick_powered⟩
  rw [advance_power h]

end Sys2Proof.Machine
end

section
/-!
PROOFS. Completions: the completion entry's bytes (R499), and what posting one, with all that follow from failed dependencies, leaves of the machine (R499,
R501, R504, R510, R512).
-/
namespace Sys2Proof.Machine

open Sys2Proof

/-! ### The completion entry (R499) -/

theorem capAt_eq_min (m v : Nat) : capAt m v = min v m := by
  unfold capAt; split <;> omega

theorem Status.code_lt (st : Status) : st.code < 65536 := by cases st <;> decide

/-- The FLAGS byte of a completion entry. -/
def Cpl.flags (c : Cpl) : Nat :=
  (if c.repeated then 1 else 0) + (if c.held then 2 else 0) + (if c.event then 4 else 0) + (if c.takenOver then 8 else 0)

/-- The four flags stand in bits 0 to 3. -/
theorem Cpl.flags_read (c : Cpl) :
    c.flags < 16 ∧ bitAt c.flags 0 = c.repeated ∧ bitAt c.flags 1 = c.held ∧ bitAt c.flags 2 = c.event ∧ bitAt c.flags 3 = c.takenOver := by
  unfold Cpl.flags
  generalize c.repeated = r
  generalize c.held = h
  generalize c.event = e
  generalize c.takenOver = t
  revert r h e t
  decide

/-- The entry as fields of whole bytes, one after another. -/
theorem Cpl.bytes_eq (c : Cpl) (sqHead : Nat) (phase : Bool) :
    c.bytes sqHead phase = leBytes 1 (c.tag % 32) ++ (leBytes 1 c.flags ++ (leBytes 2 c.status.code ++ (leBytes 4 c.resultLen ++ (leBytes 4 c.handle ++
      (leBytes 1 sqHead ++ (leBytes 1 0 ++ (leBytes 2 (min c.detail 0xFFFF) ++ (leBytes 8 c.engineNs ++ (leBytes 4 (min c.energyMj 0xFFFFFFFF) ++
        (leBytes 3 (min c.movedMib 0xFFFFFF) ++ leBytes 1 (if phase then 1 else 0))))))))))) := by
  have hpad : ([0] : Bytes) = leBytes 1 0 := rfl
  simp only [Cpl.bytes, Cpl.flags, capAt_eq_min, hpad, List.append_assoc]

theorem Cpl.bytes_length (c : Cpl) (sqHead : Nat) (phase : Bool) : (c.bytes sqHead phase).length = 32 := by
  simp only [Cpl.bytes_eq, List.length_append, leBytes_length, Nat.reduceAdd]

section

variable (s : State)

@[simp] theorem fireVector_hostMem (f : Fn) (v : Nat) : (s.fireVector f v).host.mem = s.host.mem := by
  unfold State.fireVector; split
  · rfl
  · split <;> rfl

@[simp] theorem sendIrq_hostMem (q : QId) : (s.sendIrq q).host.mem = s.host.mem := by
  unfold State.sendIrq; simp only; split
  · rfl
  · rw [fireVector_hostMem, setQueue_host]

@[simp] theorem irqCheck_hostMem (q : QId) : (s.irqCheck q).host.mem = s.host.mem := by
  unfold State.irqCheck; split
  · exact sendIrq_hostMem s q
  · rfl

/-- Writing a completion entry is one write of its bytes at CQ_TAIL. -/
theorem writeCpl_hostMem (q : QId) (c : Cpl) :
    (s.writeCpl q c).host.mem =
      s.host.mem.writeN 0 ((s.queue q).cqBase + 32 * (s.queue q).cqTail) (c.bytes (s.queue q).sqHead (s.queue q).phase) := by
  simp only [State.writeCpl, irqCheck_hostMem, setQueue_host]

end

theorem hostRd_one (s : State) (a : Nat) : s.hostRd a 1 = [s.host.mem.read 0 a] := rfl

/-- Settles O50: the entry is one write (`writeCpl_hostMem`) of fields laid out one after another (`Cpl.bytes_eq`). -/
theorem completionEntryLayout : Obligations.CompletionEntryLayout := by
  intro s q c hwf hlen hhandle hns hhead addr t b flags
  have hb : b = c.bytes (s.queue q).sqHead (s.queue q).phase := by
    have hread := Mem.readN_writeN 0 (c.bytes (s.queue q).sqHead (s.queue q).phase) s.host.mem addr hwf
    rw [Cpl.bytes_length, ← writeCpl_hostMem] at hread
    exact hread
  obtain ⟨hflags, hbits⟩ := c.flags_read
  have hcode := c.status.code_lt
  have hf : flags = c.flags := by
    show field b 1 1 = _
    rw [hb, Cpl.bytes_eq]
    simp (disch := omega)
  have hphase : (if (s.queue q).phase then 1 else 0) < 256 := by split <;> decide
  rw [hf]
  obtain ⟨hrepeated, hheld, hevent, htaken⟩ := hbits
  have hrest : ∀ a, a < addr ∨ addr + 32 ≤ a → t.hostRd a 1 = s.hostRd a 1 := by
    intro a ha
    simp only [hostRd_one, t, writeCpl_hostMem, Mem.read_writeN 0 _ _ _ _ hwf, Cpl.bytes_length]
    rw [if_neg (by omega)]
  refine ⟨?_, hrepeated, hheld, hevent, htaken, hflags, ?_, ?_, ?_, ?_, ?_, ?_, ?_, ?_, ?_, ?_, hrest⟩
  all_goals
    rw [hb, Cpl.bytes_eq]
    simp (disch := omega)

/-! ### What the accounts and events of a completion leave of results (R510, R512) -/

/-- The device's bytes and marks, the held results, and which queues are orphaned, are the same in both states. -/
structure State.SparesResults (s t : State) : Prop where
  mem : t.mem = s.mem
  integ : t.integ = s.integ
  held : t.host.held = s.host.held
  orphaned : ∀ q, (t.queue q).orphaned = (s.queue q).orphaned

theorem State.SparesResults.refl (s : State) : s.SparesResults s := ⟨rfl, rfl, rfl, fun _ => rfl⟩

theorem State.SparesResults.trans {s t u : State} (h : s.SparesResults t) (g : t.SparesResults u) : s.SparesResults u :=
  ⟨g.mem.trans h.mem, g.integ.trans h.integ, g.held.trans h.held, fun q => (g.orphaned q).trans (h.orphaned q)⟩

theorem State.SparesResults.foldl {α : Type} {f : State → α → State} (hf : ∀ (s : State) x, s.SparesResults (f s x)) (l : List α) (s : State) :
    s.SparesResults (l.foldl f s) := by
  induction l generalizing s with
  | nil => exact .refl s
  | cons x l ih => exact (hf s x).trans (ih (f s x))

theorem alookup_ainsert {κ α : Type} [DecidableEq κ] (k k' : κ) (v : α) (l : List (κ × α)) :
    alookup k' (ainsert k v l) = if k = k' then some v else alookup k' l := by
  induction l with
  | nil => rfl
  | cons x l ih =>
    obtain ⟨k₀, v₀⟩ := x
    by_cases h₀ : k₀ = k
    · subst h₀
      by_cases h : k₀ = k' <;> simp [ainsert, alookup, h]
    · by_cases h : k₀ = k'
      · subst h
        simp [ainsert, alookup, h₀, Ne.symm h₀]
      · simp [ainsert, alookup, h₀, h, ih]

theorem setQueue_queue (s : State) (q q' : QId) (v : Queue) : (s.setQueue q v).queue q' = if q = q' then v else s.queue q' := by
  simp only [State.queue, setQueue_host, alookup_ainsert]
  split <;> rfl

section

variable (s : State)

theorem setQueue_spares {q : QId} {v : Queue} (h : v.orphaned = (s.queue q).orphaned) : s.SparesResults (s.setQueue q v) :=
  ⟨rfl, rfl, rfl, fun q' => by
    rw [setQueue_queue]
    split
    · next hq => rw [h, hq]
    · rfl⟩

theorem mgmtPush_spares (w d : Nat) : s.SparesResults (s.mgmtPush w d) := by
  unfold State.mgmtPush; split <;> exact ⟨rfl, rfl, rfl, fun _ => rfl⟩

theorem fireVector_spares (f : Fn) (v : Nat) : s.SparesResults (s.fireVector f v) := by
  unfold State.fireVector; split
  · exact .refl s
  · split <;> exact ⟨rfl, rfl, rfl, fun _ => rfl⟩

theorem sendIrq_spares (q : QId) : s.SparesResults (s.sendIrq q) := by
  unfold State.sendIrq; simp only; split
  · exact .refl s
  · exact (setQueue_spares s (by rfl)).trans (fireVector_spares _ _ _)

theorem irqCheck_spares (q : QId) : s.SparesResults (s.irqCheck q) := by
  unfold State.irqCheck; split
  · exact sendIrq_spares s q
  · exact .refl s

/-- A completion entry goes to host memory. -/
theorem writeCpl_spares (q : QId) (c : Cpl) : s.SparesResults (s.writeCpl q c) := by
  have hwritten : ∀ m, s.SparesResults { s with host := { s.host with mem := m } } := fun _ => ⟨rfl, rfl, rfl, fun _ => rfl⟩
  exact (hwritten _).trans ((setQueue_spares _ (by rfl)).trans (irqCheck_spares _ q))

theorem post_spares (o : Outst) (c : Cpl) : s.SparesResults (s.post o c) := by
  have hposted : ∀ l, s.SparesResults { s with host := { s.host with outst := l } } := fun _ => ⟨rfl, rfl, rfl, fun _ => rfl⟩
  unfold State.post; simp only; split
  · exact hposted _
  · split
    · split
      · exact (hposted _).trans (setQueue_spares _ (by rfl))
      · exact hposted _
    · exact (hposted _).trans (writeCpl_spares _ _ _)

theorem deliver_spares (w d : Nat) (q : QId) : s.SparesResults (s.deliver w d q) := by
  unfold State.deliver; simp only; split
  · exact .refl s
  · split
    · exact post_spares s _ _
    · split <;> exact setQueue_spares s rfl

theorem raise_spares (code src detail : Nat) (sc : Scope) : s.SparesResults (s.raise code src detail sc) := by
  unfold State.raise; simp only
  refine State.SparesResults.trans ?_ (State.SparesResults.foldl (fun t q => deliver_spares t _ _ q) _ _)
  split
  · exact mgmtPush_spares s _ _
  · exact .refl s

theorem updOutst_spares (id : CmdId) (f : Outst → Outst) : s.SparesResults (s.updOutst id f) := ⟨rfl, rfl, rfl, fun _ => rfl⟩

theorem updCtx_spares (p c : Nat) (f : Ctx → Ctx) : s.SparesResults (s.updCtx p c f) := ⟨rfl, rfl, rfl, fun _ => rfl⟩

theorem updPart_spares (p : Nat) (f : PartRt → PartRt) : s.SparesResults (s.updPart p f) := ⟨rfl, rfl, rfl, fun _ => rfl⟩

theorem chargePart_spares (p i n : Nat) : s.SparesResults (s.chargePart p i n) := by
  unfold State.chargePart; simp only; split
  · exact (updPart_spares s p _).trans (raise_spares _ _ _ _ _)
  · exact updPart_spares s p _

theorem chargeDevice_spares (i n : Nat) : s.SparesResults (s.chargeDevice i n) := by
  have hcounted : ∀ a, s.SparesResults { s with device := a } := fun _ => ⟨rfl, rfl, rfl, fun _ => rfl⟩
  unfold State.chargeDevice; simp only; split
  · exact (hcounted _).trans (raise_spares _ _ _ _ _)
  · exact hcounted _

theorem charge_spares (p c i n : Nat) : s.SparesResults (s.charge p c i n) := by
  unfold State.charge; split
  · exact chargeDevice_spares s i n
  · split
    · exact chargePart_spares s p i n
    · simp only
      refine State.SparesResults.trans ?_ (chargePart_spares _ p i n)
      split
      · exact (updCtx_spares s p c _).trans (raise_spares _ _ _ _ _)
      · exact updCtx_spares s p c _

theorem chargeBytes_spares (id : CmdId) (i n : Nat) : s.SparesResults (s.chargeBytes id i n) :=
  (updOutst_spares s id _).trans (updOutst_spares _ id _)

theorem chargeQueue_spares (q : QId) (i n : Nat) : s.SparesResults (s.chargeQueue q i n) := by
  unfold State.chargeQueue; split
  · exact charge_spares s _ _ _ _
  · exact .refl s

theorem chargeEntry_spares (before : State) (id : CmdId) : s.SparesResults (s.chargeEntry before id) := by
  unfold State.chargeEntry; split
  · exact .refl s
  · exact chargeQueue_spares s _ _ _

theorem flushCharges_spares (id : CmdId) : s.SparesResults (s.flushCharges id) := by
  unfold State.flushCharges; split
  · exact (State.SparesResults.foldl (fun t c => charge_spares t _ _ _ _) _ _).trans (updOutst_spares _ _ _)
  · exact .refl s

theorem endOverrun_spares (o : Outst) : s.SparesResults (s.endOverrun o) := by
  unfold State.endOverrun; split
  · exact .refl s
  · simp only; split
    · exact (updCtx_spares s _ _ _).trans (charge_spares _ _ _ _ _)
    · exact .refl s

/-! ### A completion and those that follow from it (R504) -/

/-- The state in which a completing command's result has been placed. -/
def State.placed (s : State) (o : Outst) (bs : Bytes) : State := ((s.endOverrun ((s.outst? o.id).getD o)).placeResult o bs).1

/-- What follows the placing of a result charges, posts and frees, and spares results. -/
theorem finish1_spares (o : Outst) (st : Status) (det : Nat) (bs : Bytes) : (s.placed o bs).SparesResults (s.finish1 o st det bs) := by
  have hends : ∀ (t : State) l l', t.SparesResults ({ t with bindings := l, invocations := l' } : State).sweep :=
    fun _ _ _ => ⟨rfl, rfl, rfl, fun _ => rfl⟩
  unfold State.finish1; simp only
  refine State.SparesResults.trans ?_ (hends _ _ _)
  refine State.SparesResults.trans ?_ ((flushCharges_spares _ _).trans ((post_spares _ _ _).trans (chargeEntry_spares _ _ _)))
  split
  · exact chargeBytes_spares _ _ _ _
  · exact .refl _

/-- Placing an empty result leaves the device's bytes and marks as they are. -/
theorem placed_nil (o : Outst) : (s.placed o []).mem = s.mem ∧ (s.placed o []).integ = s.integ := by
  have h := endOverrun_spares s ((s.outst? o.id).getD o)
  exact ⟨h.mem, h.integ⟩

/-- The commands that a failed dependency ends have no result. -/
theorem settle_leaves (n : Nat) : (State.settle n s).mem = s.mem ∧ (State.settle n s).integ = s.integ := by
  induction n generalizing s with
  | zero => exact ⟨rfl, rfl⟩
  | succ n ih =>
    unfold State.settle; split
    · exact ⟨rfl, rfl⟩
    · next o _ =>
      have h := finish1_spares s o .dependencyFailed (o.depFailed.getD 0) []
      have hnil := placed_nil s o
      have hrest := ih (s.finish1 o .dependencyFailed (o.depFailed.getD 0) [])
      exact ⟨hrest.1.trans (h.mem.trans hnil.1), hrest.2.trans (h.integ.trans hnil.2)⟩

/-- What a completion leaves of the device's bytes and marks is what placing its result does. -/
theorem complete_leaves (o : Outst) (st : Status) (det : Nat) (bs : Bytes) :
    (s.complete o st det bs).mem = (s.placed o bs).mem ∧ (s.complete o st det bs).integ = (s.placed o bs).integ := by
  have h := finish1_spares s o st det bs
  have hrest := settle_leaves (s.finish1 o st det bs) 32
  exact ⟨hrest.1.trans h.mem, hrest.2.trans h.integ⟩

/-! ### Where a result goes (R510, R512, R517) -/

/-- A result that is not held goes to the host. -/
theorem placeResult_unheld {o : Outst} (bs : Bytes) (h : (o.hold || (s.queue o.id.queue).orphaned) = false) :
    (s.placeResult o bs).1.mem = s.mem ∧ (s.placeResult o bs).1.integ = s.integ := by
  unfold State.placeResult; simp only [h]; split <;> exact ⟨rfl, rfl⟩

/-- A held result fills its room, if it has one. -/
theorem fillHeld_mem {n : Nat} {h : Held} (bs : Bytes) (hh : s.heldOf n = some h) :
    (s.fillHeld n bs).mem = if h.room = 0 then s.mem else s.mem.writeN 0 h.room bs := by
  unfold State.fillHeld; simp only [hh, Option.map_some, Option.getD_some]
  split
  · rfl
  · rw [noteMarks_mem]; rfl

/-- A result with a place reserved for it leaves the bytes outside the place as they are. -/
theorem placeResult_outside {o : Outst} {h : Held} (bs : Bytes) {a : Nat} (hh : s.heldOf o.serial = some h) (hwf : s.mem.wf 0 = true)
    (ha : a < h.room ∨ h.room + bs.length ≤ a) : (s.placeResult o bs).1.mem.read 0 a = s.mem.read 0 a := by
  unfold State.placeResult; simp only [hh]; split
  · rfl
  · split
    · rw [fillHeld_mem s bs hh]
      split
      · rfl
      · rw [Mem.read_writeN 0 _ _ _ _ hwf, if_neg (by omega)]
    · rfl

end

/-- Settles O51: what a completion charges, delivers and posts spares results, so that device memory is what placing the result leaves of it. -/
theorem completionKeepsTheRest : Obligations.CompletionKeepsTheRest := by
  intro s o st det bs t
  obtain ⟨hmem, hinteg⟩ := complete_leaves s o st det bs
  have hbefore := endOverrun_spares s ((s.outst? o.id).getD o)
  refine ⟨complete_keeps s o st det bs, fun h => ?_, ?_, fun h a hh hwf ha => ?_⟩
  · have hplaced := placeResult_unheld _ bs ((congrArg (o.hold || ·) (hbefore.orphaned o.id.queue)).trans h)
    exact ⟨hmem.trans (hplaced.1.trans hbefore.mem), hinteg.trans (hplaced.2.trans hbefore.integ)⟩
  · rintro rfl
    have hplaced := placed_nil s o
    exact ⟨hmem.trans hplaced.1, hinteg.trans hplaced.2⟩
  · have hheld : (s.endOverrun ((s.outst? o.id).getD o)).heldOf o.serial = some h := by rw [State.heldOf, hbefore.held]; exact hh
    have hread := placeResult_outside _ bs hheld (by rw [hbefore.mem]; exact hwf) ha
    rw [hbefore.mem] at hread
    exact congrArg (· :: []) ((congrArg (Mem.read 0 · a) hmem).trans hread)

end Sys2Proof.Machine
end

section
/-!
PROOFS. The configuration flash and its protection levels: reads, array operations and their end, the window of BAR2, and CFL_PROTECT as it raises and lowers
the level (R545 to R566).
-/
namespace Sys2Proof.Machine

open Sys2Proof

/-! ### Reading the configuration flash (R545, R546, R549, R563) -/

section

variable {s : State} {id : CmdId} {o : Outst}

/-- What a CFL_READ requires of its range, of its buffer and of the protection level (R545, R563). -/
structure State.CflReadable (s : State) (o : Outst) (addr length : Nat) : Prop where
  some : 1 ≤ length
  short : length ≤ 0x100000
  inside : addr + length ≤ cflSize
  room : (o.hold || decide (length ≤ o.rbufLen)) = true
  level : s.cfl.protLevel = 0 ∨ addr + length ≤ cflCustomer

variable {addr length : Nat}

/-- The checks of a CFL_READ that may read. -/
theorem cflRead_checks (h : s.CflReadable o addr length) (rest : Chk (State × Done)) :
    (do
      inRange (decide (addr < cflSize)) 0x08
      inRange (decide (1 ≤ length) && decide (length ≤ 0x100000) && decide (addr + length ≤ cflSize)) 0x0C
      needRbuf o length
      need (s.cfl.protLevel == 0 || decide (addr + length ≤ cflCustomer)) .protectionDenied s.cfl.protLevel
      rest) = rest := by
  have haddr : addr < cflSize := by have := h.some; have := h.inside; omega
  have hlevel : (s.cfl.protLevel == 0 || decide (addr + length ≤ cflCustomer)) = true := by simpa using h.level
  simp only [haddr, h.some, h.short, h.inside, decide_true, Bool.and_self, inRange_of, needRbuf_of h.room, need_of hlevel, bind_ok]

/-- The 16 bytes of the protection state are read whole, whatever runs. -/
theorem exec_cflRead_protection (h : s.startable id (.cflRead id addr length) = some o) (hr : s.CflReadable o addr length) (ha : addr = 0x02020000)
    (hl : length = 16) : exec (.cflRead id addr length) s = .next (s.ends s o .ok 0 s.protBytes) :=
  congrArg Host.Outcome.next (startCmd_now h ((cflRead_checks hr _).trans (if_pos (by rw [ha, hl]; decide))))

/-- No array operation runs in a bank that a read of at most 1 MiB touches: its own bank, or the next. -/
theorem banks_free (hfree : s.cfl.bankBusy (cflBank addr) = false)
    (hnext : s.cfl.bankBusy (cflBank addr + 1) = false ∨ cflBank (addr + length - 1) ≤ cflBank addr) :
    ((List.range 2).any (fun i => s.cfl.bankBusy (cflBank addr + i) && decide (cflBank addr + i ≤ cflBank (addr + length - 1)))) = false := by
  have hrange : List.range 2 = [0, 1] := rfl
  have hsecond : (s.cfl.bankBusy (cflBank addr + 1) && decide (cflBank addr + 1 ≤ cflBank (addr + length - 1))) = false := by
    rcases hnext with h | h
    · rw [h, Bool.false_and]
    · rw [decide_eq_false (by omega), Bool.and_false]
  simp only [hrange, List.any_cons, List.any_nil, Nat.add_zero, hfree, hsecond, Bool.false_and, Bool.or_false]

/-- A read of banks in which no operation runs answers the bytes of the regions. -/
theorem exec_cflRead_array (h : s.startable id (.cflRead id addr length) = some o) (hr : s.CflReadable o addr length)
    (hother : addr ≠ 0x02020000 ∨ length ≠ 16) (hfree : s.cfl.bankBusy (cflBank addr) = false)
    (hnext : s.cfl.bankBusy (cflBank addr + 1) = false ∨ cflBank (addr + length - 1) ≤ cflBank addr) :
    exec (.cflRead id addr length) s =
      .next (s.ends { s with freeCount := s.freeCount + 1 } o .ok 0 ((List.range length).map (fun i => s.cflByte s.freeCount (addr + i)))) := by
  have hprot : ¬ (addr = 0x02020000 && length = 16) = true := by
    simp only [Bool.and_eq_true, decide_eq_true_eq]
    omega
  refine congrArg Host.Outcome.next (startCmd_now h ((cflRead_checks hr _).trans ?_))
  rw [if_neg hprot, banks_free hfree hnext]
  rfl

/-- The window of BAR2 answers a read that it may take (R546). -/
theorem exec_bar2WindowRead {port : Nat} (hpow : s.power.powered = true) (hlive : s.fnAlive (.pf port) = true) (hd3 : Fn.pf port ∉ s.host.fnD3)
    (hmin : 1 ≤ length) (hmax : length ≤ 512) (hin : addr + length ≤ cflSize) (hpage : addr % 4096 + length ≤ 4096) :
    exec (.bar2WindowRead port addr length) s =
      .next { s with freeCount := s.freeCount + 1
                     out := s.out ++ [.windowData port ((List.range length).map (fun i => s.windowByte s.freeCount (addr + i)))] } := by
  refine congrArg Host.Outcome.next (if_neg ?_)
  simp only [hpow, hlive, hd3, Bool.and_self, Bool.not_true, decide_false, Bool.false_or, Bool.or_eq_true, decide_eq_true_eq]
  omega

end

/-! ### Programming and erasing (R543, R554 to R556, R558, R561, R562) -/

section

variable {s : State} {id : CmdId} {o : Outst}

theorem cflMayWrite_of {addr : Nat} (hc : cflCustomer ≤ addr) (hl : s.cfl.protLevel ≠ 2) (hop : s.cfl.op = none) : s.cflMayWrite addr = .ok () := by
  have hallowed : (decide (cflCustomer ≤ addr) && s.cfl.protLevel != 2) = true := by simp [hc, hl]
  simp only [State.cflMayWrite, need_of hallowed, hop, Option.isNone_none, need_true, bind_ok]

/-- The state in which an array operation of a command has begun. -/
def State.cflBegins (s : State) (op : CflOp) : State := { s with cfl := { s.cfl with op := some op } }

/-- A CFL_PROGRAM that passes its checks runs, with the bytes of its buffer. -/
theorem exec_cflProgram {addr : Nat} (h : s.startable id (.cflProgram id addr) = some o) (hh : o.hold = false) (ha : addr < cflSize) (hmin : 1 ≤ o.ibufLen)
    (hpage : addr % 256 + o.ibufLen ≤ 256) (hc : cflCustomer ≤ addr) (hl : s.cfl.protLevel ≠ 2) (hop : s.cfl.op = none)
    (hb : s.hostBad o.ibuf o.ibufLen = false) :
    exec (.cflProgram id addr) s =
      .next (((s.chargeBytes o.id 16 o.ibufLen).cflBegins
        { id := some id, isErase := false, addr := addr, data := s.hostRd o.ibuf o.ibufLen, suspended := false }).markRunning id) := by
  have hlen : (decide (1 ≤ o.ibufLen) && decide (addr % 256 + o.ibufLen ≤ 256)) = true := by simp [hmin, hpage]
  exact congrArg Host.Outcome.next (startCmd_marks (room := 0) h hh (by
    simp only [noHold_of hh, inRange_of (decide_eq_true ha), inRange_of hlen, cflMayWrite_of hc hl hop, takeIbuf_of hb, bind_ok, State.cflBegins]))

/-- A CFL_ERASE that passes its checks runs; its sector is no longer undefined (R562). -/
theorem exec_cflErase {sector : Nat} (h : s.startable id (.cflErase id sector) = some o) (hh : o.hold = false) (hsec : sector < 4096)
    (hc : cflCustomer ≤ sector * 0x10000) (hl : s.cfl.protLevel ≠ 2) (hop : s.cfl.op = none) :
    exec (.cflErase id sector) s =
      .next (({ s with cfl := { s.cfl with
        op := some { id := some id, isErase := true, addr := sector * 0x10000, data := [], suspended := false }
        undefinedAt := s.cfl.undefinedAt.filter (fun r => r.1 / 0x10000 ≠ sector) } } : State).markRunning id) :=
  congrArg Host.Outcome.next (startCmd_marks (room := 0) h hh (by
    simp only [noHold_of hh, inRange_of (decide_eq_true hsec), cflMayWrite_of hc hl hop, bind_ok]))

section

variable {p : CflOp} (hop : s.cfl.op = some p)

include hop

theorem eraseIs_of {held : Bool} (he : p.isErase = true) (hs : p.suspended = held) : s.cfl.eraseIs held = true := by
  simp only [CflSt.eraseIs, hop, he, hs, beq_self_eq_true, Bool.and_self]

theorem setSuspended_of (v : Bool) : s.cfl.setSuspended v = { s.cfl with op := some { p with suspended := v } } := by
  simp only [CflSt.setSuspended, hop]

theorem exec_cflSuspend (h : s.startable id (.cflSuspend id) = some o) (hh : o.hold = false) (he : p.isErase = true) (hs : p.suspended = false) :
    exec (.cflSuspend id) s = .next ((s.cflBegins { p with suspended := true }).complete o .ok 0 []) :=
  congrArg Host.Outcome.next (startCmd_completes h hh (by
    simp only [noHold_of hh, eraseIs_of hop he hs, need_true, setSuspended_of hop, bind_ok, okDone, State.cflBegins]))

theorem exec_cflResume (h : s.startable id (.cflResume id) = some o) (hh : o.hold = false) (he : p.isErase = true) (hs : p.suspended = true) :
    exec (.cflResume id) s = .next ((s.cflBegins { p with suspended := false }).complete o .ok 0 []) :=
  congrArg Host.Outcome.next (startCmd_completes h hh (by
    simp only [noHold_of hh, eraseIs_of hop he hs, need_true, setSuspended_of hop, bind_ok, okDone, State.cflBegins]))

/-- The end of an operation changes the array and completes its command. -/
theorem exec_cflOperationDone {i : CmdId} (hs : p.suspended = false) (hi : p.id = some i) :
    exec .cflOperationDone s = .next (({ s with cfl := s.cfl.apply p } : State).completeId i .ok 0 []) := by
  show execCflOperationDone s = _
  simp only [execCflOperationDone, hop, hs, hi, Bool.false_eq_true, if_false]

end

end

/-- Settles O23: a read passes its checks once for both of its answers (`cflRead_checks`), and each array operation begins and ends in a lemma of its own. The
bytes of the device's own regions are free values (log 52). -/
theorem configFlashCommandsComplete : Obligations.ConfigFlashCommandsComplete := by
  intro s id o
  refine ⟨fun addr length h hmin hmax hin hroom hlevel => ?_, fun hh => ⟨?_, ?_, fun p hop he => ?_⟩,
    fun p i hop hs hi => exec_cflOperationDone hop hs hi, fun port addr length => exec_bar2WindowRead⟩
  · have hr : s.CflReadable o addr length := ⟨hmin, hmax, hin, hroom, hlevel⟩
    exact ⟨exec_cflRead_protection h hr, exec_cflRead_array h hr⟩
  · exact fun addr h ha hmin hpage hc hl hop hb => exec_cflProgram h hh ha hmin hpage hc hl hop hb
  · exact fun sector h hsec hc hl hop => exec_cflErase h hh hsec hc hl hop
  · exact ⟨fun h hs => exec_cflSuspend hop h hh he hs, fun h hs => exec_cflResume hop h hh he hs⟩

/-! ### The protection level (R563 to R566) -/

section

variable {s : State} {id : CmdId} {o : Outst} {level : Nat}

/-- The body of a CFL_PROTECT whose level is not being lowered. -/
def protectBody (id : CmdId) (level : Nat) (s : State) (o : Outst) : Chk (State × Done) := do
  noHold o
  inRange (decide (level ≤ 2)) 0x08
  if s.cfl.protLevel = level then okDone s
  else if s.cfl.protLevel < level then okDone (s.raiseLevel level)
  else do
    let s ← if s.cfl.protLevel = 2 then do
        need (o.ibufLen != 0) .protectionDenied s.cfl.protLevel
        needIbuf o 16256
        let (t, b) ← s.takeIbuf o 16256
        s.checkRelease level b
        Except.ok t
      else Except.ok s
    .ok ({ s with cfl := { s.cfl with lowerCmd := some id } }, .runs 0)

/-- The state in which a command has begun to lower the level. -/
def State.lowers (s : State) (id : CmdId) : State := { s with cfl := { s.cfl with lowerCmd := some id } }

/-- A CFL_PROTECT that may start and has its turn starts with its body. -/
theorem exec_cflProtect (h : s.startable id (.cflProtect id level) = some o) (ht : s.configTurn o = true) :
    exec (.cflProtect id level) s = .next (s.startCmd id (.cflProtect id level) (protectBody id level)) := by
  refine congrArg Host.Outcome.next ((if_neg ?_).trans (startConfig_turn h ht))
  simp [h]

section

variable (hs : s.startable id (.cflProtect id level) = some o) (ht : s.configTurn o = true) (hh : o.hold = false) (hl : level ≤ 2)

include hs ht hh hl

theorem exec_cflProtect_raises (h : s.cfl.protLevel < level) :
    exec (.cflProtect id level) s = .next ((s.raiseLevel level).complete o .ok 0 []) :=
  (exec_cflProtect hs ht).trans (congrArg Host.Outcome.next (startCmd_completes hs hh (by
    simp only [protectBody, noHold_of hh, inRange_of (decide_eq_true hl), bind_ok, if_neg h.ne, if_pos h, okDone])))

theorem exec_cflProtect_same (h : s.cfl.protLevel = level) : exec (.cflProtect id level) s = .next (s.complete o .ok 0 []) :=
  (exec_cflProtect hs ht).trans (congrArg Host.Outcome.next (startCmd_completes hs hh (by
    simp only [protectBody, noHold_of hh, inRange_of (decide_eq_true hl), bind_ok, if_pos h, okDone])))

theorem exec_cflProtect_lowersFromOne (h1 : s.cfl.protLevel = 1) (h0 : level = 0) :
    exec (.cflProtect id level) s = .next ((s.lowers id).markRunning id) := by
  have hdiff : ¬ s.cfl.protLevel = level := by omega
  have hnot : ¬ s.cfl.protLevel < level := by omega
  have hone : ¬ s.cfl.protLevel = 2 := by omega
  exact (exec_cflProtect hs ht).trans (congrArg Host.Outcome.next (startCmd_marks (room := 0) hs hh (by
    simp only [protectBody, noHold_of hh, inRange_of (decide_eq_true hl), bind_ok, if_neg hdiff, if_neg hnot, if_neg hone, State.lowers])))

section

variable (h2 : s.cfl.protLevel = 2) (hlow : level < 2) (hlen : 16256 ≤ o.ibufLen) (hb : s.hostBad o.ibuf 16256 = false)

include h2 hlow hlen hb

omit hs ht in
/-- From level 2 the body goes on to the release. -/
theorem protectBody_release : protectBody id level s o =
    s.checkRelease level (s.hostRd o.ibuf 16256) >>= fun _ => .ok ((s.chargeBytes o.id 16 16256).lowers id, .runs 0) := by
  have hbuf : (o.ibufLen != 0) = true := by rw [bne_iff_ne]; omega
  have hdiff : ¬ s.cfl.protLevel = level := by omega
  have hnot : ¬ s.cfl.protLevel < level := by omega
  simp only [protectBody, noHold_of hh, inRange_of (decide_eq_true hl), if_neg hdiff, if_neg hnot, if_pos h2, need_of hbuf, needIbuf_of hlen, takeIbuf_of hb,
    bind_ok]
  cases s.checkRelease level (s.hostRd o.ibuf 16256) <;> rfl

/-- A sound release lets the lowering begin. -/
theorem exec_cflProtect_released (hrel : s.checkRelease level (s.hostRd o.ibuf 16256) = .ok ()) :
    exec (.cflProtect id level) s = .next (((s.chargeBytes o.id 16 16256).lowers id).markRunning id) :=
  (exec_cflProtect hs ht).trans (congrArg Host.Outcome.next (startCmd_marks (room := 0) hs hh (by
    rw [protectBody_release hh hl h2 hlow hlen hb, hrel, bind_ok])))

/-- A release that fails refuses the command with what it failed. -/
theorem exec_cflProtect_unreleased {e : Fail} (hrel : s.checkRelease level (s.hostRd o.ibuf 16256) = .error e) :
    exec (.cflProtect id level) s = .next (s.refuses o e) :=
  (exec_cflProtect hs ht).trans (congrArg Host.Outcome.next (startCmd_error hs (by
    rw [protectBody_release hh hl h2 hlow hlen hb, hrel, bind_error])))

end

end

theorem need_error {c : Bool} {st : Status} {d : Nat} {e : Fail} (h : need c st d = .error e) : e = { status := st, detail := d } := by
  cases c
  · exact (Except.error.inj h).symm
  · exact nomatch h

/-- A release fails with a status and a DETAIL alone. -/
theorem checkRelease_error {b : Bytes} {e : Fail} (h : s.checkRelease level b = .error e) : e.keep = none ∧ e.bytes = [] := by
  unfold State.checkRelease at h
  generalize hfields : need _ Status.protectionDenied s.cfl.protLevel = fields at h
  cases fields with
  | error f =>
    obtain rfl : f = e := Except.error.inj h
    rw [need_error hfields]
    exact ⟨rfl, rfl⟩
  | ok _ =>
    rw [need_error h]
    exact ⟨rfl, rfl⟩

theorem refuses_plain {e : Fail} (h : e.keep = none ∧ e.bytes = []) : s.refuses o e = s.complete o e.status e.detail [] := by
  obtain ⟨hkeep, hbytes⟩ := h
  simp only [State.refuses, hkeep, hbytes]

section

variable (hlower : s.cfl.lowerCmd = some id) (hs : s.startable id (.cflProtect id level) = none)

include hlower hs

/-- A row of the command that lowers the level is a stage of the lowering. -/
theorem exec_cflProtect_stage : exec (.cflProtect id level) s = .next (s.lowerStage id level) :=
  congrArg Host.Outcome.next (if_pos (by simp [hlower, hs]))

/-- The secrets go once no command on an encrypted namespace runs. -/
theorem exec_cflProtect_erases (hl : s.cfl.lowering = none) (hlow : level < s.cfl.protLevel) (hr : s.encryptedRunning = false) :
    exec (.cflProtect id level) s = .next ({ s with cfl := { s.cfl with lowering := some level } } : State).eraseSecrets := by
  rw [exec_cflProtect_stage hlower hs]
  simp only [State.lowerStage, hl, if_neg (Nat.not_le.2 hlow), hr, Bool.false_eq_true, if_false]

/-- The last row finishes the lowering and completes the command. -/
theorem exec_cflProtect_finishes (hl : s.cfl.lowering.isSome = true) (hr : s.power.storageReady = true) :
    exec (.cflProtect id level) s = .next ((((s.eraseSecrets.finishLowering).settleFlush).settleCeiling).endLowering id) := by
  obtain ⟨l, hl⟩ := Option.isSome_iff_exists.1 hl
  rw [exec_cflProtect_stage hlower hs]
  simp only [State.lowerStage, hl, hr, if_true]

end

end

/-- Settles O24: a CFL_PROTECT that has its turn starts with `protectBody`, case by case of the level in force; a further row of a lowering is one of its
stages, one stage to a row being the model's choice (log 53). -/
theorem protectionLevelsMove : Obligations.ProtectionLevelsMove := by
  intro s id o
  refine ⟨fun hh level hs ht hl => ⟨exec_cflProtect_raises hs ht hh hl, exec_cflProtect_same hs ht hh hl, exec_cflProtect_lowersFromOne hs ht hh hl, ?_⟩,
    fun level hlower hs => ⟨exec_cflProtect_erases hlower hs, exec_cflProtect_finishes hlower hs⟩⟩
  intro h2 hlow hlen hb u
  cases hrel : s.checkRelease level (s.hostRd o.ibuf 16256) with
  | ok _ => exact exec_cflProtect_released hs ht hh hl h2 hlow hlen hb hrel
  | error e =>
    exact (exec_cflProtect_unreleased hs ht hh hl h2 hlow hlen hb hrel).trans (congrArg Host.Outcome.next (refuses_plain (checkRelease_error hrel)))

/-- Settles O58: a completion leaves the configuration flash as the rise has left it (`complete_keeps`). -/
theorem protectionRisesAtOnce : Obligations.ProtectionRisesAtOnce := by
  intro s id o level hs ht hh hl
  exact ⟨fun h => ⟨_, exec_cflProtect_raises hs ht hh hl h, (complete_keeps _ o _ _ _).cfl, rfl⟩, exec_cflProtect_same hs ht hh hl⟩

end Sys2Proof.Machine
end

section
/-!
PROOFS. Security: attestation, identity, the two rows of a ROMX update, the debug chain, and the SPDM and IDE requests (R544, R569 to R588).
-/
namespace Sys2Proof.Machine

open Sys2Proof

/-! ### Attestation, identity and the debug chain (R570, R577, R578, R588) -/

section

variable {s : State} {id : CmdId} {o : Outst}

theorem exec_attest {nonce : Nat} (h : s.startable id (.attest id nonce) = some o) (ht : s.configTurn o = true)
    (hr : (o.hold || decide (16480 ≤ o.rbufLen)) = true) :
    exec (.attest id nonce) s = .next (s.ends s o .ok 0 (s.reportBody nonce ++ signed (s.reportBody nonce))) :=
  congrArg Host.Outcome.next ((startConfig_turn h ht).trans (startCmd_answers h hr rfl))

theorem exec_identityRead (h : s.startable id (.identityRead id) = some o) (hr : (o.hold || decide (56 + Config.certChain.length ≤ o.rbufLen)) = true) :
    exec (.identityRead id) s = .next (s.ends s o .ok 0 (s.idKey ++ zeros 4 ++ leBytes 4 Config.certChain.length ++ Config.certChain)) :=
  congrArg Host.Outcome.next (startCmd_answers h hr rfl)

/-- At protection level 0 the debug chain opens, and the key slots are erased. -/
theorem exec_debugChainOpen (h : s.cfl.protLevel = 0) :
    exec .debugChainOpen s = .next { s with sec := { s.sec with keySlots := List.replicate 64 0, debugOpened := true } } :=
  congrArg Host.Outcome.next (if_pos h)

/-! ### ROMX updates (R544, R576) -/

/-- The first row checks the image, and begins to write one that the ROM accepts. -/
theorem exec_romxUpdate_first (h : s.startable id (.romxUpdate id) = some o) (ht : s.configTurn o = true) (hh : o.hold = false)
    (hl : s.cfl.protLevel ≠ 2) (hb : s.hostBad o.ibuf o.ibufLen = false) (hu : s.sec.updating = none) :
    exec (.romxUpdate id) s = .next (if romxValid s.sec.minSvn (s.hostRd o.ibuf o.ibufLen) then
      ((s.chargeBytes o.id 16 o.ibufLen).openRomx id (s.hostRd o.ibuf o.ibufLen)).markRunning id else s.complete o .signatureInvalid 0 []) := by
  have hlevel : (s.cfl.protLevel != 2) = true := bne_iff_ne.2 hl
  have hidle : ¬ s.sec.updating.isSome = true := by rw [hu]; decide
  show execRomxUpdate id s = _
  simp only [execRomxUpdate, h]
  refine congrArg Host.Outcome.next ((startConfig_turn h ht).trans ?_)
  cases hv : romxValid s.sec.minSvn (s.hostRd o.ibuf o.ibufLen) with
  | true =>
    have hvalid : romxValid (s.chargeBytes o.id 16 o.ibufLen).sec.minSvn (s.hostRd o.ibuf o.ibufLen) = true := hv
    exact startCmd_marks (room := 0) h hh (by simp only [noHold_of hh, need_of hlevel, if_neg hidle, takeIbuf_of hb, need_of hvalid, bind_ok])
  | false =>
    have hvalid : romxValid (s.chargeBytes o.id 16 o.ibufLen).sec.minSvn (s.hostRd o.ibuf o.ibufLen) = false := hv
    exact startCmd_error (f := { status := .signatureInvalid, detail := 0 }) h (by
      simp only [noHold_of hh, need_of hlevel, if_neg hidle, takeIbuf_of hb, hvalid, need_false, bind_ok, bind_error])

/-- The second row reads the copy back. -/
theorem exec_romxUpdate_second {b : Bytes} (hu : s.sec.updating = some (id, b)) (h : s.startable id (.romxUpdate id) = none) :
    exec (.romxUpdate id) s = .next (s.endRomx id b) := by
  show execRomxUpdate id s = _
  simp only [execRomxUpdate, h, hu, if_true]

end

/-- Settles O25: a command that only answers passes its buffer's check; ROMX_UPDATE acts in two rows, between which the copy is unusable (log 98). -/
theorem securityCommandsComplete : Obligations.SecurityCommandsComplete := by
  intro s id o
  refine ⟨fun nonce => exec_attest, exec_identityRead, exec_romxUpdate_first, fun b hu h => ?_, exec_debugChainOpen⟩
  have hrow := exec_romxUpdate_second hu h
  exact ⟨fun hv => hrow.trans (congrArg Host.Outcome.next (if_pos hv)),
    fun hv => hrow.trans (congrArg Host.Outcome.next (if_neg (Bool.not_eq_true _ ▸ hv)))⟩

/-! ### SPDM requests (R569, R570, R579 to R581, R585) -/

section

variable {s : State} {p : SpdmPath} {x : Spdm} (hlive : s.spdmLive p = true) (hx : s.spdmOf p = x)

include hlive hx

/-- A request in its order on a live path is answered. -/
theorem spdmDo_of {ok : Spdm → Bool} {body : State → Spdm → State} (h : ok x = true) : s.spdmDo p ok body = body s x := by
  subst hx
  simp only [State.spdmDo, hlive, h, Bool.not_true, Bool.false_eq_true, if_false, if_true]

theorem exec_getVersion : exec (.getVersion p) s = .next ((s.setSpdm { Spdm.fresh p with version := true }).spdmReply p 0x04 []) :=
  congrArg Host.Outcome.next (spdmDo_of hlive hx rfl)

theorem exec_getCapabilities (h : x.version = true) : exec (.getCapabilities p) s = .next ((s.setSpdm { x with caps := true }).spdmReply p 0x61 []) :=
  congrArg Host.Outcome.next (spdmDo_of hlive hx h)

theorem exec_negotiateAlgorithms {slh sha : Bool} (h : x.caps = true) (hoffer : (slh || sha) = true) :
    exec (.negotiateAlgorithms p slh sha) s = .next ((s.setSpdm { x with algs := true }).spdmReply p 0x63 []) := by
  refine congrArg Host.Outcome.next ((spdmDo_of hlive hx h).trans (if_neg ?_))
  rw [← Bool.not_or, hoffer]
  decide

section

variable (h : x.algs = true)

include h

theorem exec_getDigests : exec (.getDigests p) s = .next (s.spdmReply p 0x01 (sha256 Config.certChain)) :=
  congrArg Host.Outcome.next (spdmDo_of hlive hx h)

theorem exec_getCertificate (off len : Nat) :
    exec (.getCertificate p 0 off len) s = .next (s.spdmReply p 0x02 ((Config.certChain.drop off).take len)) :=
  congrArg Host.Outcome.next (spdmDo_of hlive hx (by rw [h]; rfl))

theorem exec_challenge (nonce : Bytes) : exec (.challenge p nonce) s = .next (s.spdmReply p 0x03 (signed nonce)) :=
  congrArg Host.Outcome.next (spdmDo_of hlive hx h)

theorem exec_getMeasurements (index nonce : Nat) :
    exec (.getMeasurements p index nonce) s = .next (s.spdmReply p 0x60 (s.measurement index nonce)) :=
  congrArg Host.Outcome.next (spdmDo_of hlive hx h)

end

end

/-! ### Sessions over DOE, and IDE keys (R579, R585, R586) -/

section

variable {s : State} {k : Nat} {x : Spdm} (hlive : s.spdmLive (.doe k) = true) (hx : s.spdmOf (.doe k) = x)

include hlive hx

theorem exec_keyExchange (data : Bytes) (h : x.algs = true) :
    exec (.keyExchange (.doe k) data) s = .next ((s.setSpdm { x with handshake := true, session := false }).spdmReply (.doe k) 0x64 (signed data)) :=
  congrArg Host.Outcome.next (spdmDo_of hlive hx h)

/-- FINISH opens the session where its verification data is right. -/
theorem exec_finish (data : Bytes) (h : x.handshake = true) :
    exec (.finish (.doe k) data) s = .next (if Config.spdmFinishOk x.keyGen data then
        (s.setSpdm { x with handshake := false, session := true }).spdmReply (.doe k) 0x65 []
      else (s.setSpdm { x with handshake := false }).spdmRefuse (.doe k)) :=
  congrArg Host.Outcome.next (spdmDo_of hlive hx h)

theorem exec_keyUpdate (h : x.session = true) :
    exec (.keyUpdate (.doe k)) s = .next ((s.setSpdm { x with keyGen := x.keyGen + 1 }).spdmReply (.doe k) 0x69 []) :=
  congrArg Host.Outcome.next (spdmDo_of hlive hx h)

theorem exec_endSession (h : x.session = true) :
    exec (.endSession (.doe k)) s = .next ((s.setSpdm { x with session := false }).spdmReply (.doe k) 0x6C []) :=
  congrArg Host.Outcome.next (spdmDo_of hlive hx h)

/-- Keys that come inside a session put the stream of a function of its port in the secure state. -/
theorem exec_ideKm {f : Fn} {keys : Bytes} (h : x.session = true) (hf : fnPort f = k) (hkeys : keys ≠ []) (halive : s.fnAlive f = true) :
    exec (.ideKm f true keys) s = .next (({ s with sec := { s.sec with ide := ainsert f true s.sec.ide } } : State).spdmReply (.doe k) 0x7E []) := by
  subst hf
  have hsome : keys.isEmpty = false := List.isEmpty_eq_false_iff.2 hkeys
  exact congrArg Host.Outcome.next (spdmDo_of hlive hx (by simp only [h, hsome, halive, Bool.not_false, Bool.and_self]))

end

section

variable {s : State} {f : Fn} (h : alookup f s.sec.ide = some true)

include h

/-- The state in which the stream of a function has left the secure state, and the error has gone to AER. -/
def State.ideFails (s : State) (f : Fn) : State := { s with sec := { s.sec with ide := ainsert f false s.sec.ide }, out := s.out ++ [.aer f] }

theorem exec_ideIntegrityFailure (cmd : Option CmdId) :
    exec (.ideIntegrityFailure f cmd) s = .next (match cmd with
      | some c => (s.ideFails f).failRun c .dataPoisoned 0
      | none => s.ideFails f) := by
  have hsecure : (alookup f s.sec.ide).getD false = true := by rw [h]; rfl
  refine congrArg Host.Outcome.next ((if_pos hsecure).trans ?_)
  cases cmd <;> rfl

end

/-- Settles O26: a request in its order on a live path is answered by its body (`spdmDo_of`). The order of requests and their response codes are those
presumed of the SPDM standard (log 55). -/
theorem spdmRequestsComplete : Obligations.SpdmRequestsComplete := by
  intro s p x hlive hx
  refine ⟨exec_getVersion hlive hx, exec_getCapabilities hlive hx, fun slh sha => exec_negotiateAlgorithms hlive hx, fun h => ?_, ?_,
    fun f c h => ⟨exec_ideIntegrityFailure h none, exec_ideIntegrityFailure h (some c)⟩⟩
  · exact ⟨exec_getDigests hlive hx h, exec_getCertificate hlive hx h, exec_challenge hlive hx h, exec_getMeasurements hlive hx h⟩
  · rintro k rfl
    exact ⟨exec_keyExchange hlive hx, exec_finish hlive hx, fun h =>
      ⟨exec_keyUpdate hlive hx h, exec_endSession hlive hx h, fun f keys hf hkeys halive => exec_ideKm hlive hx h hf hkeys halive⟩⟩

end Sys2Proof.Machine
end

section
/-!
PROOFS. What reaches the package beside its queues: functions and links (R476 to R482, R516, R517, R611, R681), cap steps and temperature samples (R600 to R605,
R624, R631), the management interface (R637 to R641) and the test access port (R671 to R674).
-/
namespace Sys2Proof.Machine

open Sys2Proof

/-! ### Functions and links -/

section

variable {s : State} {f : Fn}

theorem exec_functionLevelReset (h : s.pcieStopped = false) :
    exec (.functionLevelReset f) s = .next { s.flr f with host := { (s.flr f).host with fnD3 := (s.flr f).host.fnD3.filter (· ≠ f) } } :=
  congrArg Host.Outcome.next (if_neg (Bool.not_eq_true _ ▸ h))

theorem exec_d3hotEntry (h : s.pcieStopped = false) :
    exec (.d3hotEntry f) s = .next { s.flr f with host := { (s.flr f).host with fnD3 := addOnce f (s.flr f).host.fnD3 } } :=
  congrArg Host.Outcome.next (if_neg (Bool.not_eq_true _ ▸ h))

/-- Nothing arrives while PCIe traffic has stopped (R362). -/
theorem functions_stopped (h : s.pcieStopped = true) :
    exec (.functionLevelReset f) s = .next s ∧ exec (.d3hotEntry f) s = .next s ∧ ∀ p n b, exec (.vfEnable p n b) s = .next s :=
  ⟨congrArg Host.Outcome.next (if_pos h), congrArg Host.Outcome.next (if_pos h), fun _ _ _ => congrArg Host.Outcome.next (if_pos h)⟩

/-- NumVFs and VF Enable are taken while VF Enable is clear (R28, R35). -/
theorem exec_vfEnable_clear {p n : Nat} (h : s.pcieStopped = false) (hv : (s.port p).vfEnable = false) (b : Bool) :
    exec (.vfEnable p n b) s = .next (s.updPort p (fun x => { x with numVfs := min n 8, vfEnable := b })) := by
  show execVfEnable p n b s = _
  simp only [execVfEnable, h, hv, Bool.false_eq_true, if_false]

/-- Clearing VF Enable resets each VF (log 19). -/
theorem exec_vfEnable_cleared {p n : Nat} (h : s.pcieStopped = false) (hv : (s.port p).vfEnable = true) :
    exec (.vfEnable p n false) s =
      .next (((List.range 8).foldl (fun t k => t.flr (.vf p k)) s).updPort p (fun x => { x with vfEnable := false, numVfs := min n 8 })) := by
  show execVfEnable p n false s = _
  simp only [execVfEnable, h, hv, Bool.false_eq_true, if_false, if_true]

/-- A request on a link that is up is answered, with Retry Status until 100 ms after PERST_N is released. -/
theorem exec_configRequest {off : Nat} (halive : s.fnAlive f = true) (hup : (s.port (fnPort f)).linkUp = true) :
    exec (.configRequest f off) s = .next
      (if (s.port (fnPort f)).perstN && (s.port (fnPort f)).releasedAt + 100000 ≤ s.now then { s with out := s.out ++ [.configData f (s.configDword f off)] }
      else { s with out := s.out ++ [.configRetry f] }) :=
  congrArg Host.Outcome.next (if_neg (by simp only [halive, hup, Bool.not_true, Bool.or_self, Bool.false_eq_true, not_false_eq_true]))

theorem exec_pcieLinkUp {p : Nat} (hperst : (s.port p).perstN = true) (hready : s.power.adminReady = true) (halive : s.fnAlive (.pf p) = true) :
    exec (.pcieLinkUp p) s =
      .next (({ s with power := { s.power with clocks := ainsert (if p = 0 then .pclk0 else .pclk1) true s.power.clocks } } : State).updPort p
        (fun x => { x with linkUp := true })) :=
  congrArg Host.Outcome.next (if_pos (by simp only [hperst, hready, halive, Bool.and_self]))

end

/-- Settles O42, event by event. Clearing VF Enable acts as a function-level reset of each VF (log 19); PCIE_LINK_UP's conditions are log 20's. -/
theorem functionEventsComplete : Obligations.FunctionEventsComplete := by
  intro s f
  refine ⟨exec_functionLevelReset, exec_d3hotEntry, functions_stopped, fun p n h hv b => exec_vfEnable_clear h hv b, fun p n => exec_vfEnable_cleared,
    fun halive hup off => ?_, fun p => exec_pcieLinkUp, fun p => rfl⟩
  have hasked := exec_configRequest (off := off) halive hup
  refine ⟨fun hperst hlate => hasked.trans (congrArg Host.Outcome.next (if_pos ?_)), fun hearly => hasked.trans (congrArg Host.Outcome.next (if_neg ?_))⟩
  · simp only [hperst, hlate, decide_true, Bool.and_self]
  · simp only [Bool.and_eq_true, decide_eq_true_eq]
    omega

/-! ### Cap steps and temperature samples -/

section

variable {s : State} (hp : s.power.powered = true)

/-- The state in which a cap step has taken the power of the last millisecond and set the partitions' points (R600, R603). -/
def State.capMoves (s : State) (otherW : Nat) : State :=
  let last := (otherW :: s.power.otherLast).take 10
  let u : State := { s with power := { s.power with otherLast := last } }
  ((u.capPoints (last.foldl max 0)).foldl (fun w x => w.updPart x.1 (fun r => { r with clockPoint := x.2.2 })) u).setSupplies

/-- The state in which the stall share has been stepped, and the commands that waited for it have completed (R604). -/
def State.stallSteps (v : State) (hot : Bool) : State :=
  ({ v with power := { v.power with stall := if hot then min (v.power.stall + 10) 90 else v.power.stall - 10 } } : State).settleCaps

include hp

theorem exec_capStep (otherW measuredW : Nat) (hr : s.power.computeReady = true) :
    exec (.capStep otherW measuredW) s =
      .next ((s.capMoves otherW).stallSteps (decide ((s.capMoves otherW).stored.pkgCap (s.capMoves otherW).variant < measuredW))) :=
  congrArg Host.Outcome.next (if_neg (by simp only [hp, hr, Bool.not_true, Bool.or_self, Bool.false_eq_true, not_false_eq_true]))

omit hp in
/-- Before COMPUTE_READY there is nothing to cap. -/
theorem exec_capStep_unready (otherW measuredW : Nat) (hr : s.power.computeReady = false) : exec (.capStep otherW measuredW) s = .next s :=
  congrArg Host.Outcome.next (if_pos (by simp only [hr, Bool.not_false, Bool.or_true]))

/-- The temperatures of the sensors that are fitted are taken, and then the partitions' points move (R605, R631). -/
def State.tempsTaken (s : State) (all : List (Nat × Int)) : State :=
  let t := (all.filter (fun x => s.slotFitted x.1)).foldl State.takeTemp s
  ((List.range 8).filter t.hasPart).foldl State.thermalStep t

/-- A sensor that was at 115 °C or above in the sample before, and is again, stops the device (R624). -/
def State.burnt (s : State) (x : Nat × Int) : Bool := decide (115 ≤ x.2) && (alookup x.1 s.health.hotSince).isSome

theorem exec_tempSample (all : List (Nat × Int)) :
    exec (.tempSample all) s = .next (match (all.filter (fun x => s.slotFitted x.1)).find? s.burnt with
      | some x => (s.tempsTaken all).deviceFaultOf (slotUnit x.1) false
      | none => s.tempsTaken all) :=
  congrArg Host.Outcome.next (if_neg (by rw [hp]; decide))

end

/-- No sensor has burnt where each is below 115 °C or was so before. -/
theorem find_burnt_none {s : State} {l : List (Nat × Int)}
    (h : l.all (fun x => decide (x.2 < 115) || (alookup x.1 s.health.hotSince).isNone) = true) : l.find? s.burnt = none := by
  rw [List.find?_eq_none]
  intro x hx
  have hcool := List.all_eq_true.1 h x hx
  simp only [Bool.or_eq_true, decide_eq_true_eq, Option.isNone_iff_eq_none] at hcool
  simp only [State.burnt, Bool.and_eq_true, decide_eq_true_eq, not_and]
  rcases hcool with hlow | hnew
  · omega
  · rw [hnew]; simp

/-- Settles O39: what a cap step does is `exec_capStep`, read for either outcome of its comparison; 1 ms at 115 °C is two samples in turn (log 57). -/
theorem powerSamplesComplete : Obligations.PowerSamplesComplete := by
  intro s hp
  refine ⟨fun otherW measuredW hr => ?_, fun _ _ => exec_capStep_unready _ _, fun all => ?_⟩
  · intro u v
    have hstep : ∀ hot, decide (v.stored.pkgCap v.variant < measuredW) = hot → exec (.capStep otherW measuredW) s = .next (v.stallSteps hot) := by
      rintro hot rfl
      exact exec_capStep hp otherW measuredW hr
    exact ⟨fun hover => hstep true (decide_eq_true hover), fun hunder => hstep false (decide_eq_false (Nat.not_lt.2 hunder))⟩
  · intro temps t u
    have hsample := exec_tempSample hp all
    exact ⟨fun hcool => hsample.trans (by rw [find_burnt_none hcool]; rfl), fun x hx => hsample.trans (by
      have hfound : (all.filter (fun x => s.slotFitted x.1)).find? s.burnt = some x := hx
      rw [hfound]; rfl)⟩

/-! ### The management interface -/

section

variable {s : State} (hp : s.power.powered = true)

include hp

theorem mgmt_live : ¬ (!s.mgmtLive) = true := by
  rw [State.mgmtLive, hp]; decide

theorem exec_getState :
    exec .getState s = .next (s.mgmtReply 1 0 (leBytes 4 s.devId ++ leBytes 4 0x00010000 ++ leBytes 8 s.sec.serial ++ leBytes 4 (s.devState 0)
      ++ leBytes 4 s.devStatus ++ leBytes 4 s.caps ++ leBytes 8 s.power.uptimeUs)) :=
  congrArg Host.Outcome.next (if_neg (mgmt_live hp))

theorem exec_getHealth (offset length : Nat) :
    exec (.getHealth offset length) s = .next (if 0xC20 < offset + length then s.mgmtReply 2 2 [] else s.mgmtReply 2 0 (slice s.healthBytes offset length)) :=
  congrArg Host.Outcome.next (if_neg (mgmt_live hp))

theorem exec_getEvent_none (h : s.mgmt.events = []) : exec .getEvent s = .next (s.mgmtReply 4 1 []) := by
  refine congrArg Host.Outcome.next ((if_neg (mgmt_live hp)).trans ?_)
  simp only [h]

/-- The oldest event leaves its queue. -/
theorem exec_getEvent_oldest {e : Nat × Nat} {rest : List (Nat × Nat)} (h : s.mgmt.events = e :: rest) :
    exec .getEvent s = .next (({ s with mgmt := { s.mgmt with events := rest, lost := false } } : State).mgmtReply 4 0
      (leBytes 4 e.1 ++ leBytes 2 (capAt 0xFFFF e.2) ++ leBytes 1 (if s.mgmt.lost then 1 else 0))) := by
  refine congrArg Host.Outcome.next ((if_neg (mgmt_live hp)).trans ?_)
  simp only [h]

theorem exec_mctpControl_ask : exec (.mctpControl none) s = .next { s with out := s.out ++ [.mctp s.mgmt.eid] } :=
  congrArg Host.Outcome.next (if_neg (mgmt_live hp))

theorem exec_mctpControl_set {e : Nat} (hmin : 8 ≤ e) (hmax : e < 255) :
    exec (.mctpControl (some e)) s = .next { s with mgmt := { s.mgmt with eid := e }, out := s.out ++ [.mctp e] } := by
  refine congrArg Host.Outcome.next ((if_neg (mgmt_live hp)).trans ?_)
  simp only [hmin, hmax, decide_true, Bool.and_self, if_true]

theorem exec_i3cAddressAssignment {addr : Nat} (h : s.mgmt.smbOnly = false) :
    exec (.i3cAddressAssignment addr) s = .next { s with mgmt := { s.mgmt with i3c := true, addr := addr } } := by
  refine congrArg Host.Outcome.next (if_neg ?_)
  rw [h, Bool.or_false]
  exact mgmt_live hp

/-- In SMBus mode the device answers while events wait (R641). -/
theorem exec_alertResponse (h : s.mgmt.i3c = false) (he : s.mgmt.events ≠ []) :
    exec .alertResponse s = .next { s with out := s.out ++ [.alertAddr s.mgmt.addr] } := by
  have hsome : s.mgmt.events.isEmpty = false := List.isEmpty_eq_false_iff.2 he
  have hlow : s.alertN = false := by simp only [State.alertN, State.mgmtLive, hp, h, hsome, Bool.not_false, Bool.and_self, Bool.not_true]
  exact congrArg Host.Outcome.next (if_pos (by rw [hlow]; rfl))

end

section

variable (s : State) (watts : List Nat)

/-- The temperatures of a telemetry answer, in the order of die slots. -/
def State.telemetryTemps (s : State) : Bytes :=
  (List.range 24).flatMap (fun i => leBytes 1 (match alookup i s.health.temps with
    | some t => codeOf 8 t
    | none => 0x80))

/-- The watts of the seven rails. -/
def telemetryWatts (watts : List Nat) : Bytes := (List.range 7).flatMap (fun i => leBytes 2 (capAt 0xFFFF (watts.getD i 0)))

/-- The engine clocks of the clusters. -/
def State.telemetryClocks (s : State) : Bytes := (List.range (Variant.clusters s.variant)).flatMap (fun k => leBytes 2 (s.clusterMhz k))

theorem flatMap_leBytes_length {α : Type} (n : Nat) (f : α → Nat) (l : List α) : (l.flatMap (fun i => leBytes n (f i))).length = n * l.length := by
  simp only [List.length_flatMap, leBytes_length, List.map_const', List.sum_replicate, smul_eq_mul, Nat.mul_comm]

theorem telemetryTemps_length : s.telemetryTemps.length = 24 := (flatMap_leBytes_length _ _ _).trans (by rw [List.length_range])

theorem telemetryWatts_length : (telemetryWatts watts).length = 14 := (flatMap_leBytes_length _ _ _).trans (by rw [List.length_range])

theorem telemetryClocks_length : s.telemetryClocks.length = 2 * Variant.clusters s.variant :=
  (flatMap_leBytes_length _ _ _).trans (by rw [List.length_range])

theorem exec_getTelemetry {s : State} (hp : s.power.powered = true) :
    exec (.getTelemetry watts) s = .next (s.mgmtReply 3 0 (s.telemetryTemps ++ telemetryWatts watts ++ s.telemetryClocks)) :=
  congrArg Host.Outcome.next (if_neg (mgmt_live hp))

/-- The watts stand in bytes 24 to 37 of the answer. -/
theorem telemetry_watts : slice (s.telemetryTemps ++ telemetryWatts watts ++ s.telemetryClocks) 24 14 = telemetryWatts watts := by
  have hdrop : (s.telemetryTemps ++ (telemetryWatts watts ++ s.telemetryClocks)).drop 24 = telemetryWatts watts ++ s.telemetryClocks :=
    List.drop_left' (telemetryTemps_length s)
  have htake : (telemetryWatts watts ++ s.telemetryClocks).take 14 = telemetryWatts watts := List.take_left' (telemetryWatts_length watts)
  simp only [slice, List.append_assoc, hdrop, htake, telemetryWatts_length, Nat.sub_self, List.replicate_zero, List.append_nil]

end

/-- Settles O28, request by request. Completion codes 1 and 2 and the endpoint IDs that may be assigned are presumed (log 60). -/
theorem managementRequestsComplete : Obligations.ManagementRequestsComplete := by
  intro s hp
  refine ⟨exec_getState hp, fun offset length => ?_, fun watts => ⟨_, exec_getTelemetry watts hp, ?_, telemetry_watts s watts⟩, exec_getEvent_none hp,
    fun e rest => exec_getEvent_oldest hp, exec_mctpControl_ask hp, fun e => exec_mctpControl_set hp, fun addr => exec_i3cAddressAssignment hp,
    exec_alertResponse hp⟩
  · have hasked := exec_getHealth hp offset length
    exact ⟨fun hin => hasked.trans (congrArg Host.Outcome.next (if_neg (Nat.not_lt.2 hin))),
      fun hout => hasked.trans (congrArg Host.Outcome.next (if_pos hout))⟩
  · simp only [List.length_append, telemetryTemps_length, telemetryWatts_length, telemetryClocks_length]

/-! ### The test access port -/

section

variable {s : State}

/-- A boundary instruction acts below protection level 2 while the package is held in reset (R671, R673). -/
theorem tapActs_boundary {ir : Nat} (hl : s.cfl.protLevel ≠ 2) (hr : s.heldInReset = true) (h : ir ∈ [0, 3, 4, 5, 6, 0x10]) :
    (s.tapSelect ir).tapActs = ir := by
  have hheld : (s.tapSelect ir).heldInReset = true := hr
  have hother : ir ≠ 1 ∧ ir ≠ 2 := by constructor <;> rintro rfl <;> simp at h
  have hacts : (ir ∈ [0, 3, 4, 5, 6, 0x10] && (s.tapSelect ir).heldInReset) = true := by rw [hheld, decide_eq_true h]; rfl
  exact (if_neg hother.1).trans ((if_neg hl).trans ((if_neg hother.2).trans (if_pos hacts)))

/-- At protection level 2 every instruction but IDCODE acts as BYPASS. -/
theorem tapActs_protected {ir : Nat} (hl : s.cfl.protLevel = 2) (h1 : ir ≠ 1) : (s.tapSelect ir).tapActs = 0xFF := (if_neg h1).trans (if_pos hl)

/-- A boundary instruction that does not act is BYPASS. -/
theorem tapActs_bypass {ir : Nat} (h : s.cfl.protLevel = 2 ∨ s.heldInReset = false) (h1 : ir ≠ 1) (h2 : ir ≠ 2) : (s.tapSelect ir).tapActs = 0xFF := by
  by_cases hl : s.cfl.protLevel = 2
  · exact tapActs_protected hl h1
  · have hheld : (s.tapSelect ir).heldInReset = false := h.resolve_left hl
    exact (if_neg h1).trans ((if_neg hl).trans ((if_neg h2).trans (if_neg (by rw [hheld, Bool.and_false]; decide))))

/-- SAMPLE acts below protection level 2. -/
theorem tapActs_sample (hl : s.cfl.protLevel ≠ 2) : (s.tapSelect 2).tapActs = 2 := by
  simp [State.tapActs, State.tapSelect, hl]

/-- The lands' levels are shifted out by an instruction that acts. -/
theorem tapCapture_acts {ir : Nat} (h : (s.tapSelect ir).tapActs = ir) :
    (s.tapSelect ir).tapCapture ir =
      { s with freeCount := s.freeCount + 1, out := s.out ++ [.tdo ir s.landSample], test := { s.test with tapIr := ir } } := if_pos h

theorem tapCapture_bypass {ir : Nat} (h : (s.tapSelect ir).tapActs = 0xFF) (hir : ir ≠ 0xFF) : (s.tapSelect ir).tapCapture ir = s.tapSelect ir :=
  if_neg (by rw [h]; exact hir.symm)

end

/-- Settles O30: which instruction acts is said once (`tapActs_boundary`, `tapActs_bypass`); one row selects, captures and shifts (log 62). -/
theorem jtagInstructionsComplete : Obligations.JtagInstructionsComplete := by
  intro s
  refine ⟨rfl, rfl, rfl, rfl, rfl, fun hl => ⟨fun bits => ?_, fun hr => ⟨?_, ?_, ?_, fun k => ?_⟩⟩, fun hl bits => ?_,
    fun h => ⟨?_, ?_, ?_, fun k => ?_⟩⟩
  · have hacts := tapActs_sample hl
    refine congrArg Host.Outcome.next ((if_pos hacts).trans ?_)
    rw [tapCapture_acts hacts]
  · exact congrArg Host.Outcome.next (tapCapture_acts (tapActs_boundary hl hr (by decide)))
  · exact congrArg Host.Outcome.next (tapCapture_acts (tapActs_boundary hl hr (by decide)))
  · exact congrArg Host.Outcome.next (tapCapture_acts (tapActs_boundary hl hr (by decide)))
  · exact congrArg Host.Outcome.next (if_pos (tapActs_boundary hl hr (by decide)))
  · exact congrArg Host.Outcome.next (if_neg (by rw [tapActs_protected hl (by decide)]; decide))
  · exact congrArg Host.Outcome.next (tapCapture_bypass (tapActs_bypass h (by decide) (by decide)) (by decide))
  · exact congrArg Host.Outcome.next (tapCapture_bypass (tapActs_bypass h (by decide) (by decide)) (by decide))
  · exact congrArg Host.Outcome.next (tapCapture_bypass (tapActs_bypass h (by decide) (by decide)) (by decide))
  · exact congrArg Host.Outcome.next (if_neg (by rw [tapActs_bypass h (by decide) (by decide)]; decide))

/-- Settles O59: the register of each variant. -/
theorem idcodeReads : Obligations.IdcodeReads := by
  intro s
  refine ⟨s.idcode, _, rfl, rfl, rfl, rfl, rfl, ?_⟩
  unfold State.idcode
  cases s.variant <;> decide

/-! ### Sequence numbers (R431) -/

/-- The model's difference of two 32-bit numbers is the difference modulo 2^32. -/
theorem seqDiff_eq_emod {a b : Nat} (ha : a < 2 ^ 32) (hb : b < 2 ^ 32) : (((b + 2 ^ 32 - a % 2 ^ 32) % 2 ^ 32 : Nat) : Int) = ((b : Int) - a) % 2 ^ 32 := by
  omega

/-- Settles O57: the comparison is of the difference that `seqDiff_eq_emod` gives. -/
theorem longshoreOrderIsModular : Obligations.LongshoreOrderIsModular := by
  intro a b ha hb
  rw [← seqDiff_eq_emod ha hb]
  simp only [lsLt, Bool.and_eq_true, decide_eq_true_eq]
  omega

end Sys2Proof.Machine
end

section
/-!
PROOFS. Fabric ports and rings: the commands of group 0x8, the events of fibres, lasers and ports, and the packets and timers of Longshore (R422 to R454,
R463 to R470, R534 to R536). How a packet of a ring is received and counted is said once.
-/
namespace Sys2Proof.Machine

open Sys2Proof

/-! ### Fabric-port commands (R425, R426, R534, R536) -/

section

variable {s : State} {id : CmdId} {o : Outst} {l : Nat} (hi : s.lportIdent o l = .ok ())

include hi

/-- FAB_PORT_SET applies its settings to a port whose plane no other port has and no formed ring uses. -/
theorem exec_fabPortSet (h : s.startable id (.fabPortSet id l) = some o) (hh : o.hold = false) (hlen : 48 ≤ o.ibufLen) (hb : s.hostBad o.ibuf 48 = false)
    {b : Bytes} {u : State} (hbytes : s.hostRd o.ibuf 48 = b) (hu : s.chargeBytes o.id 16 48 = u) (hplane : field b 0 1 < 32)
    (hfree : (List.range 32).all (fun k => k == l || !(u.lport k).set || (u.lport k).plane != field b 0 1) = true)
    (hidle : u.fabric.rings.all (fun r => r.forming.isSome || !(u.lport l).set || decide ((u.lport l).plane ∉ r.planeList)) = true) :
    exec (.fabPortSet id l) s = .next ((u.updLport l (fun x => x.applySettings b)).complete o .ok 0 []) := by
  have hnone : (!(List.range 32).any (fun k => k != l && (u.lport k).set && (u.lport k).plane == field b 0 1)) = true := by
    simpa [List.not_any_eq_all_not, or_assoc, bne] using hfree
  have hunused : (!u.fabric.rings.any (fun r => r.forming.isNone && (u.lport l).set && decide ((u.lport l).plane ∈ r.planeList))) = true := by
    simpa [List.not_any_eq_all_not, or_assoc, imp_iff_not_or] using hidle
  exact congrArg Host.Outcome.next (startCmd_completes h hh (by
    simp only [noHold_of hh, hi, needIbuf_of hlen, takeIbuf_of hb, hbytes, hu, inRange_of (decide_eq_true hplane), need_of hnone, need_of hunused, bind_ok,
      okDone]))

/-- FAB_PORT_INFO takes the counters of the FEC in, and answers (log 48). -/
theorem exec_fabPortInfo (h : s.startable id (.fabPortInfo id l) = some o) (hr : (o.hold || decide (128 ≤ o.rbufLen)) = true) :
    exec (.fabPortInfo id l) s =
      .next (s.ends { s.noteFec l with freeCount := (s.noteFec l).freeCount + 1 } o .ok 0 ((s.noteFec l).portInfo l)) :=
  congrArg Host.Outcome.next (startCmd_now h (by simp only [hi, needRbuf_of hr, bind_ok, okResult]))

end

/-! ### Fibres, lasers and links (R423, R424, R440, R444, R445) -/

section

variable {s : State} {port : Nat} {power : Int} (hen : (s.lportEnabled (2 * port) || s.lportEnabled (2 * port + 1)) = true)

include hen

/-- A physical port with an enabled logical port has one. -/
theorem enabledPorts_isEmpty : ([2 * port, 2 * port + 1].filter s.lportEnabled).isEmpty = false := by
  rcases (Bool.or_eq_true _ _).mp hen with h | h
  · simp [h]
  · cases h0 : s.lportEnabled (2 * port) <;> simp [h, h0]

/-- The ports that low power takes down are marked, so that they come up with the laser (log 48). -/
theorem exec_laserPowerLow (hlow : power < laserMin) (hok : (s.lport (2 * port)).laserOk = true) :
    exec (.laserPowerLow port power) s =
      .next ((([2 * port, 2 * port + 1].foldl (fun (t : State) k => (t.portDown k).updLport k (fun x =>
        { x with laser := some power, laserOk := false, dimmed := decide (1 < (t.lport k).state) })) s).driveLaser (port / 2)).raise 7 port (port % 2) .device) :=
  congrArg Host.Outcome.next (if_neg (by simp [enabledPorts_isEmpty hen, hlow, hok]))

/-- The state in which both logical ports of a physical port have light again. -/
def State.relit (s : State) (port : Nat) (power : Int) : State :=
  ([2 * port, 2 * port + 1].foldl (fun (t : State) k => t.updLport k (fun x => { x with laser := some power, laserOk := true })) s).driveLaser (port / 2)

theorem exec_laserPowerRestored (hmin : laserMin ≤ power) (hmax : power ≤ laserMax) (hok : (s.lport (2 * port)).laserOk = false) :
    exec (.laserPowerRestored port power) s =
      .next ([2 * port, 2 * port + 1].foldl (fun (t : State) k => t.updLport k (fun x =>
        { x with dimmed := false
                 state := if x.dimmed && t.lportEnabled k && (s.relit port power).fabric.laserEn.getD (port / 2) false && !t.portTested (k / 2) then 3 else x.state }))
        (s.relit port power)) :=
  congrArg Host.Outcome.next (if_neg (by simp [enabledPorts_isEmpty hen, hmin, hmax, hok]))

end

section

variable {s : State} {l : Nat} (hen : s.lportEnabled l = true)

include hen

theorem exec_fabricPortStateChange_down : exec (.fabricPortStateChange l false) s = .next (s.portDown l) :=
  congrArg Host.Outcome.next (if_neg (by rw [hen]; decide))

/-- A link comes up only with light, and not while its port is tested. -/
theorem exec_fabricPortStateChange_up (hlit : s.fabric.laserEn.getD (l / 4) false = true) (hok : (s.lport l).laserOk = true)
    (hfree : s.portTested (l / 2) = false) : exec (.fabricPortStateChange l true) s = .next (s.portUp l) := by
  have hoff : ¬ (!s.lportEnabled l) = true := by rw [hen]; decide
  have hlight : (s.fabric.laserEn.getD (l / 4) false && (s.lport l).laserOk && !s.portTested (l / 2)) = true := by rw [hlit, hok, hfree]; rfl
  exact congrArg Host.Outcome.next ((if_neg hoff).trans (if_pos hlight))

end

/-- Settles O17, command by command and event by event. That a port comes up with its laser by its mark, and event 7's DETAIL, are the model's choices
(log 48). -/
theorem fabricPortCommandsComplete : Obligations.FabricPortCommandsComplete := by
  intro s id o l
  refine ⟨fun hi => ⟨?_, exec_fabPortInfo hi⟩, fun oe hoe => ⟨congrArg Host.Outcome.next (if_pos hoe), congrArg Host.Outcome.next (if_pos hoe)⟩,
    fun port power hen => ⟨exec_laserPowerLow hen, ?_⟩, fun hen => ⟨exec_fabricPortStateChange_down hen, exec_fabricPortStateChange_up hen⟩⟩
  · exact fun h hh hlen hb hplane hfree hidle => exec_fabPortSet hi h hh hlen hb rfl rfl hplane hfree hidle
  · exact exec_laserPowerRestored hen

/-! ### Ring commands (R446 to R450, R535) -/

section

variable {s : State} {id : CmdId} {o : Outst}

/-- What a RING_FORM asks for, and what it requires (R446, R447, R449). -/
structure State.RingFormPasses (s : State) (o : Outst) (ringId epoch members index planes timeout : Nat) : Prop where
  two : 2 ≤ members
  many : members ≤ 4096
  index : index < members
  timeout : timeout ≤ 60000
  ported : (maskList 32 planes).all (fun n => (s.lportOf n).any (fun l => bitAt (s.entry (ioPart o)).fabMask (l / 2))) = true
  unformed : s.ringFormed ringId = false
  ibuf : 32 * (maskList 32 planes).length ≤ o.ibufLen
  rbuf : (o.hold || decide (4 ≤ o.rbufLen)) = true
  few : s.formedRings.length < 16
  epoch : (alookup ringId s.fabric.lastEpoch).all (fun e => lsLt e epoch) = true
  readable : s.hostBad o.ibuf (32 * (maskList 32 planes).length) = false

variable {ringId epoch members index planes timeout : Nat}

/-- The ring that a RING_FORM begins, with the handle `h` and the neighbours' addresses of its input buffer. -/
def State.ringOf (s : State) (id : CmdId) (o : Outst) (ringId epoch members index planes h : Nat) : Ring :=
  let ps := maskList 32 planes
  let b := s.hostRd o.ibuf (32 * ps.length)
  newRing h ringId epoch members index planes (ioPart o) id (addrList ps b) (addrList ps (b.drop (16 * ps.length)))

/-- The state in which a ring has been added and sends its HELLO to both neighbours. -/
def State.ringBegins (w : State) (h : Nat) (r : Ring) : State :=
  ({ w with fabric := { w.fabric with rings := w.fabric.rings ++ [r] } } : State).raiseBoth h (r.ctl 1 0 0 0)

theorem exec_ringForm (h : s.startable id (.ringForm id ringId epoch members index planes timeout) = some o)
    (hp : s.RingFormPasses o ringId epoch members index planes timeout) {w : State × Nat}
    (hw : (s.chargeBytes o.id 16 (32 * (maskList 32 planes).length)).newHandle (ioPart o) = w) :
    exec (.ringForm id ringId epoch members index planes timeout) s =
      .next (s.goesOn (w.1.ringBegins w.2 (s.ringOf id o ringId epoch members index planes w.2)) o 4) := by
  have hmembers : (decide (2 ≤ members) && decide (members ≤ 4096)) = true := by simp [hp.two, hp.many]
  have hnew : (!s.ringFormed ringId) = true := by rw [hp.unformed]; rfl
  exact congrArg Host.Outcome.next (startCmd_runs h (by
    simp only [inRange_of hmembers, inRange_of (decide_eq_true hp.index), inRange_of (decide_eq_true hp.timeout), need_of hp.ported, need_of hnew,
      needIbuf_of hp.ibuf, needRbuf_of hp.rbuf, need_of (decide_eq_true hp.few), need_of hp.epoch, takeIbuf_of hp.readable, hw, bind_ok,
      State.ringBegins, State.ringOf]))

/-- A ring whose FORM_TIMEOUT has passed goes, and its command ends with RING_BROKEN. -/
theorem exec_formTimeout {r : Ring} (h : s.fabric.rings.find? (fun x => x.forming = some id) = some r) :
    exec (.formTimeout id) s =
      .next (({ s with fabric := { s.fabric with rings := s.fabric.rings.filter (fun x => x.handle ≠ r.handle) } } : State).completeId id .ringBroken r.index []) := by
  show execFormTimeout id s = _
  simp only [execFormTimeout, h]

section

variable {h : Nat} {r : Ring} (hi : s.ringIdent o h = .ok r)

include hi

theorem exec_ringDissolve (hs : s.startable id (.ringDissolve id h) = some o) (hh : o.hold = false) (hn : s.ringNamed id r.handle = false) :
    exec (.ringDissolve id h) s =
      .next (({ s with fabric := { s.fabric with rings := s.fabric.rings.filter (fun x => x.handle ≠ h) } } : State).complete o .ok 0 []) := by
  have hfree : (!s.ringNamed id r.handle) = true := by rw [hn]; rfl
  exact congrArg Host.Outcome.next (startCmd_completes hs hh (by simp only [noHold_of hh, hi, need_of hfree, bind_ok, okDone]))

theorem exec_ringInfo (hs : s.startable id (.ringInfo id h) = some o) (hr : (o.hold || decide (80 ≤ o.rbufLen)) = true) :
    exec (.ringInfo id h) s = .next (s.ends s o (if r.isBroken then .ringState else .ok) 0 r.info) :=
  congrArg Host.Outcome.next (startCmd_now hs (by simp only [hi, needRbuf_of hr, bind_ok]))

end

end

/-- Settles O18: a RING_FORM that passes its checks leaves its ring forming and waits; the other commands and the timeout end theirs. -/
theorem ringCommandsComplete : Obligations.RingCommandsComplete := by
  intro s id o
  refine ⟨?_, fun r => exec_formTimeout, fun h r hi => ⟨exec_ringDissolve hi, exec_ringInfo hi⟩⟩
  intro ringId epoch members index planes timeout hs htwo hmany hindex htimeout ps hported hformed hibuf hrbuf hfew hepoch hread b w r
  exact exec_ringForm hs ⟨htwo, hmany, hindex, htimeout, hported, hformed, hibuf, hrbuf, hfew, hepoch, hread⟩ rfl

/-! ### Packets of a ring (R428, R432, R433) -/

section

variable {s : State} {l : Nat} {pkt : LsPkt} {r : Ring} (ha : s.ringArrival l pkt r = true)

include ha

/-- A packet for a ring that is formed, or a HELLO for one that forms, is counted and taken. -/
theorem receive_of {hello : Bool} (hf : (hello || r.forming.isNone) = true) (f : State → Ring → State) :
    s.receive l pkt true hello f = f (s.counted l pkt r) r := by
  simp only [State.ringArrival, Bool.and_eq_true, beq_iff_eq, decide_eq_true_eq] at ha
  obtain ⟨hup, hring⟩ := ha
  have hfound : s.fabric.rings.find? (fun r => r.ringId = pkt.ring && r.epoch = pkt.epoch && r.index = pkt.dst && (hello || r.forming.isNone)) = some r := by
    rw [List.find?_eq_some_iff_append] at hring ⊢
    obtain ⟨hr, before, after, hsplit, hbefore⟩ := hring
    refine ⟨by rw [hr, hf]; rfl, before, after, hsplit, fun x hx => ?_⟩
    have hother := hbefore x hx
    rw [Bool.not_eq_true'] at hother ⊢
    rw [hother, Bool.false_and]
  simp only [State.receive, hup, ne_eq, not_true_eq_false, if_false, hfound, if_true, State.counted] <;> rfl

end

/-! ### DATA, ACKs, link adders and timers (R434 to R439, R463 to R468) -/

section

variable {s : State} {l : Nat} {pkt : LsPkt} {r : Ring}

/-- The state in which DATA has joined its stripe, and in a ring of two has acknowledged (R434, R438). -/
def State.dataTaken (t : State) (r : Ring) (pkt : LsPkt) : State :=
  let v := t.updRing r.handle (fun x => x.setRecv pkt.stripe ((x.recvOf pkt.stripe).take pkt))
  if r.two then v.takeAck r.handle pkt.stripe pkt.ackSeq pkt.credit [] false else v

/-- Whether DATA that has been taken is to be acknowledged now: 16 packets wait (R436). -/
def State.ackDue (u : State) (h st : Nat) : Bool :=
  match u.ring? h with
  | some x => decide (16 ≤ (x.recvOf st).sinceAck)
  | none => false

theorem ackDue_of {u : State} {h st : Nat} {x : Ring} (hx : u.ring? h = some x) : u.ackDue h st = decide (16 ≤ (x.recvOf st).sinceAck) := by
  simp only [State.ackDue, hx]

section

variable (ha : s.ringArrival l pkt r = true) (hst : r.hasStripe pkt.stripe = true) (hf : r.forming = none)

include ha hst hf

/-- DATA from the predecessor is taken, acknowledged where it is due, and what it completes is drained. -/
theorem exec_dataReceived (ht : pkt.type = 1) (hp : r.fromPred pkt = true) (hb : r.isBroken = false) {u : State}
    (hu : (s.counted l pkt r).dataTaken r pkt = u) :
    exec (.dataReceived l pkt true) s =
      .next ((if u.ackDue r.handle pkt.stripe then u.sendAck r.handle pkt.stripe pkt.plane else u).drain r.handle) := by
  subst hu
  refine congrArg Host.Outcome.next ((if_neg (not_not.2 ht)).trans ((receive_of ha (by rw [hf]; rfl) _).trans (if_neg ?_)))
  simp only [hp, hst, hb, hf, Bool.not_true, Option.isSome_none, Bool.or_self, Bool.false_eq_true, not_false_eq_true]

/-- An ACK from the successor frees what it covers. -/
theorem exec_ackReceived (ht : pkt.type = 2) (hs : r.fromSucc pkt = true) :
    exec (.ackReceived l pkt true) s =
      .next ((s.counted l pkt r).takeAck r.handle pkt.stripe pkt.ackSeq pkt.credit (sackSeqs pkt.ackSeq pkt.sack) pkt.ceSeen) := by
  refine congrArg Host.Outcome.next ((if_neg (not_not.2 ht)).trans ((receive_of ha (by rw [hf]; rfl) _).trans (if_neg ?_)))
  simp only [hs, hst, hf, Bool.not_true, Option.isSome_none, Bool.or_self, Bool.false_eq_true, not_false_eq_true]

end

section

variable {h : Nat} (hr : s.ring? h = some r)

include hr

theorem exec_linkAdderHop {st seq : Nat} {op : RingOp} {p : LsPkt} (hop : r.current = some op)
    (hp : (r.recvOf st).staged.find? (fun q => q.seq = seq) = some p) (hstart : op.startSeen = true) (hadds : r.adds op p = true) :
    exec (.linkAdderHop h st seq) s = .next (((s.unstagePkt h st seq).takeAdd h p).drain h) := by
  show execLinkAdderHop h st seq s = _
  simp only [execLinkAdderHop, hr, hop, hp, hstart, hadds, Bool.and_self, if_true]

theorem exec_ackTimer {st : Nat} (hst : r.hasStripe st = true) (hs : 0 < (r.recvOf st).sinceAck) :
    exec (.ackTimer h st) s = .next (s.sendAck h st (r.stripePlane false st)) := by
  show execAckTimer h st s = _
  simp only [execAckTimer, hr, hst, hs, decide_true, Bool.and_self, if_true]

end

end

/-- Settles O19: a packet is received and counted (`receive_of`), and then taken by its kind. -/
theorem ringDataStepsComplete : Obligations.RingDataStepsComplete := by
  intro s l pkt r
  refine ⟨fun ha hst hf => ⟨fun ht hp hb => ?_, exec_ackReceived ha hst hf⟩, fun h st seq hr =>
    ⟨fun op p => exec_linkAdderHop hr, exec_ackTimer hr, rfl⟩⟩
  intro v u
  have hdata := exec_dataReceived (u := u) ha hst hf ht hp hb rfl
  refine ⟨fun x hx hfew => hdata.trans ?_, fun x hx hmany => hdata.trans ?_⟩
  · have hdue : u.ackDue r.handle pkt.stripe = false := (ackDue_of hx).trans (decide_eq_false (Nat.not_le.2 hfew))
    exact congrArg (fun w : State => Host.Outcome.next (w.drain r.handle)) (if_neg (by rw [hdue]; decide))
  · have hdue : u.ackDue r.handle pkt.stripe = true := (ackDue_of hx).trans (decide_eq_true hmany)
    exact congrArg (fun w : State => Host.Outcome.next (w.drain r.handle)) (if_pos hdue)

/-! ### Planes (R440 to R442) -/

section

variable {s : State} {h plane : Nat} {r : Ring}

section

variable (hr : s.ring? h = some r)

include hr

/-- A plane fails toward a neighbour that has not acknowledged what was outstanding on it. -/
theorem exec_planeFailTimeout {succ : Bool}
    (hout : (decide ((plane, succ) ∈ r.probing) || ((succ || r.two) && r.send.any (fun x => x.2.plane == plane && !x.2.unacked.isEmpty))) = true) :
    exec (.planeFailTimeout h plane succ) s = .next (s.failPlane h plane succ) := by
  show execPlaneFailTimeout h plane succ s = _
  simp only [execPlaneFailTimeout, hr]
  rw [if_pos hout]

/-- A PROBE goes out on a plane of a formed ring on which no DATA is outstanding. -/
theorem exec_probeTimer {succ : Bool} (hp : plane ∈ r.planeList) (hf : r.forming = none)
    (hidle : succ = false ∨ r.send.all (fun x => x.2.plane != plane || x.2.unacked.isEmpty) = true) :
    let again := fun (d : Nat × Nat) => if d.1 = plane && decide ((plane, succ) ∈ r.probing) then (plane, 0) else d
    let t := s.updRing h (fun x => { x with
      downSucc := if succ then x.downSucc.map again else x.downSucc, downPred := if succ then x.downPred else x.downPred.map again
      probing := addOnce (plane, succ) x.probing })
    exec (.probeTimer h plane succ) s =
      .next (t.sendPkt h succ (t.header r 3 succ ((r.planeList.findIdx? (fun q => q = plane)).getD 0) plane 0)) := by
  intro again t
  have hquiet : (succ && r.send.any (fun x => x.2.plane == plane && !x.2.unacked.isEmpty)) = false := by
    rcases hidle with hpred | hall
    · rw [hpred, Bool.false_and]
    · have hnone : r.send.any (fun x => x.2.plane == plane && !x.2.unacked.isEmpty) = false := by
        simpa [List.any_eq_false, bne, imp_iff_not_or] using hall
      rw [hnone, Bool.and_false]
  show execProbeTimer h plane succ s = _
  simp only [execProbeTimer, hr, hp, hf, hquiet, not_true_eq_false, decide_false, Option.isSome_none, Bool.or_self, Bool.false_eq_true, if_false]
  rfl

end

section

variable {l : Nat} {pkt : LsPkt} (ha : s.ringArrival l pkt r = true) (hf : r.forming = none) (hn : (r.fromPred pkt || r.fromSucc pkt) = true)

include ha hf hn

/-- A PROBE is answered with an ACK on its plane, with the SACK map of its stripe (log 49). -/
theorem exec_probeReceived_probe (ht : pkt.type = 3) :
    exec (.probeReceived l pkt true) s =
      .next ((s.counted l pkt r).sendPkt r.handle (r.fromSucc pkt) { (s.counted l pkt r).header r 2 (r.fromSucc pkt) pkt.stripe pkt.plane 0 with
        sack := if !r.fromSucc pkt || r.two then (r.recvOf pkt.stripe).sack else 0 }) := by
  have hkind : ¬ (pkt.type ≠ 3 && pkt.type ≠ 2) = true := by simp [ht]
  have hneighbour : ¬ (!(r.fromPred pkt || r.fromSucc pkt) || r.forming.isSome) = true := by simp [hn, hf]
  exact congrArg Host.Outcome.next ((if_neg hkind).trans ((receive_of ha (by rw [hf]; rfl) _).trans ((if_neg hneighbour).trans (if_pos ht))))

/-- An ACK that answers a PROBE counts toward the return of its plane. -/
theorem exec_probeReceived_ack (ht : pkt.type = 2) (hp : (pkt.plane, r.fromSucc pkt) ∈ r.probing) :
    exec (.probeReceived l pkt true) s = .next ((s.counted l pkt r).updRing r.handle (fun x => x.answered pkt.plane (r.fromSucc pkt))) := by
  have hkind : ¬ (pkt.type ≠ 3 && pkt.type ≠ 2) = true := by simp [ht]
  have hneighbour : ¬ (!(r.fromPred pkt || r.fromSucc pkt) || r.forming.isSome) = true := by simp [hn, hf]
  have hack : ¬ pkt.type = 3 := by omega
  exact congrArg Host.Outcome.next ((if_neg hkind).trans ((receive_of ha (by rw [hf]; rfl) _).trans
    ((if_neg hneighbour).trans ((if_neg hack).trans (if_pos hp)))))

end

end

/-- Settles O20, timer by timer and packet by packet. The form of the answer to a PROBE is the model's choice (log 49). -/
theorem planeStepsComplete : Obligations.PlaneStepsComplete := by
  intro s h r plane
  refine ⟨fun succ hr hp => exec_planeFailTimeout hr (by simp [hp]), fun succ hr hdir hout => exec_planeFailTimeout hr (by rw [hdir, hout]; simp),
    fun succ hr hp hf hidle => exec_probeTimer hr hp hf hidle, fun l pkt ha hf hn => ⟨exec_probeReceived_probe ha hf hn, exec_probeReceived_ack ha hf hn⟩⟩

/-! ### CONTROL packets (R449, R453, R454, R470) -/

section

variable {s : State} {l : Nat} {pkt : LsPkt} {r : Ring} {c : Ctl} (ha : s.ringArrival l pkt r = true) (ht : pkt.type = 4) (hc : pkt.ctl = some c)

include ha ht hc

/-- A CONTROL packet of a kind is counted and taken by the machine of its kind. -/
theorem control_of {kind : Nat} (hk : c.kind = kind) (hf : (kind == 1 || r.forming.isNone) = true) (f : State → Ring → Ctl → State) :
    s.control l pkt true kind f = f (s.counted l pkt r) r c := by
  have hkind : ¬ (pkt.type ≠ 4 || c.kind ≠ kind) = true := by simp [ht, hk]
  simp only [State.control, hc]
  rw [if_neg hkind, receive_of ha hf]

theorem exec_hello (hk : c.kind = 1) : exec (.hello l pkt true) s = .next ((s.counted l pkt r).takeHello r pkt c) :=
  congrArg Host.Outcome.next (control_of ha ht hc hk rfl _)

variable (hf : r.forming = none)

include hf

theorem exec_start (hk : c.kind = 2) (hb : r.isBroken = false) : exec (.start l pkt true) s = .next ((s.counted l pkt r).takeStart r pkt c) :=
  congrArg Host.Outcome.next ((control_of ha ht hc hk (by rw [hf]; rfl) _).trans (if_neg (by rw [hf, hb]; decide)))

variable (hn : (r.fromPred pkt || r.fromSucc pkt) = true)

include hn

theorem exec_abort (hk : c.kind = 3) : exec (.abort l pkt true) s = .next ((s.counted l pkt r).takeAbort r pkt c) :=
  congrArg Host.Outcome.next ((control_of ha ht hc hk (by rw [hf]; rfl) _).trans (if_neg (by rw [hf, hn]; decide)))

theorem exec_broken (hk : c.kind = 4) : exec (.broken l pkt true) s = .next ((s.counted l pkt r).takeBroken r pkt c) :=
  congrArg Host.Outcome.next ((control_of ha ht hc hk (by rw [hf]; rfl) _).trans (if_neg (by rw [hf, hn]; decide)))

end

/-- The repeat timer sends every CONTROL that no neighbour has answered once more (R454). -/
theorem exec_controlRepeat {s : State} {h : Nat} {r : Ring} (hr : s.ring? h = some r) :
    exec (.controlRepeat h) s = .next (r.controls.foldl (fun t c => t.sendCtl h c.1 c.2 true) s) := by
  show execControlRepeat h s = _
  simp only [execControlRepeat, hr]

/-- Settles O21: a CONTROL packet is received as any packet of its ring is (`control_of`), and a HELLO by a ring that forms as well. -/
theorem ringControlStepsComplete : Obligations.RingControlStepsComplete := by
  intro s l pkt r
  exact ⟨fun h => exec_controlRepeat, fun c ha ht hc => ⟨exec_hello ha ht hc, fun hf =>
    ⟨exec_start ha ht hc hf, fun hn => ⟨exec_abort ha ht hc hf hn, exec_broken ha ht hc hf hn⟩⟩⟩⟩

end Sys2Proof.Machine
end
